-- ==== Sys2Proof/Word.lean ====
section
/-! DEFINITION. The widths the spec gives its values, and the two shapes of collection the state is made of: a sparse
map (a list of key and value pairs) and a value for each of a warp's 128 lanes. -/

set_option Elab.async false

namespace Sys2Proof

/-- A byte of memory. -/
abbrev Byte := BitVec 8
/-- A 64-bit value: an s register, a system register, an instruction word (R53, R58). -/
abbrev Word := BitVec 64
/-- The 32-bit value of one lane of a v register (R58). -/
abbrev Lane := BitVec 32
/-- An 80-bit virtual address (R124). -/
abbrev Addr := BitVec 80
/-- A 128-bit lane mask, bit t for lane t (R126). -/
abbrev Mask := BitVec 128
/-- An accumulator element (R102). -/
abbrev A96 := BitVec 96
/-- The 128 bytes of one line, byte i in bits [8i+7:8i] (R233). -/
abbrev Line := BitVec 1024

/-- A sparse map from numbers: an unlisted key reads as the default that each reader names. -/
abbrev SMap (α : Type) := List (Nat × α)

/-- One value for each of the 128 lanes of a warp (R13). -/
abbrev Lanes (α : Type) := Vector α 128

/-- The value of every lane, given lane by lane. -/
def Lanes.mk {α : Type} (f : Nat → α) : Lanes α :=
  ⟨((List.range 128).map f).toArray, by simp⟩

/-- The value of lane t; the number is taken below 128. -/
def Lanes.at {α : Type} (x : Lanes α) (t : Nat) : α :=
  x[t % 128]'(Nat.mod_lt _ (by decide))

end Sys2Proof
end

