-- ==== Sys2Proof/Config.lean ====
section
/-! DEFINITION. What the spec leaves to the implementation, as constants without a body: nothing in Lean can evaluate
them, so a statement about them holds whatever they are. -/

namespace Sys2Proof.Config

/-- FREE VALUE (log 3): the latch value, or any other value the spec does not state, of a fresh occasion; it is
applied to the counter `State.fresh`, which each use advances. -/
opaque freeValue : Nat → BitVec 64

/-- FREE VALUE (log 3): a choice among n things whose order the spec leaves open (which copy makes room). -/
opaque freeChoice : Nat → Nat

/-- FREE VALUE (log 131): the slots of a partition after which a warp that can issue is served (R467). -/
opaque serveBound : Nat

/-- FREE VALUE (log 20): what a transcendental form gives where the model's interval arithmetic, at its largest
precision, does not decide the rounding; the arguments are the form, the format, the mode's code and the operand. -/
opaque undecided : Nat → Nat → Nat → Nat → BitVec 64

/-- FREE VALUE (log 36): the 128-byte lines of the expander on CXL port n; the spec gives no sizes (R454). -/
opaque cxlLines : Nat → Nat

/-- FREE VALUE (log 39): the parameter block that the fitter proposes (R441), on a fresh occasion. -/
opaque fitMould : Nat → List Byte

/-- FREE VALUE (log 42): the code in SHAPE's TRAPINFO when the two records of CPYT disagree, for which R331 names the trap and
R390 lists no code. -/
opaque mismatchCode : BitVec 128 → BitVec 128 → Nat

/-- UNINTERPRETED (DESIGN CHOICE: log 30): SHAKE256 of a byte string, as 32 bytes (R457, R458). -/
opaque shake256 : List Byte → List Byte
/-- UNINTERPRETED (DESIGN CHOICE: log 30): does a Falcon-1024 signature verify over a digest (R457)? -/
opaque falconVerifies : List Byte → List Byte → Bool
/-- UNINTERPRETED (DESIGN CHOICE: log 30): the device identity key's Falcon-1024 signature over a digest (R458). -/
opaque falconSign : List Byte → List Byte
/-- UNINTERPRETED (DESIGN CHOICE: log 30): the device identity public key (R458). -/
opaque identityKey : List Byte
/-- UNINTERPRETED (DESIGN CHOICE: log 30): the n-th ML-KEM-1024 encapsulation key (R458). -/
opaque kemKey : Nat → List Byte
/-- UNINTERPRETED (DESIGN CHOICE: log 30): the transport key from the n-th key pair and an encapsulation (R459). -/
opaque transportKey : Nat → List Byte → List Byte
/-- UNINTERPRETED (DESIGN CHOICE: log 30): AES key unwrap of a wrapped key under a transport key; none when it fails (R459). -/
opaque keyUnwrap : List Byte → List Byte → Option (BitVec 512)
/-- UNINTERPRETED (DESIGN CHOICE: log 30): the digest of the root of trust's own image (R458). -/
opaque rootDigest : List Byte

end Sys2Proof.Config
end

