-- ==== Sys2Proof/Syntax.lean ====
section
/-! DEFINITION. The instruction set: the fields of an instruction word (R54, R55, R67), the host message (R451), and one
constructor of `Instr` for each row of the spec's table of operations and events. A row that no word encodes is a step
of another part of the device; its arguments name the item it acts on. -/

namespace Sys2Proof

/-- A full word of the register layout, without kind, class and op (R54). -/
structure RWord where
  dst : BitVec 9
  w : Bool
  h : Bool
  a : BitVec 9
  b : BitVec 9
  c : BitVec 9
  k : BitVec 4
  m : BitVec 10
  deriving DecidableEq, Repr

/-- A full word of the immediate layout, without kind, class and op (R55). -/
structure IWord where
  dst : BitVec 9
  w : Bool
  h : Bool
  a : BitVec 9
  imm : BitVec 32
  deriving DecidableEq, Repr

/-- One slot of a pair word (R67). -/
structure Slot where
  cls : BitVec 3
  op : BitVec 6
  dst : BitVec 8
  src : BitVec 8
  k : BitVec 3
  flags : BitVec 3
  deriving DecidableEq, Repr

/-- A pair word, without kind (R67). -/
structure PWord where
  sa : Slot
  serial : Bool
  sb : Slot
  deriving DecidableEq, Repr

/-- A host message: its 64-byte header, byte i of `args` in bits [8i+7:8i], its payload, and the host agent that sent
it (R451, R452). -/
structure HostMsg where
  agent : Nat
  op : Byte
  die : Byte
  index : BitVec 16
  tag : BitVec 32
  recVa : Mask
  mflags : Byte
  args : BitVec 312
  payload : List Byte
  deriving DecidableEq, Repr

/-- One constructor for each row of the table of operations and events. -/
inductive Instr where
  /-- SADD (R116). -/
  | sadd (f : RWord)
  /-- SSUB (R116). -/
  | ssub (f : RWord)
  /-- SMUL (R116). -/
  | smul (f : RWord)
  /-- SMULH (R116). -/
  | smulh (f : RWord)
  /-- SDIV (R117). -/
  | sdiv (f : RWord)
  /-- SREM (R117). -/
  | srem (f : RWord)
  /-- SAND (R116). -/
  | sand (f : RWord)
  /-- SOR (R116). -/
  | sor (f : RWord)
  /-- SXOR (R116). -/
  | sxor (f : RWord)
  /-- SSHL (R118). -/
  | sshl (f : RWord)
  /-- SSHR (R118). -/
  | sshr (f : RWord)
  /-- SSAR (R118). -/
  | ssar (f : RWord)
  /-- SMIN (R116). -/
  | smin (f : RWord)
  /-- SMAX (R116). -/
  | smax (f : RWord)
  /-- SCMP (R116). -/
  | scmp (f : RWord)
  /-- SSEL (R116). -/
  | ssel (f : RWord)
  /-- SMOV (R116). -/
  | smov (f : RWord)
  /-- SPOPC (R116). -/
  | spopc (f : RWord)
  /-- SCLZ (R116). -/
  | sclz (f : RWord)
  /-- SBFE (R119). -/
  | sbfe (f : RWord)
  /-- SBFI (R119). -/
  | sbfi (f : RWord)
  /-- SFADD (R121). -/
  | sfadd (f : RWord)
  /-- SFMUL (R121). -/
  | sfmul (f : RWord)
  /-- SFFMA (R121). -/
  | sffma (f : RWord)
  /-- SFCMP (R122). -/
  | sfcmp (f : RWord)
  /-- SCVT (R123). -/
  | scvt (f : RWord)
  /-- AADD (R124). -/
  | aadd (f : RWord)
  /-- AMOV (R124). -/
  | amov (f : RWord)
  /-- AJOIN (R124). -/
  | ajoin (f : RWord)
  /-- ASPLIT (R124). -/
  | asplit (f : RWord)
  /-- ACMP (R124). -/
  | acmp (f : RWord)
  /-- KAND (R127). -/
  | kand (f : RWord)
  /-- KOR (R127). -/
  | kor (f : RWord)
  /-- KXOR (R127). -/
  | kxor (f : RWord)
  /-- KANDN (R127). -/
  | kandn (f : RWord)
  /-- KNOT (R127). -/
  | knot (f : RWord)
  /-- KMOV (R127). -/
  | kmov (f : RWord)
  /-- KPOPC (R127). -/
  | kpopc (f : RWord)
  /-- KFIRST (R127). -/
  | kfirst (f : RWord)
  /-- KSET (R127). -/
  | kset (f : RWord)
  /-- KGET (R127). -/
  | kget (f : RWord)
  /-- SADD_IMM (R116). -/
  | saddImm (f : IWord)
  /-- SSUB_IMM (R116). -/
  | ssubImm (f : IWord)
  /-- SMUL_IMM (R116). -/
  | smulImm (f : IWord)
  /-- SAND_IMM (R116). -/
  | sandImm (f : IWord)
  /-- SOR_IMM (R116). -/
  | sorImm (f : IWord)
  /-- SXOR_IMM (R116). -/
  | sxorImm (f : IWord)
  /-- SSHL_IMM (R118). -/
  | sshlImm (f : IWord)
  /-- SSHR_IMM (R118). -/
  | sshrImm (f : IWord)
  /-- SSAR_IMM (R118). -/
  | ssarImm (f : IWord)
  /-- SMIN_IMM (R116). -/
  | sminImm (f : IWord)
  /-- SMAX_IMM (R116). -/
  | smaxImm (f : IWord)
  /-- SCMP_IMM (R116). -/
  | scmpImm (f : IWord)
  /-- SLI (R116). -/
  | sli (f : IWord)
  /-- SLIH (R116). -/
  | slih (f : IWord)
  /-- AADDI (R124). -/
  | aaddi (f : IWord)
  /-- VADD (R137). -/
  | vadd (f : RWord)
  /-- VSUB (R137). -/
  | vsub (f : RWord)
  /-- VMUL (R137). -/
  | vmul (f : RWord)
  /-- VMULH (R137). -/
  | vmulh (f : RWord)
  /-- VMAD (R137). -/
  | vmad (f : RWord)
  /-- VAND (R137). -/
  | vand (f : RWord)
  /-- VOR (R137). -/
  | vor (f : RWord)
  /-- VXOR (R137). -/
  | vxor (f : RWord)
  /-- VNOT (R137). -/
  | vnot (f : RWord)
  /-- VSHL (R137). -/
  | vshl (f : RWord)
  /-- VSHR (R137). -/
  | vshr (f : RWord)
  /-- VSAR (R137). -/
  | vsar (f : RWord)
  /-- VMIN (R137). -/
  | vmin (f : RWord)
  /-- VMAX (R137). -/
  | vmax (f : RWord)
  /-- VABS (R137). -/
  | vabs (f : RWord)
  /-- VNEG (R137). -/
  | vneg (f : RWord)
  /-- VCMP (R138). -/
  | vcmp (f : RWord)
  /-- VSEL (R137). -/
  | vsel (f : RWord)
  /-- VMOV (R137). -/
  | vmov (f : RWord)
  /-- VBFE (R137). -/
  | vbfe (f : RWord)
  /-- VBFI (R137). -/
  | vbfi (f : RWord)
  /-- VPOPC (R137). -/
  | vpopc (f : RWord)
  /-- VCLZ (R137). -/
  | vclz (f : RWord)
  /-- VLANE (R137). -/
  | vlane (f : RWord)
  /-- VADD_IMM (R137). -/
  | vaddImm (f : IWord)
  /-- VSUB_IMM (R137). -/
  | vsubImm (f : IWord)
  /-- VMUL_IMM (R137). -/
  | vmulImm (f : IWord)
  /-- VAND_IMM (R137). -/
  | vandImm (f : IWord)
  /-- VOR_IMM (R137). -/
  | vorImm (f : IWord)
  /-- VXOR_IMM (R137). -/
  | vxorImm (f : IWord)
  /-- VSHL_IMM (R137). -/
  | vshlImm (f : IWord)
  /-- VSHR_IMM (R137). -/
  | vshrImm (f : IWord)
  /-- VSAR_IMM (R137). -/
  | vsarImm (f : IWord)
  /-- VMIN_IMM (R137). -/
  | vminImm (f : IWord)
  /-- VMAX_IMM (R137). -/
  | vmaxImm (f : IWord)
  /-- VCMP_IMM (R138). -/
  | vcmpImm (f : IWord)
  /-- VMOV_IMM (R137). -/
  | vmovImm (f : IWord)
  /-- FADD (R140). -/
  | fadd (f : RWord)
  /-- FSUB (R140). -/
  | fsub (f : RWord)
  /-- FMUL (R140). -/
  | fmul (f : RWord)
  /-- FFMA (R140). -/
  | ffma (f : RWord)
  /-- FMIN (R142). -/
  | fmin (f : RWord)
  /-- FMAX (R142). -/
  | fmax (f : RWord)
  /-- FABS (R142). -/
  | fabs (f : RWord)
  /-- FNEG (R142). -/
  | fneg (f : RWord)
  /-- FCMP (R143). -/
  | fcmp (f : RWord)
  /-- FRCP (R140). -/
  | frcp (f : RWord)
  /-- FRSQ (R140). -/
  | frsq (f : RWord)
  /-- FSQRT (R140). -/
  | fsqrt (f : RWord)
  /-- FDIV (R140). -/
  | fdiv (f : RWord)
  /-- FEXP2 (R140). -/
  | fexp2 (f : RWord)
  /-- FLOG2 (R140). -/
  | flog2 (f : RWord)
  /-- FSIN (R140). -/
  | fsin (f : RWord)
  /-- FCOS (R140). -/
  | fcos (f : RWord)
  /-- FRND (R140). -/
  | frnd (f : RWord)
  /-- HADD2 (R144). -/
  | hadd2 (f : RWord)
  /-- HMUL2 (R144). -/
  | hmul2 (f : RWord)
  /-- HFMA2 (R144). -/
  | hfma2 (f : RWord)
  /-- VDOT4 (R145). -/
  | vdot4 (f : RWord)
  /-- VDOT8 (R145). -/
  | vdot8 (f : RWord)
  /-- FADD_IMM (R140). -/
  | faddImm (f : IWord)
  /-- FSUB_IMM (R140). -/
  | fsubImm (f : IWord)
  /-- FMUL_IMM (R140). -/
  | fmulImm (f : IWord)
  /-- FMIN_IMM (R142). -/
  | fminImm (f : IWord)
  /-- FMAX_IMM (R142). -/
  | fmaxImm (f : IWord)
  /-- FCMP_IMM (R143). -/
  | fcmpImm (f : IWord)
  /-- CVT (R147). -/
  | cvt (f : RWord)
  /-- CVTS (R148). -/
  | cvts (f : RWord)
  /-- CVTP (R149). -/
  | cvtp (f : RWord)
  /-- VSHFL (R152). -/
  | vshfl (f : RWord)
  /-- VBCAST (R153). -/
  | vbcast (f : RWord)
  /-- VRED (R155). -/
  | vred (f : RWord)
  /-- VSCAN (R155). -/
  | vscan (f : RWord)
  /-- VVOTE (R156). -/
  | vvote (f : RWord)
  /-- PAIR_WORD (R70). -/
  | pairWord (f : PWord)
  /-- ILLEGAL_WORD (R81). -/
  | illegalWord (raw : Word)
  /-- BR (R175). -/
  | br (f : IWord)
  /-- BRK (R176). -/
  | brk (f : IWord)
  /-- BRX (R177). -/
  | brx (f : RWord)
  /-- CALL (R178). -/
  | call (f : IWord)
  /-- RET (R179). -/
  | ret (f : RWord)
  /-- YIELD (R182). -/
  | yield (f : RWord)
  /-- JOIN (R180). -/
  | join (f : RWord)
  /-- PRIO (R181). -/
  | prio (f : RWord)
  /-- EXIT (R184). -/
  | exit (f : RWord)
  /-- NOP (R185). -/
  | nop (f : RWord)
  /-- SPINW (R183). -/
  | spinw (f : RWord)
  /-- TRAP (R201). -/
  | trap (f : RWord)
  /-- TRET (R199). -/
  | tret (f : RWord)
  /-- SYSR (R202). -/
  | sysr (f : RWord)
  /-- SYSW (R191). -/
  | sysw (f : RWord)
  /-- SYSW_FPMODE (R86). -/
  | syswFpmode (f : RWord)
  /-- SYSW_AGELIM (R172). -/
  | syswAgelim (f : RWord)
  /-- SYSW_VTCMP (R206). -/
  | syswVtcmp (f : RWord)
  /-- SYSW_DEADLINE (R206). -/
  | syswDeadline (f : RWord)
  /-- SYSW_PUSHQ (R245). -/
  | syswPushq (f : RWord)
  /-- CYC (R203). -/
  | cyc (f : RWord)
  /-- CYC_VT (R203). -/
  | cycVt (f : RWord)
  /-- TARM (R206). -/
  | tarm (f : RWord)
  /-- TARM_DL (R206). -/
  | tarmDl (f : RWord)
  /-- PMON_RD (R209). -/
  | pmonRd (f : RWord)
  /-- PMON_SEL (R209). -/
  | pmonSel (f : RWord)
  /-- PMON_CLR (R209). -/
  | pmonClr (f : RWord)
  /-- BKPT (R201). -/
  | bkpt (f : RWord)
  /-- CWB (R210). -/
  | cwb (f : RWord)
  /-- CINV_L1 (R211). -/
  | cinvL1 (f : RWord)
  /-- CINV_L2 (R211). -/
  | cinvL2 (f : RWord)
  /-- TLBI_VA (R213). -/
  | tlbiVa (f : RWord)
  /-- TLBI_ASID (R213). -/
  | tlbiAsid (f : RWord)
  /-- TLBI_ALL (R213). -/
  | tlbiAll (f : RWord)
  /-- WAKE (R214). -/
  | wake (f : RWord)
  /-- PGATE (R214). -/
  | pgate (f : RWord)
  /-- MODE (R215). -/
  | mode (f : RWord)
  /-- MODE_RD (R215). -/
  | modeRd (f : RWord)
  /-- LD (R234). -/
  | ld (f : RWord)
  /-- LD_REP (R235). -/
  | ldRep (f : RWord)
  /-- LDU (R234). -/
  | ldu (f : RWord)
  /-- LDU_REP (R235). -/
  | lduRep (f : RWord)
  /-- LDA (R236). -/
  | lda (f : RWord)
  /-- LDL (R237). -/
  | ldl (f : RWord)
  /-- LDT (R238). -/
  | ldt (f : RWord)
  /-- LDV (R237). -/
  | ldv (f : RWord)
  /-- PREF (R239). -/
  | pref (f : RWord)
  /-- ST (R241). -/
  | st (f : RWord)
  /-- STU (R241). -/
  | stu (f : RWord)
  /-- STRL (R241). -/
  | strl (f : RWord)
  /-- STL (R241). -/
  | stl (f : RWord)
  /-- STV (R241). -/
  | stv (f : RWord)
  /-- POUR (R242). -/
  | pour (f : RWord)
  /-- ATOM (R247). -/
  | atom (f : RWord)
  /-- ATOMN (R247). -/
  | atomn (f : RWord)
  /-- CAS (R248). -/
  | cas (f : RWord)
  /-- FENCE (R251). -/
  | fence (f : RWord)
  /-- CPY (R326). -/
  | cpy (f : RWord)
  /-- CPYT (R330). -/
  | cpyt (f : RWord)
  /-- CPYT_PINIT (R329). -/
  | cpytPinit (f : RWord)
  /-- SLINIT (R337). -/
  | slinit (f : RWord)
  /-- SLARR (R338). -/
  | slarr (f : RWord)
  /-- SLWAIT (R339). -/
  | slwait (f : RWord)
  /-- SKIM (R341). -/
  | skim (f : RWord)
  /-- DROSS_RD (R343). -/
  | drossRd (f : RWord)
  /-- DROSS_CLR (R343). -/
  | drossClr (f : RWord)
  /-- BIN (R344). -/
  | bin (f : RWord)
  /-- BPATCH (R345). -/
  | bpatch (f : RWord)
  /-- ERLS (R346). -/
  | erls (f : RWord)
  /-- BAR (R363). -/
  | bar (f : RWord)
  /-- PHASE (R364). -/
  | phase (f : RWord)
  /-- CARRY_REGS (R368). -/
  | carryRegs (f : RWord)
  /-- CARRY_LS (R368). -/
  | carryLs (f : RWord)
  /-- VGIVE (R369). -/
  | vgive (f : RWord)
  /-- VCLAIM (R370). -/
  | vclaim (f : RWord)
  /-- ENQ (R371). -/
  | enq (f : RWord)
  /-- LAUNCH (R372). -/
  | launch (f : RWord)
  /-- GCOND (R379). -/
  | gcond (f : RWord)
  /-- CWAIT (R380). -/
  | cwait (f : RWord)
  /-- MIGR (R374). -/
  | migr (f : RWord)
  /-- BIND (R375). -/
  | bind (f : RWord)
  /-- MDESC (R397). -/
  | mdesc (f : RWord)
  /-- MDESC_GET (R397). -/
  | mdescGet (f : RWord)
  /-- MZERO (R398). -/
  | mzero (f : RWord)
  /-- MMA (R399). -/
  | mma (f : RWord)
  /-- MLOOP (R400). -/
  | mloop (f : RWord)
  /-- MPOLY (R410). -/
  | mpoly (f : RWord)
  /-- MITER (R411). -/
  | miter (f : RWord)
  /-- MLDC (R401). -/
  | mldc (f : RWord)
  /-- MSTC (R402). -/
  | mstc (f : RWord)
  /-- MMOV (R405). -/
  | mmov (f : RWord)
  /-- MNRM (R406). -/
  | mnrm (f : RWord)
  /-- MQLD_ONE (R407). -/
  | mqldOne (f : RWord)
  /-- MQLD_LS (R407). -/
  | mqldLs (f : RWord)
  /-- MQLD_VT (R407). -/
  | mqldVt (f : RWord)
  /-- MSTAT (R403). -/
  | mstat (f : RWord)
  /-- CREG (R439). -/
  | creg (f : RWord)
  /-- CUNREG (R440). -/
  | cunreg (f : RWord)
  /-- RECAST (R441). -/
  | recast (f : RWord)
  /-- RECAST_FIT (R441). -/
  | recastFit (f : RWord)
  /-- CGEN (R442). -/
  | cgen (f : RWord)
  /-- CEVAL (R443). -/
  | ceval (f : RWord)
  /-- CFLASH (R444). -/
  | cflash (f : RWord)
  /-- TRAP_DELIVERY (R198). -/
  | trapDelivery (wp : Nat)
  /-- LOAD_RETURN (R234). -/
  | loadReturn (core ix : Nat)
  /-- HOME_STORE (R288). -/
  | homeStore (core ix : Nat)
  /-- SLICE_READ (R288). -/
  | sliceRead (core ix part : Nat)
  /-- PUSH_FILL (R244). -/
  | pushFill (core ix : Nat)
  /-- PUSH_ACK (R246). -/
  | pushAck (core ix : Nat)
  /-- DISPATCH (R359). -/
  | dispatch (core : Nat)
  /-- MATRIX_OP_PERFORM (R383). -/
  | matrixOpPerform (core : Nat)
  /-- ENGINE_COMMAND_COMPLETE (R319). -/
  | engineCommandComplete (core cmd : Nat)
  /-- SPINW_EXPIRY (R183). -/
  | spinwExpiry (wp sp : Nat)
  /-- YIELD_EXPIRY (R182). -/
  | yieldExpiry (wp sp : Nat)
  /-- FORCED_TURN (R169). -/
  | forcedTurn (wp : Nat)
  /-- HANG (R171). -/
  | hang (wp : Nat)
  /-- MONITOR_SAMPLE (R208). -/
  | monitorSample (die mon value : Nat)
  /-- VTIME_TIMER_FIRE (R206). -/
  | vtimeTimerFire (wp : Nat)
  /-- DEADLINE_FIRE (R206). -/
  | deadlineFire (wp : Nat)
  /-- GROUP_SAVE (R217). -/
  | groupSave (core grp : Nat) (area : Addr)
  /-- GROUP_RESTORE (R220). -/
  | groupRestore (core bindIx : Nat)
  /-- SIDE_LOG_REPLAY (R259). -/
  | sideLogReplay (core ix : Nat)
  /-- PAGE_FAULT_SERVICE (R256). -/
  | pageFaultService (req outcome : Nat) (pte : Word)
  /-- REGENERATION_COMPLETE (R263). -/
  | regenerationComplete (req : Nat) (faulted : Bool) (pte : Word)
  /-- VICTIM_EVICT (R264). -/
  | victimEvict (asid : Nat) (va : Addr)
  /-- ATOMIC_WINDOW_END (R250). -/
  | atomicWindowEnd (core ix : Nat)
  /-- RDS (R297). -/
  | rds (msg : Nat)
  /-- RDX (R297). -/
  | rdx (msg : Nat)
  /-- UPG (R297). -/
  | upg (msg : Nat)
  /-- PUTE (R297). -/
  | pute (msg : Nat)
  /-- PUTM (R297). -/
  | putm (msg : Nat)
  /-- EVICT (R297). -/
  | evict (msg : Nat)
  /-- INVACK (R298). -/
  | invack (msg : Nat)
  /-- RCLDATA (R298). -/
  | rcldata (msg : Nat)
  /-- RCLACK (R298). -/
  | rclack (msg : Nat)
  /-- DATA (R300). -/
  | data (msg : Nat)
  /-- GNTX (R300). -/
  | gntx (msg : Nat)
  /-- INV (R299). -/
  | inv (msg : Nat)
  /-- RCL (R299). -/
  | rcl (msg : Nat)
  /-- PUTACK (R297). -/
  | putack (msg : Nat)
  /-- FILL (R302). -/
  | fill (msg : Nat)
  /-- PROXY_EVICT (R314). -/
  | proxyEvict (die line : Nat)
  /-- COPY_UNIT_LAND (R335). -/
  | copyUnitLand (core cmd : Nat)
  /-- PHASE_END (R364). -/
  | phaseEnd (core grp : Nat)
  /-- WEIR_BALANCE (R373). -/
  | weirBalance (die : Nat)
  /-- LAUNCH_COMPLETE (R353). -/
  | launchComplete (launch : Nat)
  /-- LAUNCH_FAULTED_END (R466). -/
  | launchFaultedEnd (launch : Nat)
  /-- GRAPH_LOAD (R376). -/
  | graphLoad (die queue : Nat)
  /-- NODE_RUN (R378). -/
  | nodeRun (die node : Nat)
  /-- NODE_COMPLETE (R378). -/
  | nodeComplete (die node : Nat)
  /-- QUEUE_ENTRY_ERROR (R381). -/
  | queueEntryError (die what ix slot : Nat) (shadowBad : Bool)
  /-- CAST_LOAD (R427). -/
  | castLoad (core ix part : Nat)
  /-- CAST_STORE (R429). -/
  | castStore (core ix : Nat)
  /-- REGION_BUILD_COMPLETE (R439). -/
  | regionBuildComplete (region : Nat)
  /-- REGION_CLOSE_COMPLETE (R440). -/
  | regionCloseComplete (region : Nat)
  /-- RECAST_SCAN_DONE (R432). -/
  | recastScanDone (region : Nat)
  /-- EVALUATOR_FREEZE_ACK (R434). -/
  | evaluatorFreezeAck (region slice : Nat)
  /-- MSG_ENQUEUE (R451). -/
  | msgEnqueue (m : HostMsg)
  /-- MSG_REPAIR (R451). -/
  | msgRepair (m : HostMsg)
  /-- MSG_MIGRATE (R451). -/
  | msgMigrate (m : HostMsg)
  /-- MSG_PREEMPT (R451). -/
  | msgPreempt (m : HostMsg)
  /-- MSG_BIND (R451). -/
  | msgBind (m : HostMsg)
  /-- MSG_MOULD (R451). -/
  | msgMould (m : HostMsg)
  /-- MSG_PAGE (R451). -/
  | msgPage (m : HostMsg)
  /-- MSG_MODE (R451). -/
  | msgMode (m : HostMsg)
  /-- MSG_KEY (R459). -/
  | msgKey (m : HostMsg)
  /-- MSG_KEY_UNBIND (R459). -/
  | msgKeyUnbind (m : HostMsg)
  /-- MSG_ATTEST (R458). -/
  | msgAttest (m : HostMsg)
  /-- MSG_RING (R455). -/
  | msgRing (m : HostMsg)
  /-- MSG_RESET (R451). -/
  | msgReset (m : HostMsg)
  /-- COLD_RESET (R457). -/
  | coldReset
  /-- DEVICE_LOST (R462). -/
  | deviceLost
  /-- GATE_PREP_COMPLETE (R461). -/
  | gatePrepComplete (core : Nat)
  /-- GATE_POWER_UP (R461). -/
  | gatePowerUp (core : Nat)
  /-- CXL_LINK_FAIL (R454). -/
  | cxlLinkFail (port : Nat)
  /-- LOGICAL_TIME_TICK (R285). -/
  | logicalTimeTick (die : Nat)
  /-- AVOSH_BIND_WRITE (R357). -/
  | avoshBindWrite (core bindIx : Nat) (record : Word)
  /-- AVOSH_WARM_RESET (R462). -/
  | avoshWarmReset
  /-- MSG_UNLISTED_OP (R451). -/
  | msgUnlistedOp (m : HostMsg)
  deriving DecidableEq, Repr

end Sys2Proof
end

