-- ==== Sys2Proof/Machine/Shapes.lean ====
section
/-! DEFINITION. What each encoded form allows in its fields: the operand places and the modifier bits of the class
chapters, and the static checks of an instruction word made from them (R57 to R60, R82 steps 3 and 4). -/

namespace Sys2Proof

/-! ### Subfields of mod (R54, R56) -/

def RWord.itype (f : RWord) : Nat := (f.m.extractLsb' 0 3).toNat
def RWord.rnd (f : RWord) : Nat := (f.m.extractLsb' 0 3).toNat
def RWord.cond (f : RWord) : Nat := (f.m.extractLsb' 3 4).toNat
def RWord.fcond (f : RWord) : Nat := (f.m.extractLsb' 5 4).toNat
def RWord.vtype (f : RWord) : Nat := (f.m.extractLsb' 3 2).toNat
/-- DESIGN CHOICE: log 102. -/
def RWord.scope (f : RWord) : Nat := (f.m.extractLsb' 7 3).toNat
/-- Bits [hi:lo] of mod, as a number. -/
def RWord.mod (f : RWord) (hi lo : Nat) : Nat := (f.m.extractLsb' lo (hi + 1 - lo)).toNat

end Sys2Proof

namespace Sys2Proof.Machine

/-- The trap causes of R194. -/
inductive Cause where
  | illegalOpcode | illegalOperand | illegalPair | latchLost | reservedBits
  | pageFaultLoad | permission | misalignedAtomic | vaultGrant | storeReplayFail
  | retEmpty | software | breakpoint | timer | shape | iterDiverge | iterCap
  | matrixStorage | engineFault | flashFull | privilege
  deriving DecidableEq, Repr

/-- The code TRAPCAUSE holds for a cause (R194). -/
def causeCode : Cause → Nat
  | .illegalOpcode => 0x01 | .illegalOperand => 0x02 | .illegalPair => 0x03 | .latchLost => 0x04
  | .reservedBits => 0x05 | .pageFaultLoad => 0x08 | .permission => 0x09 | .misalignedAtomic => 0x0A
  | .vaultGrant => 0x0B | .storeReplayFail => 0x0C | .retEmpty => 0x10 | .software => 0x12
  | .breakpoint => 0x13 | .timer => 0x14 | .shape => 0x18 | .iterDiverge => 0x19 | .iterCap => 0x1A
  | .matrixStorage => 0x1B | .engineFault => 0x20 | .flashFull => 0x24 | .privilege => 0x28

/-- Is the trap imprecise (R194)? -/
def causeImprecise : Cause → Bool
  | .storeReplayFail => true | .matrixStorage => true
  | _ => false

/-- What an operand field of a full word may hold. -/
inductive Place where
  /-- the form does not use the field: it holds 0 (R57) -/
  | unused
  /-- every value is listed: packed subfields -/
  | bits
  /-- an s register (R111, R317) -/
  | sreg
  /-- an a register (R58) -/
  | areg
  /-- a v register, even when the operand is 64 bits wide (R60) -/
  | vreg (wide : Bool)
  /-- a uniform source: s register, latch, inline constant (R111) -/
  | uni
  /-- a vector-form source: v, s, latch, inline constant (R133) -/
  | vsrc (wide : Bool)
  /-- a v or an s register: VRED's destination, BRX's target (R133, R173) -/
  | vors (wide : Bool)
  /-- an s register or an inline constant of at least 0: CPY's length (R325) -/
  | len
  /-- the number of a register of a file of n registers (R59) -/
  | num (n : Nat)
  /-- a v register, or an inline constant, as an index (R230) -/
  | index (pair : Bool)
  /-- an inline constant as an index (R230) -/
  | inlineIndex
  deriving DecidableEq, Repr

def isV (c : BitVec 9) : Bool := c.toNat < 0x100
def isS (c : BitVec 9) : Bool := decide (0x100 ≤ c.toNat) && decide (c.toNat < 0x140)
def isY (c : BitVec 9) : Bool := decide (0x140 ≤ c.toNat) && decide (c.toNat < 0x144)
def isA (c : BitVec 9) : Bool := decide (0x144 ≤ c.toNat) && decide (c.toNat < 0x154)
def isInline (c : BitVec 9) : Bool := decide (0x180 ≤ c.toNat)
/-- A v register that may hold an operand: even when the operand is 64 bits wide (R60). -/
def isVw (wide : Bool) (c : BitVec 9) : Bool := isV c && (!wide || c.toNat % 2 == 0)

/-- Does an operand code stand in its place (R58, R59, R60)? A field that must hold 0 is checked apart (R57). An address place takes the
codes of R111's table, a0 to a15, and no inline constant, although R111's text tells how one would be extended. DEDUCED: log 155. -/
def Place.admits : Place → BitVec 9 → Bool
  | .unused, _ => true
  | .bits, _ => true
  | .sreg, c => isS c
  | .areg, c => isA c
  | .vreg wide, c => isVw wide c
  | .uni, c => isS c || isY c || isInline c
  | .vsrc wide, c => isVw wide c || isS c || isY c || isInline c
  | .vors wide, c => isVw wide c || isS c
  | .len, c => isS c || decide (0x1C0 ≤ c.toNat)
  | .num n, c => decide (c.toNat < n)
  | .index pair, c => isVw pair c || isInline c
  | .inlineIndex, c => isInline c

/-- Does a field that the form does not use hold 0 (R57)? -/
def Place.zeroOk : Place → BitVec 9 → Bool
  | .unused, c => c == 0
  | _, _ => true

/-- What a form allows: its four operand places, whether it takes a lane mask, the modifier bits it defines, whether
its defined subfields and its operands hold listed values, whether it reads its own destination (R60), whether it may
stand before the end of a chain (R64), whether it is privileged (R189), and
whether it is of class 4 (R186). -/
structure Shape where
  dst : Place := .unused
  a : Place := .unused
  b : Place := .unused
  c : Place := .unused
  mask : Bool := false
  modBits : BitVec 10 := 0
  zero : Bool := true
  legal : Bool := true
  readsD : Bool := false
  inner : Bool := false
  priv : Bool := false
  ctl : Bool := false
  deriving DecidableEq, Repr

/-- R82 steps 3 and 4 of a word of the register layout, as far as the word alone decides them. -/
def Shape.check (sh : Shape) (f : RWord) : Option Cause :=
  if !(sh.dst.zeroOk f.dst && sh.a.zeroOk f.a && sh.b.zeroOk f.b && sh.c.zeroOk f.c
      && (!f.w || f.dst == 0) && (sh.mask || f.k == 0) && ((f.m &&& ~~~ sh.modBits) == 0) && sh.zero) then
    some .reservedBits
  else if !((f.w || sh.dst.admits f.dst) && sh.a.admits f.a && sh.b.admits f.b && sh.c.admits f.c
      && sh.legal && !(f.w && sh.readsD)) then
    some .illegalOperand
  else none

/-- R82 steps 3 and 4 of a word of the immediate layout. -/
def Shape.checkI (sh : Shape) (f : IWord) : Option Cause :=
  sh.check { dst := f.dst, w := f.w, h := f.h, a := f.a, b := 0, c := 0, k := 0, m := 0 }

/-! ### Shared codes -/

/-- A type code of R56 names a 64-bit type. -/
def wideI (t : Nat) : Bool := decide (6 ≤ t)
/-- A conversion type code (R114, R146) names a 64-bit type: `.i64`, `.n64`, `.f64`. -/
def wideC (t : Nat) : Bool := t == 2 || t == 3 || t == 4
/-- A reduction type code (R151) names a 64-bit type: `.i64`, `.n64`, `.f64`. -/
def wideR (t : Nat) : Bool := t == 2 || t == 3 || t == 5
/-- The rounding code is listed (R56). -/
def rndOk (r : Nat) : Bool := decide (r ≤ 4)
/-- The scope code is listed (R56). -/
def scopeOk (r : Nat) : Bool := decide (r ≤ 5)

/-! ### Class 0 (R111 to R114) -/

def shS3 : Shape := { dst := .sreg, a := .uni, b := .uni, modBits := 0b111, inner := true }
def shS2 : Shape := { shS3 with b := .unused }
def shSbf : Shape := { shS3 with c := .uni }
def shSbfi : Shape := { shSbf with readsD := true }
def shScmp (f : RWord) : Shape :=
  { dst := .sreg, a := .uni, b := .uni, modBits := 0b1111111, inner := true, legal := decide (f.cond ≤ 5) }
def shSsel : Shape := { dst := .sreg, a := .uni, b := .uni, c := .uni, inner := true }
def shSf2 (f : RWord) : Shape := { dst := .sreg, a := .uni, b := .uni, modBits := 0b11111, inner := true, legal := rndOk f.rnd }
def shSf3 (f : RWord) : Shape := { shSf2 f with c := .uni }
def shSfcmp (f : RWord) : Shape :=
  { dst := .sreg, a := .uni, b := .uni, modBits := 0b111111000, inner := true, legal := decide (f.fcond ≤ 7) }
def shScvt (f : RWord) : Shape := { dst := .sreg, a := .uni, modBits := 0b111111111, inner := true, legal := rndOk f.rnd }
def shAadd : Shape := { dst := .areg, a := .areg, b := .uni, inner := true }
def shAmov : Shape := { dst := .areg, a := .areg, inner := true }
def shAjoin : Shape := { dst := .areg, a := .uni, b := .uni, inner := true }
def shAsplit : Shape := { dst := .sreg, a := .areg, modBits := 1, inner := true }
def shAcmp (f : RWord) : Shape :=
  { dst := .sreg, a := .areg, b := .areg, modBits := 0b1111000, inner := true, legal := decide (f.cond ≤ 5) }
def shK3 : Shape := { dst := .num 16, a := .num 16, b := .num 16, inner := true }
def shK2 : Shape := { dst := .num 16, a := .num 16, inner := true }
def shKcount : Shape := { dst := .sreg, a := .num 16, inner := true }
def shKset : Shape := { dst := .num 16, a := .uni, b := .uni, inner := true }
def shKget : Shape := { dst := .sreg, a := .num 16, modBits := 1, inner := true }
def shSimm : Shape := { dst := .sreg, a := .uni, inner := true }
def shSli : Shape := { dst := .sreg, inner := true }
def shSlih : Shape := { dst := .sreg, inner := true, readsD := true }
def shAaddi : Shape := { dst := .areg, a := .areg, inner := true }

/-! ### Class 1 (R133, R136) -/

def shV3 (f : RWord) : Shape :=
  { dst := .vreg (wideI f.itype), a := .vsrc (wideI f.itype), b := .vsrc (wideI f.itype), mask := true, modBits := 0b111, inner := true }
def shV3sat (f : RWord) : Shape := { shV3 f with modBits := 0b10000111 }
def shV4 (f : RWord) : Shape := { shV3 f with c := .vsrc (wideI f.itype) }
def shVbfi (f : RWord) : Shape := { shV4 f with readsD := true }
def shV2 (f : RWord) : Shape := { shV3 f with b := .unused }
def shV2sat (f : RWord) : Shape := { shV3sat f with b := .unused }
def shVcmp (f : RWord) : Shape :=
  { shV3 f with dst := .num 16, modBits := 0b1111111, legal := decide (f.cond ≤ 5) }
def shVsel : Shape := { dst := .vreg false, a := .vsrc false, b := .vsrc false, c := .num 16, mask := true, inner := true }
def shVlane : Shape := { dst := .vreg false, a := .vsrc false, mask := true, inner := true }
def shVimm : Shape := { dst := .vreg false, a := .vsrc false, inner := true }
def shVcmpImm : Shape := { dst := .num 16, a := .vsrc false, inner := true }
def shVmovImm : Shape := { dst := .vreg false, inner := true }

/-! ### Class 2 (R133, R139) -/

def wideF (t : Nat) : Bool := t == 1
def shF3 (f : RWord) : Shape :=
  { dst := .vreg (wideF f.vtype), a := .vsrc (wideF f.vtype), b := .vsrc (wideF f.vtype), mask := true, modBits := 0b11111,
    inner := true, legal := rndOk f.rnd }
def shF4 (f : RWord) : Shape := { shF3 f with c := .vsrc (wideF f.vtype) }
def shF2 (f : RWord) : Shape := { shF3 f with b := .unused }
def shFmin (f : RWord) : Shape := { shF3 f with modBits := 0b11000, legal := true }
def shFabs (f : RWord) : Shape := { shF2 f with modBits := 0b11000, legal := true }
def shFcmp (f : RWord) : Shape := { shF3 f with dst := .num 16, modBits := 0b111111000, legal := decide (f.fcond ≤ 7) }
def shH3 (f : RWord) : Shape :=
  { dst := .vreg false, a := .vsrc false, b := .vsrc false, mask := true, modBits := 0b1111, inner := true, legal := rndOk f.rnd }
def shH4 (f : RWord) : Shape := { shH3 f with c := .vsrc false }
def shVdot4 (f : RWord) : Shape :=
  { shH4 f with
    modBits := 0b1111111
    legal := rndOk f.rnd && decide (f.mod 4 3 ≤ 2) && decide (f.mod 6 5 ≤ 2)
      && !(f.mod 4 3 == 0 && f.mod 6 5 == 0 && f.rnd != 0) }
def shVdot8 (f : RWord) : Shape := { shH4 f with modBits := 0b111 }

/-! ### Class 3 (R146, R151) -/

def shCvt (f : RWord) : Shape :=
  { dst := .vreg (wideC (f.mod 5 3)), a := .vsrc (wideC (f.mod 8 6)), mask := true, modBits := 0b111111111, inner := true,
    legal := rndOk f.rnd }
def shCvts (f : RWord) : Shape :=
  { dst := .vreg (f.mod 7 7 == 1), a := .vsrc (f.mod 7 7 == 0 && f.mod 6 6 == 1), b := .vsrc false, mask := true,
    modBits := 0b11111111, inner := true,
    legal := decide (f.mod 5 3 ≤ 5) && rndOk f.rnd && !(f.mod 7 7 == 1 && !(f.mod 6 6 == 1 && f.rnd == 0)) }
/-- How many registers a CVTP block has: 4 for the 8-bit and 6-bit formats, 8 for E2M1F (R149). -/
def cvtpBlock (nfmt : Nat) : Nat := if nfmt == 4 then 8 else if nfmt == 6 then 1 else 4
/-- Do registers x to x+m-1 include y? -/
def inBlock (x m y : Nat) : Bool := decide (x ≤ y) && decide (y < x + m)
def shCvtp (f : RWord) : Shape :=
  let m := cvtpBlock (f.mod 5 3)
  { dst := .vreg false, a := .vreg false, b := if f.mod 6 6 == 1 then .vsrc false else .unused, mask := true,
    modBits := 0b11111111, inner := true,
    legal :=
      if f.mod 5 3 == 7 then false
      else if f.mod 5 3 == 6 then
        f.mod 6 6 == 0 && (if f.mod 7 7 == 0 then f.rnd == 0 else f.rnd != 1)
      else if f.mod 7 7 == 0 then
        rndOk f.rnd && decide (f.a.toNat + m ≤ 256) && (f.w || !(inBlock f.a.toNat m f.dst.toNat))
      else
        f.mod 6 6 == 0 && f.rnd == 0 && (f.w || (decide (f.dst.toNat + m ≤ 256) && !(inBlock f.dst.toNat m f.a.toNat))) }
def shVshfl (f : RWord) : Shape :=
  { dst := .vreg false, a := .vreg false, b := .vsrc false, mask := true, modBits := 0b11111, inner := true,
    legal := decide (f.mod 4 2 ≤ 6) }
def shVbcast : Shape := { dst := .vreg false, a := .vreg false, b := .uni, mask := true, inner := true }
/-- The reduction operation, type and rounding are listed together (R151, R155). -/
def redLegal (f : RWord) : Bool :=
  let t := f.mod 5 3
  let op := f.mod 8 6
  decide (op ≤ 5) && (if t < 4 then f.rnd == 0 else decide (op ≤ 2) && decide (f.rnd ≤ 3))
def shVred (f : RWord) : Shape :=
  { dst := .vors (wideR (f.mod 5 3)), a := .vsrc (wideR (f.mod 5 3)), mask := true, modBits := 0b111111111, inner := true,
    legal := redLegal f }
def shVscan (f : RWord) : Shape := { shVred f with dst := .vreg (wideR (f.mod 5 3)) }
def shVvote (f : RWord) : Shape :=
  { dst := if f.mod 1 0 == 3 then .num 16 else .sreg, a := .vsrc false, mask := true, modBits := 0b11, inner := true }

/-! ### Class 4 (R173) -/

def shBr : Shape := { ctl := true, dst := .uni, a := .bits }
def shBrk (f : IWord) : Shape := { ctl := true, dst := .num 16, a := .bits, zero := decide (f.dst.toNat < 16) }
def shCall (f : IWord) : Shape := { ctl := true, dst := .vreg true, a := .bits, zero := !(f.a.getLsbD 8) }
def shBrx : Shape := { ctl := true, a := .vors true, mask := true }
def shRet : Shape := { ctl := true, a := .vreg true, mask := true }
def shJoin : Shape := { ctl := true, a := .num 16 }
def shUni1 : Shape := { a := .uni }
def shNone : Shape := {}
def shExit (f : RWord) : Shape := { ctl := true, mask := true, modBits := 0b111, legal := scopeOk (f.mod 2 0) }

/-! ### Class 5 (R191, R200) -/

/-- The system registers of R190 that exist. -/
def sysListed (n : Nat) : Bool := decide (n ≤ 0x1B) && n != 0x07
/-- The system registers whose user access is RO (R190): a SYSW to one traps in either state (R191). -/
def sysReadOnly (n : Nat) : Bool :=
  n == 0x01 || n == 0x02 || n == 0x03 || n == 0x04 || n == 0x05 || n == 0x06 || n == 0x08 || n == 0x0A || n == 0x0C
    || n == 0x0D || n == 0x10 || n == 0x11 || n == 0x12 || n == 0x16 || n == 0x19 || n == 0x1A
/-- The system registers writable in supervisor state only (R190). -/
def sysSupervisor (n : Nat) : Bool :=
  n == 0x09 || n == 0x0B || n == 0x0E || n == 0x0F || n == 0x18 || n == 0x1B
def shTret : Shape := { priv := true }
def shSysr (f : RWord) : Shape := { dst := .sreg, a := .bits, inner := true, legal := sysListed f.a.toNat }
def shSysw (f : RWord) : Shape :=
  { dst := .bits, a := .uni, legal := sysListed f.dst.toNat && !sysReadOnly f.dst.toNat, priv := sysSupervisor f.dst.toNat }
def shCyc : Shape := { dst := .sreg, modBits := 1, inner := true }
def shTarm : Shape := { a := .uni, modBits := 1 }
def shPmonRd (f : RWord) : Shape := { dst := .sreg, a := .uni, b := .uni, modBits := 0b11, legal := f.mod 1 0 == 0 }
def shPmonSel : Shape := { a := .uni, b := .uni, modBits := 0b11, priv := true }
def shPmonClr : Shape := { a := .uni, modBits := 0b11, priv := true }
def shCwb : Shape := { a := .areg, b := .sreg }
def shCinvL1 : Shape := { a := .areg, b := .sreg, modBits := 1 }
def shCinvL2 : Shape := { a := .areg, b := .sreg, modBits := 1, priv := true }
def tlbiScopeOk (f : RWord) : Bool := decide (2 ≤ f.mod 2 0) && decide (f.mod 2 0 ≤ 4)
def shTlbiVa (f : RWord) : Shape :=
  { a := .areg, b := .sreg, modBits := 0b11111, priv := true, legal := tlbiScopeOk f && f.mod 4 3 == 0 }
def shTlbiAsid (f : RWord) : Shape := { b := .sreg, modBits := 0b11111, priv := true, legal := tlbiScopeOk f }
def shTlbiAll (f : RWord) : Shape := { modBits := 0b11111, priv := true, legal := tlbiScopeOk f }
def shWake : Shape := { a := .uni, priv := true }
def shPgate : Shape := { dst := .sreg, a := .uni, priv := true }
def shMode (f : RWord) : Shape := { dst := .sreg, a := .uni, modBits := 0b1111, priv := true, legal := decide (f.mod 2 0 ≤ 6) }
def shModeRd (f : RWord) : Shape := { dst := .sreg, modBits := 0b1111, priv := true, legal := decide (f.mod 2 0 ≤ 6) }

/-! ### Classes 6 and 7 (R228 to R230) -/

def memPair (f : RWord) : Bool := f.c.getLsbD 8
/-- Layout A with the scope subfield required to be 0; the scale code is listed up to 4. -/
def shMem (f : RWord) (dst : Place) : Shape :=
  { dst := dst, a := .areg, b := .index (memPair f), c := .bits, mask := true, modBits := 0b0001111111,
    legal := decide (f.mod 3 1 ≤ 4) }
def memWide (f : RWord) : Bool := wideI (f.mod 6 4)
def shLd (f : RWord) : Shape := { shMem f (.vreg (memWide f)) with inner := true }
def shLdu (f : RWord) : Shape := { shMem f .sreg with b := .inlineIndex, inner := true }
/-- LDA and STRL: an inline index allows the uniform form, on an s register (R230). -/
def shLdaPlace (f : RWord) : Place := if isInline f.b then .vors (memWide f) else .vreg (memWide f)
def shLda (f : RWord) : Shape :=
  { shMem f (shLdaPlace f) with
    modBits := 0b1111111111, inner := true, legal := decide (f.mod 3 1 ≤ 4) && scopeOk f.scope }
def shLdl (f : RWord) : Shape := { shLd f with a := .unused }
/-- LDT's element size: 1, 2, 4 bytes for `.n8`, `.n16`, `.n32`, none for other types (R238). -/
def ldtSize (t : Nat) : Option Nat := if t == 5 then some 1 else if t == 3 then some 2 else if t == 1 then some 4 else none
def shLdt (f : RWord) : Shape :=
  { shMem f (.vreg false) with
    inner := true
    legal := decide (f.mod 3 1 ≤ 4) && (match ldtSize (f.mod 6 4) with
      | some n => f.w || decide (f.dst.toNat + n ≤ 256)
      | none => false) }
def shPref (f : RWord) : Shape := { shMem f .unused with inner := true, legal := decide (f.mod 3 1 ≤ 4) && decide (f.mod 6 4 ≤ 1) }
def shSt (f : RWord) : Shape := shMem f (.vreg (memWide f))
def shStu (f : RWord) : Shape := { shMem f .sreg with b := .inlineIndex }
def shStrl (f : RWord) : Shape :=
  { shMem f (shLdaPlace f) with modBits := 0b1111111111, legal := decide (f.mod 3 1 ≤ 4) && scopeOk f.scope }
def shStl (f : RWord) : Shape := { shSt f with a := .unused }
def shPour (f : RWord) : Shape :=
  { dst := .vreg (memWide f), a := .areg, b := .index false, c := .bits, mask := true, modBits := 0b1111111110,
    zero := !(f.c.getLsbD 8),
    legal := scopeOk f.scope && decide (f.mod 2 1 ≤ 2) && (f.mod 2 1 == 0 || decide ((f.c.extractLsb' 0 8).toNat < 64)) }
def atomWide (f : RWord) : Bool := decide (2 ≤ f.mod 6 5)
def aop (f : RWord) : Nat := f.mod 4 2
def shAtom (f : RWord) : Shape :=
  { dst := .vreg (atomWide f), a := .areg, b := .index false, c := .vsrc (atomWide f), mask := true, modBits := 0b1111111111,
    legal := scopeOk f.scope && !(aop f == 7 && f.mod 6 5 != 0) }
def shAtomn (f : RWord) : Shape :=
  { shAtom f with
    dst := .unused, legal := scopeOk f.scope && !(aop f == 7 && f.mod 6 5 != 0) && (f.mod 1 0 == 0 || f.mod 1 0 == 2) }
def shCas (f : RWord) : Shape := { shAtom f with readsD := true, modBits := 0b1111100011, legal := scopeOk f.scope }
def shFence (f : RWord) : Shape := { modBits := 0b1110000000, legal := scopeOk f.scope }

/-! ### Class 8 (R317) -/

def spacePlace (n : Nat) : Place := if n == 0 then .areg else .sreg
def shCpy (f : RWord) : Shape :=
  { dst := .sreg, a := spacePlace (f.mod 6 5), b := spacePlace (f.mod 4 3), c := .len, modBits := 0b1111111100,
    legal := scopeOk f.scope && decide (f.mod 6 5 ≤ 2) && decide (f.mod 4 3 ≤ 2) }
def shCpyt (f : RWord) : Shape :=
  { dst := .sreg, a := .num 16, b := .num 16, c := .sreg, modBits := 0b1111111000, legal := scopeOk f.scope }
def shCpytPinit (f : RWord) : Shape :=
  { dst := .sreg, a := .sreg, b := .sreg, modBits := 0b1110011000, legal := scopeOk f.scope }
def shSlinit : Shape := { a := .uni, b := .sreg, c := .sreg }
def shUni2 : Shape := { a := .uni, b := .uni }
def shSkim (f : RWord) : Shape :=
  { dst := .sreg, a := .sreg, b := .sreg, c := .sreg, modBits := 0b1110000000, legal := scopeOk f.scope }
def shDrossRd (f : RWord) : Shape := { dst := .sreg, a := .uni, b := .sreg, modBits := 0b1110000001, legal := scopeOk f.scope }
def shDrossClr (f : RWord) : Shape := { dst := .sreg, a := .uni, modBits := 0b1110000001, legal := scopeOk f.scope }
def shBpatch : Shape := { a := .sreg, b := .sreg, c := .uni }

/-! ### Class 9 (R362) -/

def shCarryRegs : Shape := { a := .sreg, b := .sreg, c := .sreg, modBits := 1 }
def shCarryLs : Shape := { a := .sreg, modBits := 1 }
def shEnq (f : RWord) : Shape := { dst := .sreg, a := .uni, b := .areg, modBits := 0b1110000000, legal := scopeOk f.scope }
def shLaunch (f : RWord) : Shape := { shEnq f with modBits := 0b1110000100 }
def shCwait (f : RWord) : Shape := { a := .areg, b := .uni, modBits := 0b1110000000, legal := scopeOk f.scope }
def shMigr : Shape := { dst := .sreg, a := .uni, priv := true }
def shBind : Shape := { dst := .sreg, a := .uni, b := .uni, priv := true }

/-! ### Class 10 (R391) -/

def shMdesc : Shape := { dst := .num 16, a := .sreg, b := .sreg, modBits := 1 }
def shMdescGet : Shape := { dst := .sreg, a := .num 16, modBits := 0b11 }
def shMzero : Shape := { dst := .num 4 }
def shMma : Shape := { dst := .num 4, a := .num 16, b := .num 16, modBits := 1 }
def shMloop : Shape := { shMma with c := .uni }
def shMpoly : Shape := { dst := .num 4, a := .num 4, b := .uni, modBits := 0b11111 }
def shMiter : Shape := { dst := .num 4, a := .uni, b := .num 2, modBits := 0b1111111111 }
def shMldc : Shape := { dst := .num 4, a := .num 16 }
def shMstc (f : RWord) : Shape := { dst := .num 16, a := .num 4, modBits := 0b111, legal := decide (f.rnd ≤ 3) }
def shMmov (f : RWord) : Shape :=
  { dst := .num 4, a := .num 4, b := if f.mod 1 1 == 1 then .num 16 else .unused, modBits := 0b11 }
def shMnrm (f : RWord) : Shape := { dst := .sreg, a := .num 4, b := .uni, modBits := 0b11, legal := decide (f.mod 1 0 ≤ 2) }
def shMqldOne (f : RWord) : Shape := { dst := .num 16, a := .uni, modBits := 0b11, legal := f.mod 1 0 == 0 }
def shMqldMem : Shape := { a := .uni, modBits := 0b11 }
def shMstat (f : RWord) : Shape :=
  { dst := .sreg, a := .num (if f.mod 2 0 == 5 then 16 else 4), modBits := 0b111, legal := decide (f.mod 2 0 ≤ 5) }

/-! ### Class 11 (R437) -/

def shCreg (f : RWord) : Shape := { dst := .sreg, a := .uni, b := .areg, modBits := 0b1110000000, legal := scopeOk f.scope }
def shCunreg (f : RWord) : Shape := { dst := .sreg, a := .uni, modBits := 0b1110000000, legal := scopeOk f.scope }
def shRecast (f : RWord) : Shape := { dst := .sreg, a := .uni, b := .areg, modBits := 0b1110000001, legal := scopeOk f.scope }
def shRecastFit (f : RWord) : Shape :=
  { dst := .sreg, a := .uni, b := .bits, modBits := 0b1110000001, legal := scopeOk f.scope && f.b == 0 }
def shCgen (f : RWord) : Shape := { dst := .sreg, a := .uni, modBits := 0b1110000001, legal := scopeOk f.scope }
def shCeval : Shape := { dst := .vreg false, a := .uni, b := .vreg true, mask := true }
def shCflash : Shape := { dst := .sreg, a := .uni }

/-! ### Pair words (R67 to R71) -/

/-- The pair-eligible ops of each pair class (R68, R73 to R75). -/
def slotEligible (s : Slot) : Bool :=
  let op := s.op.toNat
  match s.cls.toNat with
  | 0 => decide (op ≤ 2) || (decide (6 ≤ op) && decide (op ≤ 0x0D)) || (decide (0x10 ≤ op) && decide (op ≤ 0x12)) || op == 0x18 || op == 0x19
  | 1 => decide (op ≤ 2) || (decide (5 ≤ op) && decide (op ≤ 0x0F)) || op == 0x12 || op == 0x15 || op == 0x16
  | 2 => decide (op ≤ 2) || (decide (4 ≤ op) && decide (op ≤ 7)) || (decide (9 ≤ op) && decide (op ≤ 0x0B)) || op == 0x18 || op == 0x19
  | 3 => decide (op ≤ 5)
  | _ => false

/-- The operand code of a slot that stands for the same register in a full word; none for a reserved code (R69). -/
def slotCode (s : Slot) (c : BitVec 8) (isDst : Bool) : Option (BitVec 9) :=
  let n := c.toNat
  if decide (0x90 ≤ n) && decide (n ≤ 0x93) then
    if isDst then none else some (BitVec.ofNat 9 (0x140 + (n - 0x90)))
  else if s.cls.toNat == 3 then if n < 8 then some (BitVec.ofNat 9 n) else none
  else if n < 0x80 then some (BitVec.ofNat 9 n)
  else if n < 0x90 then some (BitVec.ofNat 9 (0x100 + (n - 0x80)))
  else none

/-- Is a slot's destination the kind of register its class writes, and its source one it reads (R128, R133)? -/
def slotPlaces (s : Slot) (d a : BitVec 9) : Bool :=
  match s.cls.toNat with
  | 0 => isS d && (isS a || isY a)
  | 3 => true
  | _ => isV d && (isV a || isS a || isY a)

/-- Does a slot's flags field hold a listed code (R68)? FMIN, FMAX, FABS and FNEG, which do not round (R139), take every listed
rounding code and ignore it. DESIGN CHOICE: log 154. -/
def slotFlags (s : Slot) : Bool :=
  match s.cls.toNat with
  | 0 => if s.op.toNat == 0x18 || s.op.toNat == 0x19 then rndOk s.flags.toNat else true
  | 1 => decide (s.flags.toNat < 6)
  | 2 => rndOk s.flags.toNat
  | _ => true

/-- R82 steps 2 to 4 of one slot. -/
def checkSlot (s : Slot) : Option Cause :=
  if !slotEligible s then some .illegalOpcode
  else if (s.cls.toNat == 3 && !(s.k == 0 && s.flags == 0)) || (s.cls.toNat == 0 && s.k != 0) then some .reservedBits
  else match slotCode s s.dst true, slotCode s s.src false with
    | some d, some a => if slotPlaces s d a && slotFlags s then none else some .illegalOperand
    | _, _ => some .illegalOperand

/-- The banks of the vector registers a slot names (R62, R71). -/
def slotBanks (s : Slot) : List Nat :=
  if s.cls.toNat == 1 || s.cls.toNat == 2 then
    ([s.dst, s.src].filter (fun c => decide (c.toNat < 0x80))).map (fun c => c.toNat % 4)
  else []

/-- Do both slots name one destination register (R71)? -/
def sameDest (p : PWord) : Bool :=
  ((p.sa.cls.toNat == 3) == (p.sb.cls.toNat == 3)) && p.sa.dst == p.sb.dst

/-- R82 steps 1 to 3 of a pair word, in its order. -/
def checkPair (p : PWord) : Option Cause :=
  match checkSlot p.sa with
  | some c => some c
  | none =>
    match checkSlot p.sb with
    | some c => some c
    | none =>
      if (slotBanks p.sa).any (fun b => (slotBanks p.sb).contains b) || sameDest p then some .illegalPair else none

end Sys2Proof.Machine
end

