-- ==== Sys2Proof/Machine/State.lean ====
section
/-! DEFINITION. The state of the whole module: plain data, everything the spec gives the machine. Sparse collections
are maps from numbers whose unlisted keys read as the default their reader names. The keys: a warp or a group is
core · 32 + slot, a line is a physical address divided by 128. -/

namespace Sys2Proof.Machine

/-- The reasons a run can stop with a fault. -/
inductive Fault where
  /-- Raised by `step` alone, on a device that has lost its power (R462) and has no turn left: the spec gives such a
  device nothing more to do. Safe. -/
  | deviceLost
  deriving DecidableEq, Repr

/-- The reasons an instruction can be refused. -/
inductive Refusal where
  /-- Raised by an arm of `exec` that has no meaning yet. Safe: the run stops. -/
  | notModelled (mnemonic : String)
  deriving DecidableEq, Repr

/-! ### Accesses in flight -/

/-- The space an access reaches (R223). -/
inductive Space where
  | virt | ls | vault
  deriving DecidableEq, Repr

/-- What an atomic does (R247, R248). -/
inductive AtomOp where
  | add | min | max | and | or | xor | exch | fadd | cas
  deriving DecidableEq, Repr

/-- One lane's part of an atomic: its address, operand and comparand. -/
structure AtomLane where
  lane : Nat
  addr : Nat
  c : Word
  cmp : Word := 0
  deriving DecidableEq, Repr

/-- One line of a load that is still to be read: the line's number in the load's space, its physical line, its page's
entry, the cast region it lies in. -/
structure Part where
  vline : Nat
  line : Nat
  pte : Word := 0
  region : Option Nat := none
  deriving DecidableEq, Repr

/-- How a load places its data (R231, R234, R238). -/
inductive LoadForm where
  | lanes | uniform | transpose | atomic
  /-- PREF (R239), into the L1 or the home slice -/
  | pref (l2 : Bool)
  /-- the counter read of CWAIT (R380), which is repeated until it finds the target -/
  | counter (target : Word)
  deriving DecidableEq, Repr

/-- A load in flight (R234), or an atomic with return (R247). -/
structure Load where
  id : Nat
  warp : Nat
  pc : BitVec 32
  form : LoadForm
  space : Space
  asid : Nat := 0
  dst : BitVec 9
  w : Bool
  itype : Nat
  /-- address of each acting lane's first byte -/
  addrs : SMap Nat
  /-- bytes each lane reads -/
  size : Nat
  acq : Bool := false
  scope : Nat := 0
  rep : Bool := false
  todo : List Part
  /-- bytes read, by address -/
  got : SMap Byte := []
  /-- a poisoned granule was read (R240) -/
  bad : Option Nat := none
  /-- the atomic, its type and its lanes -/
  aop : AtomOp := .add
  atoms : List AtomLane := []
  /-- lanes of a gather that were loaded before it was pre-empted (R257) -/
  kept : Mask := 0
  /-- CYCLE at its issue, and the farthest level that has served it, as a monitor's source numbers it (R208) -/
  start : Word := 0
  level : Nat := 0
  deriving DecidableEq, Repr

/-- A warp wherever it is resident: its launch, its group's number there and its place in the group. -/
structure WarpName where
  launch : Nat := 0
  gid : Nat := 0
  index : Nat := 0
  deriving DecidableEq, Repr

/-! ### A warp (R58, R158, R190) -/

/-- What a split waits for (R158): 0 ready; 1 at a JOIN or BAR; 2 at SPINW or CWAIT; 3 for a free frontier entry. -/
inductive Wait where
  | ready
  /-- at a JOIN on mask register k (R180) -/
  | join (k : Nat)
  /-- at barrier b, 16 for PHASE's, with the count the BAR gave (R363) -/
  | bar (b count : Nat)
  /-- at SPINW since arithmetic cycle `start`, for `cycles` cycles (R183) -/
  | spin (start cycles : Nat)
  /-- at CWAIT, on a read of its counter (R380) -/
  | cwait (load : Nat)
  /-- for a free frontier entry (R167) -/
  | entry
  deriving DecidableEq, Repr

/-- A split (R158); `held` while a trap of another split is handled (R198); `stop` while a precise trap of it waits in
the queue (R196). -/
structure Split where
  pc : BitVec 32
  prio : Byte
  depth : Byte
  mask : Mask
  age : Nat := 0
  yield : Nat := 0
  wait : Wait := .ready
  held : Bool := false
  stop : Bool := false
  /-- words issued in its forced turn, when it has one (R169) -/
  turn : Option Nat := none
  deriving DecidableEq, Repr

/-- A latch (R63): its kind and value; a load's latch has none before the data returns (R234). -/
inductive Latch where
  | uniform (x : Word)
  | vector (x : Lanes Word)
  | mask (x : Mask)
  | awaited (load : Nat) (uniform : Bool)
  deriving DecidableEq, Repr

/-- A pending trap (R196, R218); `split` tells the split that raised it, by the lowest lane of its mask, and `cycle` the arithmetic
cycle in which it was raised, until it is saved. -/
structure Pend where
  cause : Cause
  late : Bool := false
  pc : BitVec 32 := 0
  prio : Byte := 0
  depth : Byte := 0
  info : Word := 0
  lanes : Mask := 0
  split : Option Nat := none
  cycle : Option Nat := none
  deriving DecidableEq, Repr

/-- What keeps a warp from issuing beside its scoreboard (R163, R256). -/
inductive Block where
  | free
  /-- the fault requests that it made (R256) -/
  | fault
  /-- an operation of the matrix unit (R383) -/
  | matrix
  /-- a PGATE of a core whose outcome is not known, for s register dst (R214) -/
  | gate (core dst : Nat)
  /-- a cast region that builds or closes, with the pages that the warp's lanes reach in it (R465) -/
  | region (r : Nat) (pages : List Nat)
  deriving DecidableEq, Repr

/-- A resident warp. -/
structure Warp where
  /-- v0 to v255 (R58); unlisted = all lanes 0 -/
  v : SMap (Lanes Lane) := []
  /-- allocated blocks of 8 registers (R369) -/
  alloc : BitVec 32 := 0
  /-- s0 to s63; unlisted = 0 -/
  sr : SMap Word := []
  /-- a0 to a15; unlisted = 0 -/
  ar : SMap Addr := []
  /-- k1 to k7; unlisted = 0 (R126) -/
  kr : SMap Mask := []
  /-- d0 to d15 (R387); unlisted = 0 -/
  dr : SMap (BitVec 128) := []
  /-- q0 to q15 (R407); unlisted = 0 -/
  qr : SMap Lane := []
  y0 : Option Latch := none
  y1 : Option Latch := none
  y2 : Option Latch := none
  y3 : Option Latch := none
  /-- the frontier, in rank order (R160) -/
  frontier : List Split := []
  /-- lanes that have a thread and have not exited -/
  live : Mask := 0
  /-- entry of the split selected at the chain head (R163) -/
  cur : Nat := 0
  /-- that split has been selected at a chain head and waits there: it stays selected (R163) -/
  chosen : Bool := false
  /-- position of the next word in its chain; 0 at a head (R63) -/
  pos : Nat := 0
  /-- pc of the chain's head (R65) -/
  headPc : BitVec 32 := 0
  /-- generator states at the chain's head (R90) -/
  headGen : SMap Lane := []
  /-- writes to k8–k15 that wait for the chain's end, in order (R164) -/
  kwrites : List (Nat × Mask) := []
  /-- generator states of lanes 0 to 128 (R89) -/
  gen : SMap Lane := []
  /-- the hang detector's count (R171) -/
  hang : Nat := 0
  pend : List Pend := []
  /-- STATUS.sup, psup, inh, itercap (R192) -/
  sup : Bool := false
  psup : Bool := false
  inh : Bool := false
  itercap : Bool := false
  role : Nat := 0
  trapcause : Word := 0
  trappc : Word := 0
  trapinfo : Word := 0
  trapvec : Word := 0
  tlanes : Mask := 0
  hsave0 : Word := 0
  hsave1 : Word := 0
  pxi : Word := 0
  trappxi : Word := 0
  vtime : Word := 0
  vtcmp : Word := 0
  deadline : Word := 0
  /-- AGELIM.limit (R172) -/
  agelim : Nat := 4096
  /-- FAIR.mode (R172) -/
  fair : Bool := true
  fpmode : Word := 0
  /-- pending tokens (R319), bit n for sn -/
  tokPend : Word := 0
  /-- token fault tags (R321), bit n for sn -/
  tokTag : Word := 0
  /-- carried vector register numbers, 255 for an unused byte (R368) -/
  carryV : List Nat := []
  carryS : Word := 0
  /-- VCLAIM's place in its group's order (R370): the claim's number -/
  claim : Option Nat := none
  block : Block := .free
  /-- 64 KiB pages that the service has refused the waiting instruction, with 'not permitted' (R256) -/
  verdict : List (Nat × Bool) := []
  /-- a gather that waits for the page-fault service: the load of its eighths that have passed their checks, and those (R257) -/
  gather : Option (Load × BitVec 8) := none
  /-- the warp's group, by the key of its first warp -/
  grp : Nat := 0
  /-- issue slots of its partition that have served others since it was served (R467) -/
  since : Nat := 0
  deriving DecidableEq, Repr

/-- One of a group's 17 barriers (R219, R363). -/
structure Barrier where
  /-- the count that the round under way has -/
  count : Nat := 0
  /-- warps arrived, by slot key, in the order of their arrivals -/
  arrived : List Nat := []
  deriving DecidableEq, Repr

/-- A resident group. -/
structure Group where
  launch : Nat := 0
  gid : Nat := 0
  phaseNo : Nat := 0
  warps : List Nat := []
  lsBase : Nat := 0
  lsSize : Nat := 0
  regs : Nat := 64
  sregs : Nat := 64
  asid : Nat := 0
  /-- PA of the level-4 table (R349) -/
  root : Nat := 0
  codeBase : Addr := 0
  grant : BitVec 256 := 0
  /-- register pool, in blocks (R369) -/
  pool : Nat := 0
  /-- number the next claim takes (R370) -/
  claimNext : Nat := 0
  bars : SMap Barrier := []
  carryOff : Nat := 0
  carrySize : Nat := 0
  /-- MATRIX_STORAGE due: TRAPINFO and the warp to receive it (R413) -/
  msDue : Option (Word × Nat) := none
  faulted : Bool := false
  /-- a save or an end of phase is under way (R217, R364) -/
  saving : Bool := false
  ending : Bool := false
  /-- CYCLE at which the entry it was dispatched from was appended, until its first instruction (R208) -/
  queued : Option Word := none
  /-- where its phase record stands, once it is written: space and place (R364) -/
  phaseRec : Option (Nat × Nat) := none
  originQ : Nat := 0
  originDie : Nat := 0
  originPrio : Nat := 0
  /-- priority of the record that dispatched it here (R360) -/
  prio : Nat := 0
  /-- its warps start in supervisor state (R352, R357) -/
  priv : Bool := false
  /-- VA of the record that its save writes -/
  saveAt : Addr := 0
  /-- dispatch order on the core (R360) -/
  seq : Nat := 0
  /-- registered packed areas: offset, T, S (R329) -/
  packed : List (Nat × Nat × Nat) := []
  deriving DecidableEq, Repr

/-! ### Stores and pushes in flight -/

/-- A store or an atomic without return, one line of it, in flight or in the side log (R241, R258). `lanes` are the
lanes it counts for. -/
structure Store where
  id : Nat
  core : Nat
  warp : Nat
  group : Nat := 0
  launch : Nat := 0
  pc : BitVec 32 := 0
  space : Space := .virt
  asid : Nat := 0
  root : Nat := 0
  /-- address of the line's first byte, virtual or vault -/
  va : Nat
  /-- physical line -/
  line : Nat := 0
  data : Line := 0
  bmask : Mask := 0
  lanes : Mask := 0
  /-- 0 ST, 1 STU, 2 STRL, 3 POUR, 4 ATOMN, 5 flash-full cast store (R258) -/
  op : Nat
  /-- op before it became 5 -/
  was : Nat := 0
  rel : Bool := false
  scope : Nat := 0
  /-- POUR's receivers (R242) -/
  dest : List Nat := []
  aop : AtomOp := .add
  atype : Nat := 0
  atoms : List AtomLane := []
  /-- the whole accesses of its lanes, `width` bytes each, of which the entry holds what lies in its line (R421) -/
  acc : List AtomLane := []
  width : Nat := 0
  /-- the exit increments it holds (R353): the group's key in its launch -/
  exits : Nat := 0
  cast : Option Nat := none
  /-- the entry of its page (R265, R267, R453) -/
  pte : Word := 0
  /-- side log: 0 unmapped, 1 not permitted, 2 flash list full, 3 behind another entry (R258, R259) -/
  reason : Nat := 0
  /-- the fault request it waits on -/
  req : Option Nat := none
  /-- its replay may be tried, or must fail (R259, R261) -/
  ready : Bool := false
  fail : Bool := false
  /-- urgent recasts it has waited for (R430) -/
  tries : Nat := 0
  /-- it has left the side log for its home, and still holds later accesses to its line (R259) -/
  holds : Bool := false
  /-- ATOMN: the first entry of its instruction, whose entries are performed in order (R247) -/
  run : Nat := 0
  /-- its warp's place in the group -/
  index : Nat := 0
  deriving DecidableEq, Repr

/-- A push on its way (R243): in a Fill to the receiver's die, to the receiver, or its acknowledgement. -/
inductive PushStage where
  | toDie | toCore | acked
  deriving DecidableEq, Repr
structure Push where
  id : Nat
  src : Nat
  /-- the warp of its POUR -/
  owner : WarpName := {}
  dst : Nat
  asid : Nat
  va : Nat
  line : Nat
  data : Line
  sectors : BitVec 4
  time : Nat
  scope : Nat
  bad : Bool := false
  /-- its POUR's place in the warp's order (R246) -/
  seq : Nat := 0
  launch : Nat := 0
  /-- of host memory that may be cached (R453) -/
  hc : Bool := false
  stage : PushStage
  deriving DecidableEq, Repr

/-! ### Engines (R316) -/

inductive CmdKind where
  | cpy | cpyt | pinit | skim | drossRd | drossClr | bin | launch
  deriving DecidableEq, Repr

/-- An address in one of CPY's spaces (R325). -/
structure EngAddr where
  space : Space := .ls
  addr : Nat := 0
  deriving DecidableEq, Repr

/-- A work command in its slot (R316). -/
structure Cmd where
  kind : CmdKind
  warp : Nat
  grp : Nat
  launch : Nat
  token : Nat
  scope : Nat
  held : Bool := false
  seq : Nat := 0
  src : EngAddr := {}
  dst : EngAddr := {}
  len : Nat := 0
  gate : Option Nat := none
  /-- bytes copied or tiles done -/
  done : Nat := 0
  /-- CPYT: the two records, the first packed tile, the container flags; SKIM, BIN, DROSS: the control -/
  recD : BitVec 128 := 0
  recS : BitVec 128 := 0
  ctl : Word := 0
  kindBits : Nat := 0
  /-- the patch: count offset and multiplier (R345) -/
  patch : Option (Nat × Nat) := none
  /-- LAUNCH: queue operand, packet, the launch it started -/
  packet : List Byte := []
  child : Option Nat := none
  /-- the stop: reason and VA (R320) -/
  err : Option (Nat × Nat) := none
  amount : Nat := 0
  finished : Bool := false
  /-- the fault request it waits on -/
  req : Option Nat := none
  /-- CPYT: ranges of virtual memory still to be written (R279) -/
  holds : List (Nat × Nat) := []
  deriving DecidableEq, Repr

/-- An entry of the range-overlap scoreboard (R323): granules lo to hi, of one command. -/
structure Range where
  lo : Nat
  hi : Nat
  write : Bool
  cmd : Nat
  seq : Nat
  deriving DecidableEq, Repr

/-- A class 10 operation issued to the matrix unit, with the d and q registers it read (R383). -/
inductive MatOp where
  | mzero (c : Nat)
  | mma (c : Nat) (ra rb : BitVec 128) (z : Bool)
  | mloop (c : Nat) (ra rb : BitVec 128) (z : Bool) (n : Nat)
  | mpoly (c x n m : Nat) (ff : Bool) (q : List Lane)
  /-- MITER; `fresh` tells that it starts from the beginning (R409) -/
  | miter (x m n cap : Nat) (ff step ctrap : Bool) (q : List Lane) (fresh : Bool)
  | mldc (c : Nat) (ra : BitVec 128)
  | mstc (rd : BitVec 128) (c rnd : Nat)
  | mmov (d a : Nat) (t : Bool) (q : Option Lane)
  | mnrm (dst c rows cols kind : Nat)
  | mqldOne (n : Nat) (x : Lane)
  | mqld (addr : EngAddr)
  | mstat (dst c field : Nat)
  | mstatQ (dst : Nat) (x : Lane)
  deriving DecidableEq, Repr

/-- A range of the local store or of a vault that an operation of the matrix unit reads or writes (R393). -/
structure MatRange where
  vault : Bool
  lo : Nat
  n : Nat
  write : Bool
  deriving DecidableEq, Repr

structure MatJob where
  id : Nat
  op : MatOp
  warp : Nat
  grp : Nat
  pc : BitVec 32
  ranges : List MatRange := []
  deriving DecidableEq, Repr

/-- An accumulator tile (R385): elements by row · 64 + column, unlisted = +0; row poison; status (R403). -/
structure Tile where
  owner : Option Nat := none
  el : SMap A96 := []
  poison : Word := 0
  status : BitVec 128 := 0
  deriving DecidableEq, Repr

/-- A sluice (R333). -/
structure Sluice where
  owner : Option Nat := none
  fill : Word := 0
  drain : Word := 0
  deriving DecidableEq, Repr

/-- A dross slot (R341): values by index, unlisted = +0. -/
structure Dross where
  owner : Option Nat := none
  val : SMap Lane := []
  deriving DecidableEq, Repr

/-- The state of a core's mailbox (R461). -/
inductive Power where
  | on | prep | commit | off
  deriving DecidableEq, Repr

/-- A core (R11); an unlisted core is as at reset. -/
structure Core where
  /-- the core's logical time (R285) -/
  ct : Nat := 0
  loads : List Load := []
  stores : List Store := []
  sidelog : List Store := []
  pushes : List Push := []
  cmds : SMap Cmd := []
  board : List Range := []
  mq : List MatJob := []
  tiles : SMap Tile := []
  sluices : SMap Sluice := []
  dross : SMap Dross := []
  /-- the atomic predictor, most recently used first: line of the VA and counter (R250) -/
  predictor : List (Nat × Nat) := []
  /-- PUSHQ.quota (R245) -/
  pushq : Nat := 2
  pushRead : Nat := 0
  pushRefused : Nat := 0
  /-- refusals in the present microsecond (R208) -/
  refusals : Nat := 0
  pushInstalled : Nat := 0
  /-- bind records (R357) -/
  slots : SMap Word := []
  /-- pass of each record (R359) -/
  pass : SMap Nat := []
  power : Power := .on
  /-- the latched-wake bit (R461) -/
  wake : Bool := false
  /-- a context save is under way (R217, R244) -/
  saving : Bool := false
  /-- what has reached a gate in this arithmetic cycle: the gate's code and the event's rank (R416) -/
  gateSeen : List (Nat × Nat) := []
  deriving DecidableEq, Repr

/-! ### Caches, translation and the directory -/

/-- An L1 line (R244, R287); the key is core, ASID and line of the VA. -/
structure L1Line where
  data : Line
  sectors : BitVec 4
  wts : Nat
  rts : Nat
  pushed : Bool := false
  rep : Bool := false
  line : Nat
  launch : Nat
  /-- a copy of host memory under hc = 1 (R453) -/
  hc : Bool := false
  bad : Bool := false
  deriving DecidableEq, Repr

/-- A near-atomic window (R250, R301): its core, lines, end in arithmetic cycles, bytes written; `grant` is the grant
time of a window on another die's line. -/
structure Window where
  core : Nat
  key : Nat
  line : Nat
  ends : Nat
  data : Line
  bmask : Mask := 0
  grant : Option Nat := none
  hit : Bool := false
  /-- its page's entry, for a fill of the line at its home (R265, R267) -/
  pte : Word := 0
  /-- the line is poisoned (R98, R240) -/
  bad : Bool := false
  deriving DecidableEq, Repr

/-- An L2 line of a home slice, or of the proxy slice of another die (R287, R293). -/
structure L2Line where
  data : Line
  dirty : Bool := false
  wts : Nat
  rts : Nat
  poison : Bool := false
  /-- attributes captured at the fill (R265, R267): cmp, prot, kix and the ASID -/
  cmp : Bool := false
  prot : Bool := false
  kix : Nat := 0
  asid : Nat := 0
  hc : Bool := false
  rep : Bool := false
  launch : Nat := 0
  /-- a proxy's ownership (R297) and its write-back under way (R299) -/
  own : Bool := false
  putting : Bool := false
  /-- the sectors it holds: all, but at a proxy that a Fill has reached (R302) -/
  sectors : BitVec 4 := 15
  deriving DecidableEq, Repr

/-- A leaf translation (R253, R254). -/
structure TlbEntry where
  asid : Nat
  shift : Nat
  page : Nat
  pte : Word
  deriving DecidableEq, Repr

/-- The messages of the directory (R295). -/
inductive MsgKind where
  | rdS | rdX | upg | putE | putM | evict | invAck | rclData | rclAck
  | data | gntX | inv | rcl | putAck | fill
  deriving DecidableEq, Repr

/-- A directory message in flight. `agent` is the agent's pointer at the other end of the home (R292); `half` names the
halves, bit 0 for bytes 0–63; `time` is a grant time, a write time or an rts; `dt` the sender die's DT. -/
structure Msg where
  kind : MsgKind
  line : Nat
  agent : Nat
  half : BitVec 2 := 3
  data : Line := 0
  time : Nat := 0
  dt : Nat := 0
  excl : Bool := false
  share : Bool := false
  poison : Bool := false
  /-- the page's entry and address space, for the fill at the home, or the attributes that the home's fill captured (R265, R267) -/
  pte : Word := 0
  asid : Nat := 0
  push : Option Push := none
  deriving DecidableEq, Repr

/-- A request that a home slice serves for a line (R296). -/
inductive Req where
  | agent (kind : MsgKind) (a : Nat) (half : BitVec 2)
  | load (core id vline : Nat)
  | store (core id : Nat)
  | atomic (core id vline : Nat)
  /-- an engine or the device itself, which tries again -/
  | unit
  deriving DecidableEq, Repr

/-- The state of one half of a line (R292). -/
inductive HalfSt where
  | I | S | E | M | O | XA | XS | FR | FW
  deriving DecidableEq, Repr

/-- A directory entry (R292) with the transaction under way (R296 to R298). -/
structure Dir where
  hi : HalfSt := .I
  lo : HalfSt := .I
  ownHi : Nat := 0
  ownLo : Nat := 0
  coarse : Bool := false
  ptrs : List Nat := []
  vec : BitVec 6 := 0
  nack : Nat := 0
  /-- pointer of the request being served, as the entry holds it -/
  req : Nat := 0
  /-- largest rts the acknowledgements carried -/
  b : Nat := 0
  serving : Option Req := none
  waiting : List Req := []
  deriving DecidableEq, Repr

/-! ### Tasks -/

/-- A launch packet's fields (R349). -/
structure Packet where
  entryPc : Nat
  entryPrio : Nat
  warps : Nat
  threads : Nat
  stages : Nat
  stagemap : List Nat
  gx : Nat
  gy : Nat
  gz : Nat
  regs : Nat
  sregs : Nat
  flags : Nat
  localsize : Nat
  agelim : Nat
  vslots : Nat
  carryV : List Nat
  carryS : Nat
  clsOff : Nat
  clsSize : Nat
  grant : Nat
  codeBase : Nat
  dataBase : Nat
  args : Nat
  counter : Nat
  root : Nat
  asid : Nat
  trapvec : Nat
  regen : Nat
  save : Nat
  deriving DecidableEq, Repr

/-- A queue or phase-list entry (R355). -/
structure QEntry where
  kind : Nat := 0
  priv : Bool := false
  graph : Bool := false
  originPrio : Nat := 0
  originQ : Nat := 0
  originDie : Nat := 0
  launch : Nat := 0
  ref : Addr := 0
  group : Nat := 0
  tgt : Nat := 0
  phaseNo : Nat := 0
  recSpace : Nat := 0
  node : Nat := 0
  /-- it holds a reserve entry (R354) -/
  reserve : Bool := false
  bad : Bool := false
  /-- it was reloaded once (R381) -/
  reloaded : Bool := false
  /-- CYCLE when it was appended (R208) -/
  since : Word := 0
  /-- kind 4: the address space of its node table, which R355 does not hold -/
  asid : Nat := 0
  root : Nat := 0
  deriving DecidableEq, Repr

/-- A list of entries of the shadow carve-out, each with whether an uncorrectable error has met it (R356, R381). DESIGN CHOICE: log 145. -/
abbrev Shadow := List (QEntry × Bool)

/-- The shadow after a write of a list: every entry that changes is written. -/
def Shadow.mirror (old : Shadow) (l : List QEntry) : Shadow :=
  l.map (fun e =>
    let e := { e with bad := false, reloaded := false }
    (e, old.any (fun x => x.1 == e && x.2)))

structure Queue where
  entries : List QEntry := []
  halted : Bool := false
  shadow : Shadow := []
  deriving DecidableEq, Repr

/-- A live launch (R350 to R353). DESIGN CHOICE: log 72. -/
structure Launch where
  bytes : List Byte := []
  /-- the queue it came through, by die and number -/
  qdie : Nat := 0
  queue : Nat := 0
  host : Bool := false
  next : Nat := 0
  faulted : Bool := false
  /-- a privileged launch has started in user state, and the record says so (R357) -/
  demoted : Bool := false
  /-- LAUNCH's command: core and slot (R372) -/
  token : Option (Nat × Nat) := none
  /-- the second record of an ENQUEUE with notify (R452) -/
  notify : Option HostMsg := none
  /-- the graph node it runs: die and node (R378) -/
  node : Option (Nat × Nat) := none
  /-- the regeneration request it serves (R263) -/
  regen : Option Nat := none
  /-- lanes whose increments are withheld (R261): group, warp's place in it, lanes -/
  withheld : List (Nat × Nat × Mask) := []
  deriving DecidableEq, Repr

/-- A node of a die's graph walker (R377). -/
structure Node where
  kind : Nat := 0
  init : Nat := 0
  count : Nat := 0
  succ : List Nat := []
  cword : Nat := 0
  queue : Nat := 0
  len : Nat := 0
  vaA : Addr := 0
  vaB : Addr := 0
  ready : Bool := false
  running : Bool := false
  /-- its launch entry is held for want of a queue entry (R378) -/
  held : Bool := false
  launch : Option Nat := none
  faulted : Bool := false
  asid : Nat := 0
  root : Nat := 0
  /-- its counter is poisoned; it was reloaded once (R381) -/
  bad : Bool := false
  reloaded : Bool := false
  /-- the counter's shadow copy, and whether an error has met it (R356, R381) -/
  shadow : Nat := 0
  shadowBad : Bool := false
  deriving DecidableEq, Repr

/-- A die's monitor (R208). -/
structure Monitor where
  source : Nat := 0
  enable : Bool := false
  core : Nat := 0
  queue : Nat := 0
  min : Word := BitVec.allOnes 64
  max : Word := 0
  count : Nat := 0
  bins : SMap Nat := []
  deriving DecidableEq, Repr

/-- A quantity that a monitor of a die is about to sample, so many times (R208). -/
structure Sample where
  die : Nat
  mon : Nat
  value : Nat
  times : Nat := 1
  deriving DecidableEq, Repr

/-- What the device keeps of a group whose phase or context record waits (R218, R365): what the record's bytes do not
hold. `warps` are in the group's order, with the keys that they had. DEDUCED: log 77. -/
structure Saved where
  phase : Bool
  grp : Group
  warps : List (Nat × Warp)
  /-- held and stopped commands, in issue order (R347) -/
  cmds : List Cmd := []
  /-- tiles, sluices and dross slots it owns -/
  tiles : List Nat := []
  sluices : List Nat := []
  dross : List Nat := []
  /-- class 11 tokens written while it waits: warp by place, register, value (R438) -/
  late : List (Nat × Nat × Word) := []
  deriving DecidableEq, Repr

structure Die where
  dt : Nat := 0
  /-- how many times its clock has advanced DT (R285) -/
  ticks : Nat := 0
  phases : List QEntry := []
  phaseShadow : Shadow := []
  phaseHalted : List Nat := []
  monitors : SMap Monitor := []
  nodes : SMap Node := []
  /-- nodes in the order they became ready -/
  readyList : List Nat := []
  cwords : SMap Word := []
  graphHalted : Bool := false
  seq : Nat := 0
  deriving DecidableEq, Repr

/-! ### Cast regions (R419) -/

inductive RegSt where
  | building | live | recasting | closing
  deriving DecidableEq, Repr

/-- Who waits for a class 11 token (R438): a group, its warp by its place in the group, the token's register. -/
structure RegTok where
  launch : Nat
  gid : Nat
  index : Nat
  token : Nat
  scope : Nat
  /-- its place in the warp's order (R279) -/
  seq : Nat := 0
  deriving DecidableEq, Repr

/-- A recast under way, or the build of table 0 (R432, R439). -/
structure Recast where
  /-- the proposal; none while the host has not given it (R441) -/
  prop : Option (List Byte) := none
  urgent : Bool := false
  /-- the scan has ended: evaluators that have still to acknowledge the freeze (R434) -/
  freeze : Option (List Nat) := none
  tok : Option RegTok := none
  deriving DecidableEq, Repr

structure Region where
  st : RegSt
  asid : Nat
  root : Nat := 0
  ndim : Nat
  efmt : Nat
  eps : Nat
  dims : List Nat
  base : Nat
  refPa : Nat
  flashVault : Bool
  flash : Nat
  cap : Nat
  /-- the generation, modulo 2^32; its table is generation mod 2 -/
  gen : Nat := 0
  mould : List Byte
  recast : Option Recast := none
  /-- the CUNREG tokens that wait for the close (R440) -/
  closeTok : List RegTok := []
  /-- the close's place in the order of accesses: earlier ones have been accepted (R440) -/
  closeAt : Nat := 0
  /-- a mould copy has an uncorrectable error (R445) -/
  bad : Bool := false
  deriving DecidableEq, Repr

/-! ### The edges -/

/-- What a fault request waits for (R256, R263). -/
inductive Asker where
  | warp (wp : Nat)
  | side (core id : Nat)
  | cmd (core slot : Nat)
  /-- a node of a die's graph, and a queue's graph load (R376, R378) -/
  | node (die n : Nat)
  | load (die queue : Nat)
  /-- nobody any more: the asker's group has left its core -/
  | gone
  deriving DecidableEq, Repr

structure FaultReq where
  id : Nat
  asker : Asker
  asid : Nat
  root : Nat
  va : Nat
  /-- 0 read, 1 write, 2 execute -/
  need : Nat
  /-- a regeneration runs for it: none, by the device, or by the host -/
  regen : Nat := 0
  rgx : Nat := 0
  host : Bool := false
  /-- the regeneration kernel has ended, and whether it faulted (R263) -/
  ended : Option Bool := none
  /-- the frame that the kernel fills -/
  frame : Nat := 0
  deriving DecidableEq, Repr

/-- An image of the boot flash: version, bytes, digest and signature (R457). -/
structure Image where
  version : Nat
  bytes : List Byte
  digest : List Byte
  signature : List Byte
  deriving DecidableEq, Repr

/-- The event ring (R455). -/
structure Ring where
  n : Nat
  va : Nat
  deriving DecidableEq, Repr

/-- Boot's outcome (R457). -/
inductive Boot where
  | running | failed
  deriving DecidableEq, Repr

/-! ### The moves to come -/

/-- A move of the machine's agents or of its environment. DESIGN CHOICE: log 46. DESIGN CHOICE: log 101. -/
inductive Act where
  /-- an issue slot serves this warp -/
  | issue (wp : Nat)
  /-- an event row of the table -/
  | event (i : Instr)
  /-- a host caching agent sends a directory message (R450) -/
  | host (m : Msg)
  /-- a host agent or a management core stores bytes at a physical address (R453, R12) -/
  | write (pa : Nat) (bytes : List Byte)
  /-- an uncorrectable storage error meets the matrix unit's next operation at an address of its operands (R413) -/
  | storage (core : Nat) (vault : Bool) (addr : Nat)
  /-- an uncorrectable error meets a granule of a local store (0), a vault (1) or physical memory (2) at an address (R98) -/
  | decay (space addr : Nat)
  /-- an uncorrectable error meets a region's mould copy (R445) -/
  | mould (region : Nat)
  /-- an I/O die's boot flash is written from outside (R457) -/
  | flash (io : Nat) (l : List Image)
  /-- a graph load's entry arrives at a queue, from a source that the spec does not name -/
  | graph (die queue : Nat) (e : QEntry)
  /-- an uncorrectable error meets the shadow of a queue's (0), the phase list's (1) entry or of a counter (2) (R381) -/
  | shadow (die what ix slot : Nat)
  /-- an upset rewrites a line's directory entry (R292) -/
  | directory (line : Nat) (entry : Word)
  /-- a host agent stores bytes at one of its virtual addresses: the ring's indices (R455) -/
  | hostWrite (va : Nat) (bytes : List Byte)
  deriving DecidableEq, Repr

/-- A turn: the reference cycles and the arithmetic cycles that go by, and the act. DESIGN CHOICE: log 2. -/
structure Turn where
  ref : Nat := 1
  arith : Nat := 1
  act : Act
  deriving DecidableEq, Repr

/-- The state of the module. -/
structure State where
  warps : SMap Warp := []
  groups : SMap Group := []
  cores : SMap Core := []
  dies : SMap Die := []
  /-- queues by die · 256 + number -/
  queues : SMap Queue := []
  launches : SMap Launch := []
  saved : List Saved := []
  /-- local stores by core · 2^20 + offset, and poisoned granules by that number divided by 128 -/
  ls : List Host.Cell := []
  lsBad : SMap Bool := []
  /-- vaults by vault address, and their poisoned granules -/
  vault : List Host.Cell := []
  vaultBad : SMap Bool := []
  /-- DRAM, CXL, host and remote memory by physical address -/
  phys : List Host.Cell := []
  physBad : SMap Bool := []
  /-- sector tags of a line (R265); unlisted = four zero sectors -/
  tags : SMap Byte := []
  /-- protection fields of a line (R267): ASID · 16 + kix + 1, 0 for unprotected -/
  prots : SMap Nat := []
  l1 : SMap L1Line := []
  /-- L2 lines by die · 2^45 + line -/
  l2 : SMap L2Line := []
  /-- the rts a proxy remembers of an evicted line (R314) -/
  gone : SMap Nat := []
  /-- the address space and the page's entry through which a line was last filled at its home (R265, R267) -/
  filled : SMap (Nat × Word) := []
  dir : SMap Dir := []
  tlb : SMap (List TlbEntry) := []
  windows : List Window := []
  msgs : List Msg := []
  /-- requests that have reached their homes in this arithmetic cycle: line and rank (R296) -/
  arrivals : List (Nat × Nat) := []
  /-- samples made in this arithmetic cycle that their monitors have not taken yet (R208) -/
  samples : List Sample := []
  regions : SMap Region := []
  /-- tokens of closes that have ended, by region, that wait for their warps' earlier accesses (R279, R440) -/
  regToks : List (Nat × RegTok × Word) := []
  reqs : List FaultReq := []
  /-- mould requests outstanding: id and region (R456) -/
  moulds : List (Nat × Nat) := []
  nextId : Nat := 0
  cycle : Word := 0
  arith : Nat := 0
  /-- MODE, bit n for duty n (R215) -/
  mode : BitVec 7 := 0
  ring : Option Ring := none
  log : List (BitVec 512) := []
  logLost : Nat := 0
  /-- key slots: ASID · 16 + kix and the key (R459) -/
  keys : SMap (Nat × BitVec 512) := []
  transport : Option (List Byte) := none
  kemNo : Nat := 0
  rollback : Nat := 0
  boot : Boot := .running
  /-- each I/O die's boot flash: its images, the preferred one first (R5, R457) -/
  flash : SMap (List Image) := []
  /-- a record of sev 3 has been written (R456, R462) -/
  sev3 : Bool := false
  /-- PREEMPT messages whose saves have not ended: the launch's groups that are still saving (R451, R452) -/
  preempts : List (HostMsg × List Nat) := []
  /-- a warm reset that waits for the launches' stores, and the messages that it completes (R452, R463) -/
  resetting : Option (List HostMsg) := none
  /-- digests of the loaded images (R458) -/
  images : List (List Byte) := []
  cxlDown : SMap Bool := []
  lost : Bool := false
  /-- requests answered with a device-lost error response (R307, R462) -/
  lostAnswers : List Act := []
  /-- the warp of the turn under way: `exec` of a word is that word in this warp's issue slot -/
  issuer : Nat := 0
  /-- the turns to come -/
  agenda : List Turn := []
  /-- arithmetic cycles of the issue slot under way -/
  slot : Nat := 1
  /-- the counter that free values are applied to (log 3) -/
  fresh : Nat := 0
  /-- what the host's agents see at their virtual addresses: completion records, reports and the ring (R452, R455) -/
  hostMem : List Host.Cell := []
  deriving DecidableEq, Repr

/-- The module right after a cold reset whose boot has verified an image (R457): nothing launched, every core on. DESIGN CHOICE: log 12. -/
def State.reset : State := {}

end Sys2Proof.Machine
end

