-- ==== Sys2Proof/Machine/Store.lean ====
section
/-! DEFINITION. Sparse maps, sets of numbers as maps to Bool, and memory as bytes in canonical form: keys rising, no
entry equal to what an unlisted key reads as. -/

namespace Sys2Proof

/-- The value at a key, d where none is listed. -/
def SMap.look {α : Type} (d : α) (m : SMap α) (k : Nat) : α :=
  match m with
  | [] => d
  | (j, x) :: r => if j = k then x else SMap.look d r k

/-- The value at a key, if one is listed. -/
def SMap.find {α : Type} (m : SMap α) (k : Nat) : Option α :=
  match m with
  | [] => none
  | (j, x) :: r => if j = k then some x else SMap.find r k

/-- The map without a key. -/
def SMap.erase {α : Type} (k : Nat) (m : SMap α) : SMap α :=
  m.filter (fun p => p.1 ≠ k)

/-- The map with x at a key, the keys kept rising. -/
def SMap.set {α : Type} (k : Nat) (x : α) (m : SMap α) : SMap α :=
  match m with
  | [] => [(k, x)]
  | (j, y) :: r => if k < j then (k, x) :: (j, y) :: r else if k = j then (k, x) :: r else (j, y) :: SMap.set k x r

/-- The map with x at a key, listing nothing where x is what an unlisted key reads as. -/
def SMap.put {α : Type} [DecidableEq α] (d : α) (k : Nat) (x : α) (m : SMap α) : SMap α :=
  if x = d then SMap.erase k m else SMap.set k x m

/-- Is a key listed? -/
def SMap.has {α : Type} (m : SMap α) (k : Nat) : Bool := (SMap.find m k).isSome

/-- The keys from a list that satisfy p. -/
def SMap.keysWhere {α : Type} (m : SMap α) (p : Nat → α → Bool) : List Nat :=
  (m.filter (fun q => p q.1 q.2)).map Prod.fst

/-- The map's entries that satisfy p. -/
def SMap.keep {α : Type} (m : SMap α) (p : Nat → α → Bool) : SMap α := m.filter (fun q => p q.1 q.2)

/-- The first listed value that satisfies p, with its key. -/
def SMap.findWhere {α : Type} (m : SMap α) (p : Nat → α → Bool) : Option (Nat × α) := m.find? (fun q => p q.1 q.2)

/-- The keys rise strictly. -/
def SMap.rising {α : Type} : SMap α → Bool
  | [] => true
  | [_] => true
  | (j, _) :: (k, y) :: r => decide (j < k) && SMap.rising ((k, y) :: r)

end Sys2Proof

namespace Sys2Proof.Machine

/-- Memory: bytes by address; an unlisted address reads as 0 (DESIGN CHOICE: log 12). -/
abbrev Memory := List Host.Cell

/-- The byte at an address. -/
def Memory.byte (m : Memory) (a : Nat) : Byte := SMap.look 0 m a

/-- Memory with a byte stored. -/
def Memory.store (m : Memory) (a : Nat) (b : Byte) : Memory := SMap.put 0 a b m

/-- The canonical form of memory. -/
def Memory.wf (m : Memory) : Bool := SMap.rising m && m.all (fun c => c.2 ≠ 0)

/-- The n bytes from an address. -/
def Memory.bytes (m : Memory) (a n : Nat) : List Byte := (List.range n).map (fun i => m.byte (a + i))

/-- Memory with bytes stored from an address. -/
def Memory.storeBytes (m : Memory) (a : Nat) (l : List Byte) : Memory :=
  match l with
  | [] => m
  | b :: r => Memory.storeBytes (m.store a b) (a + 1) r

/-- Memory with n bytes from an address set to 0. -/
def Memory.clear (m : Memory) (a n : Nat) : Memory := m.filter (fun c => !(decide (a ≤ c.1) && decide (c.1 < a + n)))

/-- A little-endian number from bytes. -/
def natOfBytes (l : List Byte) : Nat := l.foldr (fun b acc => acc * 256 + b.toNat) 0

/-- The n bytes of a number, little-endian. -/
def bytesOfNat (n x : Nat) : List Byte := (List.range n).map (fun i => BitVec.ofNat 8 (x / 256 ^ i))

/-- A little-endian field of a byte list. -/
def field (l : List Byte) (off n : Nat) : Nat := natOfBytes ((l.drop off).take n)

/-- The bytes of a 128-byte line. -/
def lineBytes (x : Line) : List Byte := (List.range 128).map (fun i => x.extractLsb' (8 * i) 8)

/-- The line of a list of bytes, the first at its lowest place. -/
def lineOf (l : List Byte) : Line := BitVec.ofNat 1024 (natOfBytes l)

/-- Byte i of a line. -/
def lineByte (x : Line) (i : Nat) : Byte := x.extractLsb' (8 * i) 8

/-- A line with byte i replaced. -/
def lineSet (x : Line) (i : Nat) (b : Byte) : Line :=
  (x &&& ~~~ (BitVec.ofNat 1024 (255 * 256 ^ i))) ||| BitVec.ofNat 1024 (b.toNat * 256 ^ i)

/-- The bits of a line that belong to the bytes of a mask. -/
def spreadMask (m : Mask) : Line :=
  BitVec.ofNat 1024 ((List.range 128).foldl (fun acc i => if m.getLsbD i then acc + 255 * 256 ^ i else acc) 0)

/-- The line `new` on the bytes of a mask, else `old`. -/
def lineMerge (old new : Line) (m : Mask) : Line :=
  (old &&& ~~~ spreadMask m) ||| (new &&& spreadMask m)

/-- The mask of n bytes from place i of a line. -/
def byteSpan (i n : Nat) : Mask := BitVec.ofNat 128 ((2 ^ n - 1) * 2 ^ i)

/-- The 32-byte sectors that a byte mask touches. -/
def sectorsOf (m : Mask) : BitVec 4 :=
  BitVec.ofNat 4 ((List.range 4).foldl (fun acc s => if m.extractLsb' (32 * s) 32 ≠ 0 then acc + 2 ^ s else acc) 0)

/-- The bytes of some sectors. -/
def sectorBytes (s : BitVec 4) : Mask :=
  BitVec.ofNat 128 ((List.range 4).foldl (fun acc i => if s.getLsbD i then acc + (2 ^ 32 - 1) * 2 ^ (32 * i) else acc) 0)

/-- The lanes of a mask, ascending. -/
def lanesOf (m : Mask) : List Nat := (List.range 128).filter (fun t => m.getLsbD t)

/-- The mask of a list of lanes. -/
def maskOf (l : List Nat) : Mask := l.foldl (fun m t => m ||| (1#128 <<< t)) 0

/-- The lowest lane of a mask, 128 when it is empty. -/
def lowest (m : Mask) : Nat := ((List.range 128).find? (fun t => m.getLsbD t)).getD 128

/-- The number of 1 bits. -/
def popcount {n : Nat} (x : BitVec n) : Nat := ((List.range n).filter (fun i => x.getLsbD i)).length

end Sys2Proof.Machine
end

