-- ==== Sys2Proof/Machine/Num.lean ====
section
/-! DEFINITION. Number formats and exact arithmetic (R83 to R105): a value is a sign, a magnitude m · 2^e and a mark
that the exact magnitude lies strictly above it; one rounding turns it into a code. -/

namespace Sys2Proof.Machine

/-- A binary format: exponent and fraction widths, bias, and whether its top exponent holds infinities and NaNs. -/
structure Fmt where
  eb : Nat
  fb : Nat
  bias : Nat
  special : Bool := true
  deriving DecidableEq, Repr

def f64 : Fmt := ⟨11, 52, 1023, true⟩
def f32 : Fmt := ⟨8, 23, 127, true⟩
def bf16 : Fmt := ⟨8, 7, 127, true⟩
def f16 : Fmt := ⟨5, 10, 15, true⟩
/-- The accumulator format (R102). -/
def a96 : Fmt := ⟨15, 80, 16383, true⟩
def e4m3f : Fmt := ⟨4, 3, 7, false⟩
def e5m2f : Fmt := ⟨5, 2, 15, false⟩
def e3m2f : Fmt := ⟨3, 2, 3, false⟩
def e2m3f : Fmt := ⟨2, 3, 1, false⟩
def e2m1f : Fmt := ⟨2, 1, 1, false⟩

def Fmt.width (f : Fmt) : Nat := 1 + f.eb + f.fb
/-- The exponent of the unit in the last place of the subnormals. -/
def Fmt.low (f : Fmt) : Int := 1 - (f.bias : Int) - (f.fb : Int)
/-- The largest exponent of a finite number. -/
def Fmt.top (f : Fmt) : Int := (2 ^ f.eb : Int) - (if f.special then 2 else 1) - (f.bias : Int)

/-- A read operand. A NaN keeps its sign and its fraction, as a number of the source format. -/
inductive FV where
  | nan (neg quiet : Bool) (frac fb : Nat)
  | inf (neg : Bool)
  | fin (neg : Bool) (m : Nat) (e : Int)
  deriving DecidableEq, Repr

/-- The value of a code (R83, R92, R102). -/
def Fmt.read (f : Fmt) (x : Nat) : FV :=
  let neg := x / 2 ^ (f.eb + f.fb) % 2 == 1
  let ex := x / 2 ^ f.fb % 2 ^ f.eb
  let fr := x % 2 ^ f.fb
  if f.special && ex == 2 ^ f.eb - 1 then
    if fr == 0 then .inf neg else .nan neg (decide (2 ^ (f.fb - 1) ≤ fr)) fr f.fb
  else if ex == 0 then .fin neg fr f.low
  else .fin neg (2 ^ f.fb + fr) ((ex : Int) - 1 + f.low)

def Fmt.signBit (f : Fmt) (neg : Bool) : Nat := if neg then 2 ^ (f.eb + f.fb) else 0
def Fmt.infinity (f : Fmt) (neg : Bool) : Nat := f.signBit neg + (2 ^ f.eb - 1) * 2 ^ f.fb
/-- The largest finite code. -/
def Fmt.largest (f : Fmt) (neg : Bool) : Nat :=
  f.signBit neg + (2 ^ (f.eb + f.fb) - 1) - (if f.special then 2 ^ f.fb else 0)
/-- The default NaN (R83, R102). -/
def Fmt.defaultNan (f : Fmt) : Nat := f.infinity false + 2 ^ (f.fb - 1)
/-- A NaN operand made quiet and converted to a format: the payload's high bits are kept (R84). -/
def Fmt.nanOf (f : Fmt) (neg : Bool) (frac fb : Nat) : Nat :=
  let fr := if fb ≤ f.fb then frac * 2 ^ (f.fb - fb) else frac / 2 ^ (fb - f.fb)
  let q := 2 ^ (f.fb - 1)
  f.signBit neg + (2 ^ f.eb - 1) * 2 ^ f.fb + (if fr / q % 2 == 1 then fr else fr + q)

/-- The code of the exact finite magnitude m · 2^e, which the format holds. -/
def Fmt.code (f : Fmt) (neg : Bool) (m : Nat) (e : Int) : Nat :=
  if m == 0 then f.signBit neg
  else
    let len := m.log2 + 1
    let top := e + (len : Int) - 1
    if top < f.low + (f.fb : Int) then
      let d := e - f.low
      f.signBit neg + (if 0 ≤ d then m * 2 ^ d.toNat else m / 2 ^ (-d).toNat)
    else
      let sig := if len ≤ f.fb + 1 then m * 2 ^ (f.fb + 1 - len) else m / 2 ^ (len - (f.fb + 1))
      f.signBit neg + (top - (f.low + (f.fb : Int)) + 1).toNat * 2 ^ f.fb + (sig - 2 ^ f.fb)

/-- The flags of FPMODE by their bits (R86). -/
abbrev Flags := BitVec 8
def fNx : Flags := 0x02#8
def fUf : Flags := 0x04#8
def fOf : Flags := 0x08#8
def fDz : Flags := 0x10#8
def fNv : Flags := 0x20#8
def fSat : Flags := 0x40#8
def fNanz : Flags := 0x80#8

/-- A rounding: the mode's code (R56) and the draw that `.rs` uses (R90). -/
structure Rnd where
  mode : Nat
  draw : Nat := 0
  deriving DecidableEq, Repr

def rne : Rnd := ⟨0, 0⟩

/-- |v| = m · 2^e, or strictly above it by less than 2^e when `more`, rounded to a multiple of 2^u in a mode: the
multiple, and whether it differs from |v| (R88, R91). -/
def roundAt (r : Rnd) (neg : Bool) (m : Nat) (e : Int) (more : Bool) (u : Int) : Nat × Bool :=
  let d := u - e
  if d ≤ 0 then (m * 2 ^ (-d).toNat, more)
  else
    let k := d.toNat
    let q := m / 2 ^ k
    let rem := m % 2 ^ k
    let inexact := rem != 0 || more
    let up :=
      match r.mode with
      | 0 => decide (2 ^ k < 2 * rem) || (2 * rem == 2 ^ k && (more || q % 2 == 1))
      | 1 => false
      | 2 => inexact && !neg
      | 3 => inexact && neg
      | _ =>
        let dd := if 32 ≤ k then rem / 2 ^ (k - 32) else rem * 2 ^ (32 - k)
        decide (2 ^ 32 ≤ dd + r.draw)
    (if up then q + 1 else q, inexact)

/-- The exponent of the last place of a magnitude at the format's full precision. -/
def Fmt.fullUlp (f : Fmt) (m : Nat) (e : Int) : Int := e + (m.log2 : Int) - (f.fb : Int)

/-- Is the magnitude, rounded with an unbounded exponent, below the smallest normal (R91)? -/
def Fmt.tiny (f : Fmt) (r : Rnd) (neg : Bool) (m : Nat) (e : Int) (more : Bool) : Bool :=
  let u := f.fullUlp m e
  let q := (roundAt r neg m e more u).1
  decide (u + (q.log2 : Int) < f.low + (f.fb : Int))

/-- One rounding into a wide format, with its flags (R88, R91) and the flush of FPMODE.ftz (R85). -/
def Fmt.round (f : Fmt) (r : Rnd) (ftz : Bool) (neg : Bool) (m : Nat) (e : Int) (more : Bool) : Nat × Flags :=
  if m == 0 && !more then (f.signBit neg, 0)
  else
    let u := max (f.fullUlp m e) f.low
    let (q, inexact) := roundAt r neg m e more u
    let tiny := inexact && f.tiny r neg m e more
    if q != 0 && decide (f.top < u + (q.log2 : Int)) then
      let toInf := match r.mode with
        | 1 => false
        | 2 => !neg
        | 3 => neg
        | _ => true
      (if toInf then f.infinity neg else f.largest neg, fOf ||| fNx)
    else if ftz && q != 0 && decide (u + (q.log2 : Int) < f.low + (f.fb : Int)) then
      (f.signBit neg, fUf ||| fNx)
    else (f.code neg q u, (if inexact then fNx else 0) ||| (if tiny then fUf else 0))

/-- An operand as FPMODE.ftz lets it be read (R85). -/
def Fmt.readZ (f : Fmt) (ftz : Bool) (x : Nat) : FV :=
  match f.read x with
  | .fin neg m e => if ftz && decide (m < 2 ^ f.fb) then .fin neg 0 e else .fin neg m e
  | v => v

/-- The code of an operand as FPMODE.ftz lets it be read (R85). -/
def Fmt.flushIn (f : Fmt) (ftz : Bool) (x : Nat) : Nat :=
  match f.read x with
  | .fin neg m _ => if ftz && decide (m < 2 ^ f.fb) then f.signBit neg else x
  | _ => x

/-- The result a NaN operand forces: the first of them, with nv for any signalling one (R84). -/
def nanResult (f : Fmt) (ops : List FV) : Option (Nat × Flags) :=
  let nans := ops.filterMap (fun v => match v with
    | .nan neg quiet frac fb => some (neg, quiet, frac, fb)
    | _ => none)
  match nans with
  | [] => none
  | (neg, _, frac, fb) :: _ => some (f.nanOf neg frac fb, if nans.any (fun x => !x.2.1) then fNv else 0)

/-- The exact sum of two signed magnitudes: sign, magnitude, exponent. The sign of a zero sum is not decided here. -/
def exactSum (n1 : Bool) (m1 : Nat) (e1 : Int) (n2 : Bool) (m2 : Nat) (e2 : Int) : Bool × Nat × Int :=
  let e := min e1 e2
  let a : Int := (if n1 then -1 else 1) * ((m1 * 2 ^ (e1 - e).toNat : Nat) : Int)
  let b : Int := (if n2 then -1 else 1) * ((m2 * 2 ^ (e2 - e).toNat : Nat) : Int)
  let t := a + b
  (decide (t < 0), t.natAbs, e)

/-- The sign of a sum: an exact zero of unlike signs is +0, or −0 toward −∞ (R88). -/
def sumSign (r : Rnd) (n1 n2 neg : Bool) (m : Nat) : Bool :=
  if m == 0 then (if n1 == n2 then n1 else r.mode == 3) else neg

/-- A + B, rounded once (R121, R140). -/
def Fmt.add (f : Fmt) (r : Rnd) (ftz : Bool) (a b : Nat) : Nat × Flags :=
  let va := f.readZ ftz a
  let vb := f.readZ ftz b
  match nanResult f [va, vb] with
  | some x => x
  | none =>
    match va, vb with
    | .inf n1, .inf n2 => if n1 == n2 then (f.infinity n1, 0) else (f.defaultNan, fNv)
    | .inf n1, _ => (f.infinity n1, 0)
    | _, .inf n2 => (f.infinity n2, 0)
    | .fin n1 m1 e1, .fin n2 m2 e2 =>
      let (neg, m, e) := exactSum n1 m1 e1 n2 m2 e2
      f.round r ftz (sumSign r n1 n2 neg m) m e false
    | _, _ => (f.defaultNan, 0)

/-- A code with its sign inverted. -/
def Fmt.negate (f : Fmt) (x : Nat) : Nat :=
  let s := 2 ^ (f.eb + f.fb)
  if x / s % 2 == 1 then x - s else x + s

/-- A − B: a NaN B keeps its own sign (R84). -/
def Fmt.sub (f : Fmt) (r : Rnd) (ftz : Bool) (a b : Nat) : Nat × Flags :=
  match f.read b with
  | .nan .. => f.add r ftz a b
  | _ => f.add r ftz a (f.negate b)

/-- A × B, rounded once. -/
def Fmt.mul (f : Fmt) (r : Rnd) (ftz : Bool) (a b : Nat) : Nat × Flags :=
  let va := f.readZ ftz a
  let vb := f.readZ ftz b
  match nanResult f [va, vb] with
  | some x => x
  | none =>
    match va, vb with
    | .inf n1, .inf n2 => (f.infinity (n1 != n2), 0)
    | .inf n1, .fin n2 m _ => if m == 0 then (f.defaultNan, fNv) else (f.infinity (n1 != n2), 0)
    | .fin n1 m _, .inf n2 => if m == 0 then (f.defaultNan, fNv) else (f.infinity (n1 != n2), 0)
    | .fin n1 m1 e1, .fin n2 m2 e2 => f.round r ftz (n1 != n2) (m1 * m2) (e1 + e2) false
    | _, _ => (f.defaultNan, 0)

/-- A × B + C with one rounding of the exact value. Zero times infinity with a quiet NaN as C gives that NaN and sets no nv, which
IEEE 754 leaves open. DESIGN CHOICE: log 132. -/
def Fmt.fma (f : Fmt) (r : Rnd) (ftz : Bool) (a b c : Nat) : Nat × Flags :=
  let va := f.readZ ftz a
  let vb := f.readZ ftz b
  let vc := f.readZ ftz c
  match nanResult f [va, vb, vc] with
  | some x => x
  | none =>
    let prod : FV := match va, vb with
      | .inf n1, .inf n2 => .inf (n1 != n2)
      | .inf n1, .fin n2 m _ => if m == 0 then .nan false true 0 1 else .inf (n1 != n2)
      | .fin n1 m _, .inf n2 => if m == 0 then .nan false true 0 1 else .inf (n1 != n2)
      | .fin n1 m1 e1, .fin n2 m2 e2 => .fin (n1 != n2) (m1 * m2) (e1 + e2)
      | _, _ => .nan false true 0 1
    match prod, vc with
    | .nan .., _ => (f.defaultNan, fNv)
    | .inf n1, .inf n2 => if n1 == n2 then (f.infinity n1, 0) else (f.defaultNan, fNv)
    | .inf n1, _ => (f.infinity n1, 0)
    | _, .inf n2 => (f.infinity n2, 0)
    | .fin n1 m1 e1, .fin n2 m2 e2 =>
      let (neg, m, e) := exactSum n1 m1 e1 n2 m2 e2
      f.round r ftz (sumSign r n1 n2 neg m) m e false
    | _, _ => (f.defaultNan, 0)

/-- The quotient m1 / m2 with at least `bits` bits, and whether more is left. -/
def quotient (m1 m2 bits : Nat) : Nat × Int × Bool :=
  let k := bits + m2.log2 + 1
  let n := m1 * 2 ^ k
  (n / m2, -(k : Int), n % m2 != 0)

/-- A / B (R140). -/
def Fmt.div (f : Fmt) (r : Rnd) (ftz : Bool) (a b : Nat) : Nat × Flags :=
  let va := f.readZ ftz a
  let vb := f.readZ ftz b
  match nanResult f [va, vb] with
  | some x => x
  | none =>
    match va, vb with
    | .inf _, .inf _ => (f.defaultNan, fNv)
    | .inf n1, .fin n2 _ _ => (f.infinity (n1 != n2), 0)
    | .fin n1 _ _, .inf n2 => (f.signBit (n1 != n2), 0)
    | .fin n1 m1 e1, .fin n2 m2 e2 =>
      if m2 == 0 then (if m1 == 0 then (f.defaultNan, fNv) else (f.infinity (n1 != n2), fDz))
      else
        let (q, k, more) := quotient m1 m2 (f.fb + 80)
        f.round r ftz (n1 != n2) q (e1 - e2 + k) more
    | _, _ => (f.defaultNan, 0)

/-- The integer square root, by one bit of the root a turn. -/
def isqrtGo : Nat → Nat → Nat → Nat
  | 0, _, root => root
  | k + 1, n, root =>
    let t := root + 2 ^ k
    isqrtGo k n (if t * t ≤ n then t else root)

def isqrt (n : Nat) : Nat := isqrtGo (n.log2 / 2 + 1) n 0

/-- √A (R140, R141). -/
def Fmt.sqrt (f : Fmt) (r : Rnd) (ftz : Bool) (a : Nat) : Nat × Flags :=
  let va := f.readZ ftz a
  match nanResult f [va] with
  | some x => x
  | none =>
    match va with
    | .inf neg => if neg then (f.defaultNan, fNv) else (f.infinity false, 0)
    | .fin neg m e =>
      if m == 0 then (f.signBit neg, 0)
      else if neg then (f.defaultNan, fNv)
      else
        let odd := e % 2 != 0
        let m1 := if odd then 2 * m else m
        let e1 := if odd then e - 1 else e
        let k := f.fb + 80
        let n := m1 * 2 ^ (2 * k)
        let q := isqrt n
        f.round r ftz false q (e1 / 2 - (k : Int)) (q * q != n)
    | _ => (f.defaultNan, 0)

/-- 1 / √A (R140, R141). -/
def Fmt.rsqrt (f : Fmt) (r : Rnd) (ftz : Bool) (a : Nat) : Nat × Flags :=
  let va := f.readZ ftz a
  match nanResult f [va] with
  | some x => x
  | none =>
    match va with
    | .inf neg => if neg then (f.defaultNan, fNv) else (f.signBit false, 0)
    | .fin neg m e =>
      if m == 0 then (f.infinity neg, fDz)
      else if neg then (f.defaultNan, fNv)
      else
        let odd := e % 2 != 0
        let m1 := if odd then 2 * m else m
        let e1 := if odd then e - 1 else e
        let k := f.fb + 80 + m1.log2
        let q := isqrt (2 ^ (2 * k) / m1)
        f.round r ftz false q (-(e1 / 2) - (k : Int)) (q * q * m1 != 2 ^ (2 * k))
    | _ => (f.defaultNan, 0)

/-- 1 / A (R140, R141). -/
def Fmt.recip (f : Fmt) (r : Rnd) (ftz : Bool) (a : Nat) : Nat × Flags :=
  f.div r ftz (f.code false 1 0) a

/-- A rounded to an integral value: nx is never set (R140). -/
def Fmt.integral (f : Fmt) (r : Rnd) (ftz : Bool) (a : Nat) : Nat × Flags :=
  let va := f.readZ ftz a
  match nanResult f [va] with
  | some x => x
  | none =>
    match va with
    | .fin neg m e =>
      let q := (roundAt r neg m e false 0).1
      (f.round rne false neg q 0 false).1 |> fun c => (c, 0)
    | .inf neg => (f.infinity neg, 0)
    | _ => (f.defaultNan, 0)

/-- Is one non-NaN value below another, −0 and +0 equal? -/
def FV.lt : FV → FV → Bool
  | .inf n1, .inf n2 => n1 && !n2
  | .inf n1, .fin .. => n1
  | .fin .., .inf n2 => !n2
  | .fin n1 m1 e1, .fin n2 m2 e2 => (exactSum n1 m1 e1 (!n2) m2 e2).1
  | _, _ => false

def FV.same : FV → FV → Bool
  | .inf n1, .inf n2 => n1 == n2
  | .fin n1 m1 e1, .fin n2 m2 e2 => (exactSum n1 m1 e1 (!n2) m2 e2).2.1 == 0
  | _, _ => false

def FV.isNan : FV → Bool
  | .nan .. => true
  | _ => false

def FV.isSnan : FV → Bool
  | .nan _ q _ _ => !q
  | _ => false

/-- A comparison and its nv (R122). -/
def Fmt.compare (f : Fmt) (ftz : Bool) (cond a b : Nat) : Bool × Flags :=
  let va := f.readZ ftz a
  let vb := f.readZ ftz b
  let un := va.isNan || vb.isNan
  let sn := va.isSnan || vb.isSnan
  let ordered := decide (2 ≤ cond) && decide (cond ≤ 5)
  let res :=
    match cond with
    | 0 => !un && va.same vb
    | 1 => un || !va.same vb
    | 2 => !un && va.lt vb
    | 3 => !un && (va.lt vb || va.same vb)
    | 4 => !un && vb.lt va
    | 5 => !un && (vb.lt va || va.same vb)
    | 6 => un
    | _ => !un
  (res, if (ordered && un) || sn then fNv else 0)

/-- FMIN and FMAX (R142): −0 below +0, one NaN gives the other operand. -/
def Fmt.minmax (f : Fmt) (ftz isMax : Bool) (a b : Nat) : Nat × Flags :=
  let va := f.readZ ftz a
  let vb := f.readZ ftz b
  let code (x : Nat) (v : FV) : Nat := match v with
    | .fin neg m _ => if m == 0 then f.signBit neg else x
    | _ => x
  let nv : Flags := if va.isSnan || vb.isSnan then fNv else 0
  if va.isNan && vb.isNan then ((nanResult f [va, vb]).getD (0, 0) |>.1, nv)
  else if va.isNan then (code b vb, nv)
  else if vb.isNan then (code a va, nv)
  else
    let aneg := decide (2 ^ (f.eb + f.fb) ≤ a)
    let aLess := va.lt vb || (va.same vb && aneg)
    (if aLess != isMax then code a va else code b vb, 0)

/-! ### Conversions (R97, R123) -/

/-- A float to another wide float format (R123). DEDUCED: log 9. -/
def Fmt.convert (src dst : Fmt) (r : Rnd) (ftz : Bool) (x : Nat) : Nat × Flags :=
  let v := src.readZ ftz x
  match nanResult dst [v] with
  | some y => y
  | none =>
    match v with
    | .inf neg => (dst.infinity neg, 0)
    | .fin neg m e => dst.round r ftz neg m e false
    | _ => (dst.defaultNan, 0)

/-- An exact integer to a float (R123). -/
def Fmt.ofInt (f : Fmt) (r : Rnd) (ftz : Bool) (x : Int) : Nat × Flags :=
  f.round r ftz (decide (x < 0)) x.natAbs 0 false

/-- A float to an integer of n bits, signed or not (R123): the result as an integer. -/
def Fmt.toInt (f : Fmt) (r : Rnd) (ftz : Bool) (signed : Bool) (n : Nat) (x : Nat) : Int × Flags :=
  let lo : Int := if signed then -(2 ^ (n - 1)) else 0
  let hi : Int := if signed then 2 ^ (n - 1) - 1 else 2 ^ n - 1
  match f.readZ ftz x with
  | .nan .. => (0, fNv)
  | .inf neg => (if neg then lo else hi, fNv ||| fSat)
  | .fin neg m e =>
    let (q, inexact) := roundAt r neg m e false 0
    let v : Int := if neg then -(q : Int) else q
    if v < lo then (lo, fNv ||| fSat)
    else if hi < v then (hi, fNv ||| fSat)
    else (v, if inexact then fNx else 0)

/-- The flags of a NaN that a conversion takes to a zero: `nanz`, and nv too for a signalling one (R84, R98). -/
def nanFlags (quiet : Bool) : Flags := if quiet then fNanz else fNanz ||| fNv

/-- An exact value into a narrow format (R97): the code and its flags; a NaN is +0 with `nanz`. DEDUCED: log 10. -/
def Fmt.narrow (f : Fmt) (r : Rnd) (v : FV) : Nat × Flags :=
  match v with
  | .nan _ quiet _ _ => (0, nanFlags quiet)
  | .inf neg => (f.largest neg, fSat)
  | .fin neg m e =>
    if m == 0 then (f.signBit neg, 0)
    else
      let u := max (f.fullUlp m e) f.low
      let (q, inexact) := roundAt r neg m e false u
      let big := q != 0 && (match f.read (f.largest false) with
        | .fin _ lm le => (exactSum false q u true lm le).1 == false && (exactSum false q u true lm le).2.1 != 0
        | _ => false)
      if big then (f.largest neg, fSat)
      else
        let tiny := inexact && f.tiny r neg m e false
        let small := decide (e + (m.log2 : Int) < f.low)
        let res := f.code neg q u
        let sub := decide (res % 2 ^ (f.eb + f.fb) < 2 ^ f.fb)
        (res, (if inexact then fNx else 0) ||| (if tiny || (small && inexact && sub) then fUf else 0))

/-- An exact value into INT8 (R97): the code as 8 bits. -/
def toInt8 (r : Rnd) (v : FV) : Nat × Flags :=
  match v with
  | .nan _ quiet _ _ => (0, nanFlags quiet)
  | .inf neg => (if neg then 0x80 else 0x7F, fSat)
  | .fin neg m e =>
    let (q, inexact) := roundAt r neg m e false 0
    let x : Int := if neg then -(q : Int) else q
    if x < -128 then (0x80, fSat)
    else if 127 < x then (0x7F, fSat)
    else ((x % 256).toNat, if inexact then fNx else 0)

/-- The narrow format of a code of R146; none for INT8 and bit-plane. -/
def narrowFmt (c : Nat) : Option Fmt :=
  match c with
  | 0 => some e4m3f
  | 1 => some e5m2f
  | 2 => some e3m2f
  | 3 => some e2m3f
  | 4 => some e2m1f
  | _ => none

/-- The value of an INT8 code (R95). -/
def int8Value (x : Nat) : FV :=
  let b := x % 256
  if 128 ≤ b then .fin true (256 - b) 0 else .fin false b 0

/-- The value of a narrow or INT8 element by its code of R146. -/
def narrowValue (c x : Nat) : FV :=
  match narrowFmt c with
  | some f => f.read (x % 2 ^ f.width)
  | none => int8Value x

/-- A value scaled by a power of two. -/
def FV.scale (v : FV) (k : Int) : FV :=
  match v with
  | .fin neg m e => .fin neg m (e + k)
  | w => w

/-- An exact conversion into a wide format: of a finite value that it holds, or of a NaN or infinity. -/
def Fmt.exact (f : Fmt) (v : FV) : Nat :=
  match v with
  | .nan neg _ frac fb => f.nanOf neg frac fb
  | .inf neg => f.infinity neg
  | .fin neg m e => (f.round rne false neg m e false).1

/-- Does R97 convert into INT8 (code 5 of R146) or a narrow format? -/
def convertNarrow (c : Nat) (r : Rnd) (v : FV) : Nat × Flags :=
  match narrowFmt c with
  | some f => f.narrow r v
  | none => toInt8 r v

/-- A signed exact number as a value. -/
def FV.ofInt (x : Int) (e : Int) : FV := .fin (decide (x < 0)) x.natAbs e

end Sys2Proof.Machine
end

