-- ==== Sys2Proof/Machine/Transc.lean ====
section
/-! DEFINITION. The transcendental forms (R140, R141): fixed-point interval arithmetic at a working precision that
doubles until both ends of the interval round alike. No argument but the listed exact ones has a dyadic result, so the
exact value lies strictly inside. Where the largest precision does not decide, the result is a free value. -/

namespace Sys2Proof.Machine

/-- Fixed-point product at w fraction bits, rounded down. -/
def fxMul (w : Nat) (a b : Int) : Int := a * b / (2 ^ w : Int)

/-- Σ x^(2k+1)/(2k+1), at w bits: the area tangent of x, |x| ≤ 1/3. -/
def atanhSeries (w : Nat) (x2 : Int) : Nat → Int → Nat → Int → Int
  | 0, _, _, acc => acc
  | k + 1, p, n, acc => atanhSeries w x2 k (fxMul w p x2) (n + 2) (acc + p / (n : Int))

/-- ln 2 at w bits: 2 atanh(1/3). -/
def fxLn2 (w : Nat) : Int :=
  let x : Int := (2 ^ w : Int) / 3
  2 * atanhSeries w (fxMul w x x) w x 1 0

/-- Σ (−1)^k x^(2k+1)/(2k+1) at w bits: the arc tangent of 1/n. -/
def atanInv (w : Nat) (n2 : Int) : Nat → Int → Nat → Int → Int
  | 0, _, _, acc => acc
  | k + 1, p, n, acc => atanInv w n2 k (-(p / n2)) (n + 2) (acc + p / (n : Int))

/-- π at w bits: 16 atan(1/5) − 4 atan(1/239). -/
def fxPi (w : Nat) : Int :=
  16 * atanInv w 25 w ((2 ^ w : Int) / 5) 1 0 - 4 * atanInv w 57121 w ((2 ^ w : Int) / 239) 1 0

/-- Σ x^n/n! at w bits. -/
def expSeries (w : Nat) (x : Int) : Nat → Int → Nat → Int → Int
  | 0, _, _, acc => acc
  | k + 1, t, n, acc => expSeries w x k (fxMul w t x / (n : Int)) (n + 1) (acc + t)

/-- Σ (−1)^k x^(2k+i)/(2k+i)! at w bits, from the term t of index n. -/
def trigSeries (w : Nat) (x2 : Int) : Nat → Int → Nat → Int → Int
  | 0, _, _, acc => acc
  | k + 1, t, n, acc => trigSeries w x2 k (-(fxMul w t x2 / (((n + 1) * (n + 2) : Nat) : Int))) (n + 2) (acc + t)

/-- m · 2^e at w bits, rounded down. -/
def fxOf (w : Nat) (neg : Bool) (m : Nat) (e : Int) : Int :=
  let k := e + (w : Int)
  let v : Int := if 0 ≤ k then ((m * 2 ^ k.toNat : Nat) : Int) else ((m / 2 ^ (-k).toNat : Nat) : Int)
  if neg then -v else v

/-- The error bound of every series here, in units of 2^−w: fewer than 2^24 roundings, each below 2. -/
def fxSlack : Int := 2 ^ 26

/-- Round an interval lo < |v| < hi of units 2^e; none when the ends round apart. -/
def Fmt.roundOpen (f : Fmt) (r : Rnd) (ftz neg : Bool) (lo hi : Int) (e : Int) : Option (Nat × Flags) :=
  if lo < 1 then none
  else
    let a := f.round r ftz neg lo.toNat e true
    let b := f.round r ftz neg (hi - 1).toNat e true
    if a == b then some a else none

/-- Try a computation at growing precisions. DESIGN CHOICE: log 20. -/
def refine (go : Nat → Option (Nat × Flags)) : Nat → Nat → Option (Nat × Flags)
  | 0, _ => none
  | k + 1, w =>
    match go w with
    | some x => some x
    | none => refine go k (2 * w)

/-- The free result where no precision decides. -/
def undecidedCode (form : Nat) (f : Fmt) (r : Rnd) (a : Nat) : Nat × Flags :=
  (((Config.undecided form f.width (r.mode * 2 ^ 32 + r.draw) a).toNat) % 2 ^ f.width, fNx)

/-- 2^A (R140, R141). -/
def Fmt.exp2 (f : Fmt) (r : Rnd) (ftz : Bool) (a : Nat) : Nat × Flags :=
  let va := f.readZ ftz a
  match nanResult f [va] with
  | some x => x
  | none =>
    match va with
    | .inf neg => (if neg then f.signBit false else f.infinity false, 0)
    | .fin neg m e =>
      let len := e + (m.log2 : Int)
      if m == 0 then (f.code false 1 0, 0)
      else if 12 ≤ len then
        -- |A| ≥ 4096: beyond every format's range
        if neg then f.round r ftz false 1 (-100000) true else f.round r ftz false 1 100000 true
      else
        -- integral part n and fraction t of A
        let k := (-e).toNat
        let num : Int := (if neg then -1 else 1) * ((m * 2 ^ e.toNat : Nat) : Int)
        let n := num / (2 ^ k : Int)
        let t := num % (2 ^ k : Int)
        if t == 0 then f.round r ftz false 1 n false
        else
          let go (w : Nat) : Option (Nat × Flags) :=
            let x := fxMul w (t * 2 ^ w / (2 ^ k : Int)) (fxLn2 w)
            let y := expSeries w x w (2 ^ w) 1 0
            f.roundOpen r ftz false (max (y - fxSlack) (2 ^ w)) (y + fxSlack) (n - (w : Int))
          match refine go 5 (f.fb + 160) with
          | some x => x
          | none => undecidedCode 0 f r a
    | _ => (f.defaultNan, 0)

/-- log2 A (R140, R141). -/
def Fmt.log2 (f : Fmt) (r : Rnd) (ftz : Bool) (a : Nat) : Nat × Flags :=
  let va := f.readZ ftz a
  match nanResult f [va] with
  | some x => x
  | none =>
    match va with
    | .inf neg => if neg then (f.defaultNan, fNv) else (f.infinity false, 0)
    | .fin neg m e =>
      if m == 0 then (f.infinity true, fDz)
      else if neg then (f.defaultNan, fNv)
      else
        let n := e + (m.log2 : Int)
        let p := 2 ^ m.log2
        if m == p then f.ofInt r ftz n
        else
          let go (w : Nat) : Option (Nat × Flags) :=
            -- m / p in (1, 2): ln = 2 atanh((m − p)/(m + p))
            let x : Int := (((m - p) * 2 ^ w / (m + p) : Nat) : Int)
            let ln := 2 * atanhSeries w (fxMul w x x) w x 1 0
            let y := n * 2 ^ w + ln * 2 ^ w / fxLn2 w
            if y - fxSlack ≤ 0 ∧ 0 ≤ y + fxSlack then none
            else if 0 < y then f.roundOpen r ftz false (y - fxSlack) (y + fxSlack) (-(w : Int))
            else f.roundOpen r ftz true (-y - fxSlack) (-y + fxSlack) (-(w : Int))
          match refine go 5 (f.fb + 160) with
          | some x => x
          | none => undecidedCode 1 f r a
    | _ => (f.defaultNan, 0)

/-- sin A, or cos A (R140, R141). -/
def Fmt.sinCos (f : Fmt) (isCos : Bool) (r : Rnd) (ftz : Bool) (a : Nat) : Nat × Flags :=
  let va := f.readZ ftz a
  match nanResult f [va] with
  | some x => x
  | none =>
    match va with
    | .inf _ => (f.defaultNan, fNv)
    | .fin neg m e =>
      if m == 0 then (if isCos then (f.code false 1 0, 0) else (f.signBit neg, 0))
      else
        let len := e + (m.log2 : Int)
        -- guard bits for a large argument's reduction and for a small argument's relative size
        let big := len.toNat
        let small := (-len).toNat
        let go (w0 : Nat) : Option (Nat × Flags) :=
          let w := w0 + 3 * small
          let half := fxPi (w + 2 * big) -- π at finer units, for the quotient
          let x := fxOf (w + 2 * big) neg m e
          let k := (2 * x + half / 2) / half
          let red := (2 * x - k * half) / 2 / (2 ^ (2 * big) : Int)
          let q := ((k % 4 + (if isCos then 1 else 0)) % 4).toNat
          let x2 := fxMul w red red
          let y := if q % 2 == 0 then trigSeries w x2 w red 1 0 else trigSeries w x2 w (2 ^ w) 0 0
          let y := if 2 ≤ q then -y else y
          let one : Int := 2 ^ w
          if y - fxSlack ≤ 0 ∧ 0 ≤ y + fxSlack then none
          else if 0 < y then f.roundOpen r ftz false (y - fxSlack) (min (y + fxSlack) one) (-(w : Int))
          else f.roundOpen r ftz true (-y - fxSlack) (min (-y + fxSlack) one) (-(w : Int))
        match refine go 5 (f.fb + 200) with
        | some x => x
        | none => undecidedCode (if isCos then 3 else 2) f r a
    | _ => (f.defaultNan, 0)

end Sys2Proof.Machine
end

