-- ==== Sys2Proof/Machine/Frontier.lean ====
section
/-! DEFINITION. The frontier of a warp (R158 to R172): rank, merging, mask writes, branching, selection, ageing. -/

namespace Sys2Proof.Machine

/-! ### Rank and merging (R159, R162) -/

/-- Does a split rank before another (R159)? -/
def Split.before (a b : Split) : Bool :=
  if a.prio ≠ b.prio then decide (b.prio.toNat < a.prio.toNat)
  else if a.pc ≠ b.pc then decide (a.pc.toNat < b.pc.toNat)
  else decide (b.depth.toNat < a.depth.toNat)

/-- Insert a split in rank order. -/
def rankInsert (x : Split) : List Split → List Split
  | [] => [x]
  | y :: r => if y.before x then y :: rankInsert x r else x :: y :: r

/-- The splits in rank order (R160). -/
def rankSort : List Split → List Split
  | [] => []
  | x :: r => rankInsert x (rankSort r)

/-- Do two splits stand at one pc and depth, neither held apart from the other (R162, R198)? -/
def Split.meets (a b : Split) : Bool := a.pc == b.pc && a.depth == b.depth && a.held == b.held

def Wait.isBarrier : Wait → Bool
  | .join _ => true
  | .bar _ _ => true
  | _ => false

/-- The split that two become (R162): a JOIN or BAR wait lasts, every other wait ends; no forced turn is left. -/
def Split.merge (a b : Split) : Split :=
  { pc := a.pc
    prio := if a.prio.toNat < b.prio.toNat then b.prio else a.prio
    depth := a.depth
    mask := a.mask ||| b.mask
    wait := if a.wait.isBarrier then a.wait else if b.wait.isBarrier then b.wait else .ready
    held := a.held
    stop := a.stop || b.stop }

/-- Put a split into a list, merging it with one it meets. -/
def mergeInto (x : Split) : List Split → List Split
  | [] => [x]
  | y :: r => if y.meets x then y.merge x :: r else y :: mergeInto x r

/-- Merge every two splits that meet. -/
def mergeAll (l : List Split) : List Split := l.foldl (fun acc x => mergeInto x acc) []

/-- The frontier after a change: empty splits removed, equal ones merged, sorted (R160, R162, R165). -/
def tidy (l : List Split) : List Split := rankSort (mergeAll (l.filter (fun x => x.mask ≠ 0)))

/-- Split i moved or changed. -/
def setSplit (l : List Split) (i : Nat) (f : Split → Split) : List Split := l.modify i f

/-- The mask of entry j, 0 for a free one (R160). -/
def entryMask (l : List Split) (j : Nat) : Mask := ((l[j]?).map Split.mask).getD 0

/-- The lanes that some split of a list holds. -/
def unionMask (l : List Split) : Mask := l.foldl (fun m x => m ||| x.mask) 0

/-- k register n, as the split with mask k0 reads it (R126). -/
def Warp.k (w : Warp) (k0 : Mask) (n : Nat) : Mask :=
  if n = 0 then k0 else if n < 8 then SMap.look 0 w.kr n else entryMask w.frontier (n - 8)

/-! ### Waits that end (R162, R167, R180) -/

/-- Does the wait of a split at a JOIN end: does its mask hold every lane of kN that is in some split (R180)? -/
def joinPasses (w : Warp) (x : Split) (n : Nat) : Bool :=
  let need := w.k x.mask n &&& w.live &&& unionMask w.frontier
  need &&& ~~~ x.mask == 0

/-- A split as it stands once its wait has ended. -/
def Split.wake (w : Warp) (x : Split) : Split :=
  if x.held then x
  else
    match x.wait with
    | .join n => if joinPasses w x n then { x with wait := .ready, pc := x.pc + 1 } else x
    | .entry => if w.frontier.length < 8 then { x with wait := .ready } else x
    | _ => x

/-- Test every waiting split until nothing changes; each round ends a wait or is the last. -/
def settleGo : Nat → Warp → Warp
  | 0, w => w
  | k + 1, w =>
    let l := w.frontier.map (fun x => x.wake w)
    if l = w.frontier then w else settleGo k { w with frontier := tidy l }

/-- Has a frontier change come about (R171): is a split created, removed or merged, does one begin to wait, or has its mask or prio
changed? Splits are told by their masks. -/
def frontierChanged (old new : List Split) : Bool :=
  new.any (fun y => !old.any (fun x => x.mask == y.mask && x.prio == y.prio && (x.wait != .ready || y.wait == .ready)))
    || old.any (fun x => !new.any (fun y => y.mask == x.mask))

/-- The warp after a change of its frontier or its k registers; `cur` goes on naming the split that it named. A merge returns the hang
detector's count to 0 (R171). -/
def Warp.settle (w : Warp) : Warp :=
  let x := settleGo 16 { w with frontier := tidy w.frontier }
  let x := { x with hang := if frontierChanged w.frontier x.frontier then 0 else w.hang }
  match w.frontier[w.cur]? with
  | none => x
  | some sp => { x with cur := (x.frontier.findIdx? (fun y => y.mask.getLsbD (lowest sp.mask))).getD w.cur }

/-! ### Writes of k8 to k15 (R165) -/

/-- One write of m to k(8 + j), by the split at index i. A split whose lanes have all exited takes the lanes that a write to a free
entry gives it, as `gone` (R165). -/
def kWrite (w : Warp) (i : Option Nat) (gone : Split) (j : Nat) (m : Mask) : Warp :=
  let m := m &&& w.live
  let m := if w.inh then m &&& unionMask (w.frontier.filter (fun x => !x.held)) else m
  let l := w.frontier
  let l2 :=
    match l[j]? with
    | some y =>
      if y.held then l
      else (l.map (fun x => { x with mask := x.mask &&& ~~~ m })).modify j (fun x => { x with mask := m })
    | none =>
      if m = 0 then l
      else
        let rest := l.map (fun x => { x with mask := x.mask &&& ~~~ m })
        match i with
        | some i => rest.modify i (fun x => { x with mask := x.mask ||| m })
        | none => rest ++ [{ gone with mask := m }]
  if unionMask l2 = 0 then w else { w with frontier := l2 }

/-! ### Branching (R167, R308) -/

/-- A target of a branching instruction with the lanes that go there. -/
structure Target where
  pc : BitVec 32
  prio : Byte
  depth : Byte
  mask : Mask
  deriving DecidableEq, Repr

/-- Add lanes to the group of an equal target; the group takes the highest prio (R167 step 1). -/
def addTarget (t : Target) : List Target → List Target
  | [] => [t]
  | u :: r =>
    if u.pc = t.pc ∧ u.depth = t.depth then
      { u with mask := u.mask ||| t.mask, prio := if u.prio.toNat < t.prio.toNat then t.prio else u.prio } :: r
    else u :: addTarget t r

/-- The groups of a list of targets; empty ones are left out. -/
def groupTargets (l : List Target) : List Target :=
  (l.filter (fun t => t.mask ≠ 0)).foldl (fun acc t => addTarget t acc) []

def Target.split (t : Target) : Split := { pc := t.pc, prio := t.prio, depth := t.depth, mask := t.mask }

def targetInsert (x : Target) : List Target → List Target
  | [] => [x]
  | y :: r => if y.split.before x.split then y :: targetInsert x r else x :: y :: r

def targetSort : List Target → List Target
  | [] => []
  | x :: r => targetInsert x (targetSort r)

/-- The frontier after split i sends its lanes to targets (R167). A split that moves whole keeps its age, yield and
forced turn (R169, R308). DEDUCED: log 5. -/
def branch (l : List Split) (i : Nat) (targets : List Target) : List Split :=
  match l[i]? with
  | none => l
  | some sp =>
    let others := l.eraseIdx i
    let groups := groupTargets targets
    let joins (t : Target) : Bool := others.any (fun x => x.pc == t.pc && x.depth == t.depth && x.held == sp.held)
    let joining := groups.filter joins
    let rest := targetSort (groups.filter (fun t => !joins t))
    let others := joining.foldl (fun acc t => mergeInto { t.split with held := sp.held } acc) others
    let n := rest.length
    let free := 8 - others.length
    if n ≤ free then
      match rest with
      | [] => others
      | [t] => if joining = [] then { sp with pc := t.pc, prio := t.prio, depth := t.depth, mask := t.mask } :: others
               else t.split :: others
      | _ => rest.map Target.split ++ others
    else
      let stay (ts : List Target) : Mask := ts.foldl (fun m t => m ||| t.mask) 0
      if 2 ≤ free then
        { sp with mask := stay (rest.drop (free - 1)), age := 0, yield := 0, turn := none }
          :: (rest.take (free - 1)).map Target.split ++ others
      else
        { sp with mask := stay rest, wait := .entry, age := 0, yield := 0, turn := none } :: others

/-! ### Selection and ageing (R163, R169, R170) -/

/-- May a split be selected? -/
def Split.canIssue (x : Split) : Bool := x.wait == .ready && !x.held && !x.stop

/-- The index of the first split that satisfies p: the highest-ranked. -/
def firstIdx (l : List Split) (p : Split → Bool) : Option Nat := l.findIdx? p

/-- The split that R163 selects at a chain head, once any forced turn that is due has begun. -/
def selectIdx (w : Warp) : Option Nat :=
  let turn := if w.fair then firstIdx w.frontier (fun x => x.canIssue && x.turn.isSome) else none
  match turn with
  | some i => some i
  | none =>
    match firstIdx w.frontier (fun x => x.canIssue && x.yield == 0) with
    | some i => some i
    | none => firstIdx w.frontier Split.canIssue

/-- The split to which a forced turn is due (R163, R169). -/
def forcedDue (w : Warp) : Option Nat :=
  if w.fair && !(w.frontier.any (fun x => x.canIssue && x.turn.isSome)) then
    firstIdx w.frontier (fun x => x.canIssue && decide (w.agelim ≤ x.age))
  else none

/-- A split whose SPINW wait ends, since another split of the warp issues (R183). -/
def Split.spun (x : Split) : Split :=
  match x.wait with
  | .spin _ _ => { x with wait := .ready }
  | _ => x

/-- R163's step for a split other than the one that issued: a ready one ages, or comes nearer to the end of its yield turn. -/
def Split.passed (w : Warp) (x : Split) : Split :=
  if x.canIssue then
    if x.yield = 0 then (if w.fair then { x with age := min (x.age + 1) w.agelim } else x)
    else { x with yield := x.yield - 1 }
  else x

/-- The step of R163 after a slot of split i, on the splits as they stood in it: SPINW waits end (R183), the others are passed over, the
issuing split's age and yield are cleared and its forced turn counts. -/
def afterSlot (w : Warp) (i : Nat) : List Split :=
  w.frontier.mapIdx (fun j x => if j = i then { x with age := 0, yield := 0, turn := x.turn.map (· + 1) } else x.spun.passed w)

/-- Has a split been passed over in a slot before which the frontier was `pre`? One that a merge has renewed has not (R162). -/
def passedIn (pre : List Split) (x : Split) : Bool :=
  pre.any (fun y => y.canIssue && (y.mask == x.mask || (y.mask &&& x.mask != 0 && (x.age != 0 || x.yield != 0))))

/-- R163's step for the splits that its slot has made ready, by a merge, the end of a wait or a return from a trap (R162, R180, R199).
`own` tells the splits that the issuing split has become or formed (R308). DEDUCED: log 123. -/
def lateAge (pre : List Split) (own : Nat → Split → Bool) (w : Warp) : Warp :=
  { w with frontier := w.frontier.mapIdx (fun j x => if own j x || passedIn pre x then x else x.passed w) }

/-- At a chain's end, a forced turn of 32 words ends (R169). DEDUCED: log 24. -/
def endTurns (l : List Split) : List Split :=
  l.map (fun x => match x.turn with
    | some n => if 32 ≤ n ∨ x.wait ≠ .ready then { x with turn := none } else x
    | none => x)

/-- The hang detector's count after a slot (R171, R310). -/
def hangAfter (old new : Warp) (reset : Bool) : Nat :=
  if new.fair then 0
  else if reset || frontierChanged old.frontier new.frontier then 0
  else if 2 ≤ new.frontier.length ∨ new.frontier.any (fun x => x.wait ≠ .ready) then old.hang + 1
  else old.hang

end Sys2Proof.Machine
end

