-- ==== Sys2Proof/Machine/Ops.lean ====
section
/-! DEFINITION. The named operations over the state: registers, latches, records, group faults, raising and delivering
a trap, returning from one, and how every instruction word issues: its checks in the order of R82, its waits, its
effect, and what follows it. -/

namespace Sys2Proof.Machine

/-! ### Parts of the state -/

def State.warp (s : State) (wp : Nat) : Warp := SMap.look {} s.warps wp
def State.setWarp (s : State) (wp : Nat) (w : Warp) : State := { s with warps := SMap.set wp w s.warps }
def State.group (s : State) (g : Nat) : Group := SMap.look {} s.groups g
def State.setGroup (s : State) (g : Nat) (x : Group) : State := { s with groups := SMap.set g x s.groups }
def State.core (s : State) (c : Nat) : Core := SMap.look {} s.cores c
def State.setCore (s : State) (c : Nat) (x : Core) : State := { s with cores := SMap.set c x s.cores }
def State.die (s : State) (d : Nat) : Die := SMap.look {} s.dies d
def State.setDie (s : State) (d : Nat) (x : Die) : State := { s with dies := SMap.set d x s.dies }
def State.queue (s : State) (d q : Nat) : Queue := SMap.look {} s.queues (d * 256 + q)
def State.setQueue (s : State) (d q : Nat) (x : Queue) : State := { s with queues := SMap.set (d * 256 + q) x s.queues }
def State.launch (s : State) (l : Nat) : Launch := SMap.look {} s.launches l
def State.setLaunch (s : State) (l : Nat) (x : Launch) : State := { s with launches := SMap.set l x s.launches }

/-- The core, the die and the slot of a warp or group key (R10). -/
def coreOf (wp : Nat) : Nat := wp / 32
def dieOf (wp : Nat) : Nat := wp / 1024
def slotOf (wp : Nat) : Nat := wp % 32
/-- The group of a warp. -/
def State.groupOf (s : State) (wp : Nat) : Group := s.group (s.warp wp).grp

/-- A fresh number for an item in flight. -/
def State.takeId (s : State) : Nat × State := (s.nextId, { s with nextId := s.nextId + 1 })
/-- A request id that no outstanding request of the device holds (R456). -/
def State.reqId (s : State) : Nat :=
  ((List.range (s.reqs.length + s.moulds.length + 1)).find? (fun n => !s.reqs.any (fun r => r.id == n) && !s.moulds.any (fun m => m.1 == n))).getD 0
/-- The monitors of a core's die that sample a quantity of the core take note of a value (R208). -/
def State.note (s : State) (core source v : Nat) (times : Nat := 1) : State :=
  let hit (m : Monitor) : Bool := m.enable && m.source == source && (m.core == 0xFF || m.core == core % 32)
  { s with samples := s.samples ++ ((s.die (core / 32)).monitors.filter (fun p => hit p.2)).map (fun p =>
      { die := core / 32, mon := p.1, value := v, times := times }) }
/-- A free value, and the state that has used it. DESIGN CHOICE: log 3. -/
def State.free (s : State) : Word × State := (Config.freeValue s.fresh, { s with fresh := s.fresh + 1 })
/-- A free choice below n. -/
def State.choose (s : State) (n : Nat) : Nat × State :=
  (Config.freeChoice s.fresh % max n 1, { s with fresh := s.fresh + 1 })

/-! ### Registers (R58, R124, R126) -/

def Warp.vreg (w : Warp) (n : Nat) : Lanes Lane := SMap.look (Lanes.mk (fun _ => 0)) w.v n
def Warp.vlane (w : Warp) (n t : Nat) : Lane := (w.vreg n).at t
/-- Write the lanes of a mask of register n; the others keep their values (R135). -/
def Warp.setV (w : Warp) (n : Nat) (m : Mask) (f : Nat → Lane) : Warp :=
  let old := w.vreg n
  { w with v := SMap.set n (Lanes.mk (fun t => if m.getLsbD t then f t else old.at t)) w.v }
def Warp.s (w : Warp) (n : Nat) : Word := SMap.look 0 w.sr n
/-- Write s register n; a write clears its fault tag (R321). -/
def Warp.setS (w : Warp) (n : Nat) (x : Word) : Warp :=
  { w with sr := SMap.put 0 n x w.sr, tokTag := w.tokTag &&& ~~~ (1#64 <<< n) }
def Warp.a (w : Warp) (n : Nat) : Addr := SMap.look 0 w.ar n
def Warp.setA (w : Warp) (n : Nat) (x : Addr) : Warp := { w with ar := SMap.put 0 n x w.ar }
/-- Write k register n: k0 keeps nothing, k8 to k15 wait for the chain's end (R126, R164). -/
def Warp.setK (w : Warp) (n : Nat) (m : Mask) : Warp :=
  if n = 0 then w
  else if n < 8 then { w with kr := SMap.put 0 n m w.kr }
  else { w with kwrites := w.kwrites ++ [(n - 8, m)] }
def Warp.d (w : Warp) (n : Nat) : BitVec 128 := SMap.look 0 w.dr n
def Warp.setD (w : Warp) (n : Nat) (x : BitVec 128) : Warp := { w with dr := SMap.put 0 n x w.dr }
def Warp.q (w : Warp) (n : Nat) : Lane := SMap.look 0 w.qr n
def Warp.setQ (w : Warp) (n : Nat) (x : Lane) : Warp := { w with qr := SMap.put 0 n x w.qr }
def Warp.genOf (w : Warp) (t : Nat) : Lane := SMap.look 0 w.gen t

/-- The latch a code 0x140 to 0x143 names (R63). -/
def Warp.latch (w : Warp) (c : BitVec 9) : Option Latch :=
  match c.toNat with
  | 0x140 => w.y0
  | 0x141 => w.y1
  | 0x142 => w.y2
  | 0x143 => w.y3
  | _ => none

/-- After a member, the latches move up and y0 takes its result (R63). -/
def Warp.shiftLatches (w : Warp) (y : Option Latch) : Warp := { w with y3 := w.y2, y2 := w.y1, y1 := w.y0, y0 := y }
/-- All latches invalid (R63). -/
def Warp.clearLatches (w : Warp) : Warp := { w with y0 := none, y1 := none, y2 := none, y3 := none }

/-- Set flags of FPMODE (R87). -/
def Warp.flag (w : Warp) (x : Flags) : Warp := { w with fpmode := w.fpmode ||| x.setWidth 64 }
/-- FPMODE.ftz (R86). -/
def Warp.ftz (w : Warp) : Bool := w.fpmode.getLsbD 15

/-- The generator's next state (R89). -/
def nextGen (x : Lane) : Lane :=
  let x := x ^^^ (x <<< 13)
  let x := x ^^^ (x >>> 17)
  x ^^^ (x <<< 5)

/-- The seeded states of lanes 0 to 128 (R89). -/
def seedGens (seed : Lane) : SMap Lane :=
  (List.range 129).map (fun t =>
    let x := seed ^^^ BitVec.ofNat 32 ((t + 1) * 0x9E3779B9)
    (t, if x = 0 then 0x6A09E667 else x))

/-! ### Records (R455, R456) -/

/-- A record's fields. -/
structure Rec where
  cls : Nat
  sev : Nat
  die : Nat := 0xFF
  core : Nat := 0xFF
  launch : Nat := 0
  group : Nat := 0
  warp : Nat := 0xFF
  cause : Nat := 0
  slot : Nat := 0
  addr : Nat := 0
  pc : Nat := 0
  info : Nat := 0
  deriving DecidableEq, Repr

/-- The 64 bytes of a record. -/
def Rec.bytes (r : Rec) (time : Word) : List Byte :=
  bytesOfNat 1 r.cls ++ bytesOfNat 1 r.sev ++ bytesOfNat 1 r.die ++ bytesOfNat 1 r.core ++ bytesOfNat 4 r.launch
    ++ bytesOfNat 4 r.group ++ bytesOfNat 1 r.warp ++ bytesOfNat 1 r.cause ++ bytesOfNat 2 r.slot
    ++ bytesOfNat 8 time.toNat ++ bytesOfNat 16 r.addr ++ bytesOfNat 4 r.pc ++ bytesOfNat 20 r.info

/-- Put the bytes of one record into the ring, or count it dropped when the ring is full (R455). DESIGN CHOICE: log 11. -/
def ringPut (s : State) (r : Ring) (b : List Byte) : State :=
  let prod := natOfBytes (Memory.bytes s.hostMem r.va 8)
  let cons := natOfBytes (Memory.bytes s.hostMem (r.va + 8) 8)
  let drop := natOfBytes (Memory.bytes s.hostMem (r.va + 16) 8)
  if (prod + 2 ^ 64 - cons) % 2 ^ 64 = 2 ^ r.n then
    { s with hostMem := Memory.storeBytes s.hostMem (r.va + 16) (bytesOfNat 8 (drop + 1)) }
  else
    let m := Memory.storeBytes s.hostMem (r.va + 64 + 64 * (prod % 2 ^ r.n)) b
    { s with hostMem := Memory.storeBytes m r.va (bytesOfNat 8 (prod + 1)) }

/-- Write a record: to the ring, or to the device log of 1024 records whose oldest is overwritten (R455). -/
def State.record (s : State) (r : Rec) : State :=
  let b := r.bytes s.cycle
  let s := if r.sev = 3 then { s with sev3 := true } else s
  match s.ring with
  | some ring => ringPut s ring b
  | none =>
    let x := BitVec.ofNat 512 (natOfBytes b)
    if s.log.length < 1024 then { s with log := s.log ++ [x] }
    else { s with log := s.log.drop 1 ++ [x], logLost := s.logLost + 1 }

/-! ### Group faults (R197) -/

/-- The exit increments of a group that are not yet performed are withheld (R197, R261). -/
def dropExits (g : Group) (l : List Store) : List Store :=
  l.filter (fun x => !(x.exits != 0 && x.launch == g.launch && x.group == g.gid))

/-- A queue's entries written, through to their shadow (R356). -/
def Queue.write (q : Queue) (l : List QEntry) : Queue := { q with entries := l, shadow := Shadow.mirror q.shadow l }
/-- A die's phase list written, through to its shadow (R356). -/
def Die.writePhases (d : Die) (l : List QEntry) : Die := { d with phases := l, phaseShadow := Shadow.mirror d.phaseShadow l }

/-- The cores whose phase dispatch is halted: those at which a poisoned entry of the die's phase list aims (R381). -/
def Die.haltBad (d : Die) : Die :=
  let bad := ((d.phases.filter (fun e => e.bad)).map (fun e => e.tgt)).dedup
  { d with phaseHalted := d.phaseHalted.filter bad.contains ++ bad.filter (fun c => !d.phaseHalted.contains c) }
/-- A node's counter written, through to its shadow (R356). -/
def Node.write (x : Node) (n : Nat) : Node := { x with count := n, shadow := n, shadowBad := false }

/-- A launch is faulted, and its entry leaves its queue (R353, R466). -/
def faultLaunch (s : State) (l : Nat) : State :=
  let x := s.launch l
  let q := s.queue x.qdie x.queue
  let s := if SMap.has s.launches l then s.setLaunch l { x with faulted := true } else s
  s.setQueue x.qdie x.queue (q.write (q.entries.filter (fun e => !(e.kind == 1 && e.launch == l))))

/-- A group faults: its warps stop issuing, its increments are withheld, those that wait on a core where it was before a save too, its
launch ends faulted, and a record names the cause and the pc (R197, R217). -/
def groupFault (s : State) (g : Nat) (r : Rec) : State :=
  let x := s.group g
  let c := coreOf g
  if x.faulted then s else
  let s := s.record { r with die := dieOf g, core := c % 32, launch := x.launch, group := x.gid }
  let s := s.setGroup g { x with faulted := true }
  let s := faultLaunch s x.launch
  { s with cores := s.cores.map (fun p => (p.1, { p.2 with stores := dropExits x p.2.stores, sidelog := dropExits x p.2.sidelog })) }

/-! ### Raising a trap (R195 to R197) -/

/-- The rank of a trap among those raised in its cycle (R196): those of splits, by prio, pc and lane; TIMER, of VTIME first; the
imprecise ones, by cause and the pc that they record. -/
def Pend.rank (p : Pend) : Nat :=
  if p.cause = .timer then 2 ^ 64 + p.info.toNat % 2
  else if causeImprecise p.cause then
    2 ^ 65 + causeCode p.cause * 2 ^ 32 + (if p.cause = .storeReplayFail then p.info.toNat % 2 ^ 32 else p.pc.toNat)
  else (255 - p.prio.toNat) * 2 ^ 40 + p.pc.toNat * 2 ^ 8 + lowest p.lanes

/-- Does a waiting trap come after one that is raised: raised in the same cycle, and ranked later (R196)? -/
def Pend.behind (p q : Pend) : Bool := q.cycle.isSome && q.cycle == p.cycle && decide (p.rank < q.rank)

/-- The queue with a trap in its place: in the order they are raised, those of one cycle by rank (R196). -/
def enqueueTrap (l : List Pend) (p : Pend) : List Pend :=
  l.takeWhile (fun q => !p.behind q) ++ p :: l.dropWhile (fun q => !p.behind q)

/-- The split that receives a trap: the one that raised it, or the one R163 would select, or the highest-ranked (R198). -/
def receiver (w : Warp) (p : Pend) : Nat :=
  let next := (selectIdx w).getD ((firstIdx w.frontier (fun x => !x.held)).getD 0)
  match p.split with
  | some t => (firstIdx w.frontier (fun x => x.mask.getLsbD t)).getD next
  | none => next

/-- Does an entry hold the pc that it returns to: one that a split raised, and MATRIX_STORAGE, which names its BAR or PHASE (R194)?
DEDUCED: log 128. -/
def Pend.ownPc (p : Pend) : Bool := p.split.isSome || p.cause == .matrixStorage

/-- The pc that a trap gives TRAPPC (R194). -/
def returnPc (w : Warp) (p : Pend) : BitVec 32 :=
  if p.ownPc then p.pc else ((w.frontier[receiver w p]?).map Split.pc).getD 0

/-- A trap enters the pending queue, or faults the group: while TRAPVEC.en is 0, with eight waiting, or for a precise
one while a trap is handled (R196, R197). DEDUCED: log 4. -/
def raise (s : State) (wp : Nat) (p : Pend) (precise : Bool) : State :=
  let w := s.warp wp
  if !w.trapvec.getLsbD 63 || decide (8 ≤ w.pend.length) || (precise && w.inh) then
    groupFault s w.grp { cls := 1, sev := 1, warp := slotOf wp, cause := causeCode p.cause, pc := (returnPc w p).toNat }
  else s.setWarp wp { w with pend := enqueueTrap w.pend { p with cycle := some s.arith } }

/-- A precise trap of split i: it stops at pc `ret` until the trap is delivered; an interrupted chain restarts at its
head with its frontier writes discarded and its generators as they stood there (R65, R90, R196). -/
def raisePrecise (s : State) (wp i : Nat) (c : Cause) (info : Word) (lanes : Mask) (ret : BitVec 32) : State :=
  let w := s.warp wp
  let w :=
    { w with
      frontier := w.frontier.modify i (fun x => { x with pc := ret, stop := true })
      kwrites := []
      verdict := []
      gen := if w.pos = 0 then w.gen else w.headGen
      pos := 0
      chosen := false }
  let sp := (w.frontier[i]?).getD { pc := 0, prio := 0, depth := 0, mask := 0 }
  raise (s.setWarp wp w) wp
    { cause := c, pc := ret, prio := sp.prio, depth := sp.depth, info := info, lanes := lanes, split := some (lowest sp.mask) } true

/-! ### Delivery and return (R198, R199) -/

/-- The lanes of a mask below 64, and the others. -/
def maskLo (m : Mask) : Word := m.setWidth 64
def maskHi (m : Mask) : Word := (m >>> 64).setWidth 64

/-- TRAPCAUSE's value (R193). -/
def trapCauseWord (p : Pend) : Word :=
  BitVec.ofNat 64 (causeCode p.cause + (if causeImprecise p.cause then 0x100 else 0) + (if p.late then 0x200 else 0))

/-- TAKING AN EXCEPTION: the oldest pending trap is delivered (R198). -/
def deliver (w : Warp) : Warp :=
  match w.pend with
  | [] => w
  | p :: rest =>
    let i := receiver w p
    match w.frontier[i]? with
    | none => w
    | some sp =>
      let pc := returnPc w p
      let handler : Split :=
        { pc := w.trapvec.setWidth 32, prio := (w.trapvec >>> 32).setWidth 8, depth := 0, mask := sp.mask, turn := sp.turn }
      let l := rankSort ((w.frontier.mapIdx (fun j x => if j = i then handler else { x with held := true })))
      { w with
        pend := rest
        claim := none
        hang := if frontierChanged w.frontier l then 0 else w.hang
        trapcause := trapCauseWord p
        trappc := pc.setWidth 64 ||| (sp.prio.setWidth 64 <<< 32) ||| (sp.depth.setWidth 64 <<< 40)
        trapinfo := p.info
        tlanes := p.lanes
        trappxi := w.pxi
        pxi := 0
        psup := w.sup
        sup := true
        inh := true
        pos := 0
        chosen := false
        frontier := l }

/-- The return made once no split of the handler is left, or by TRET (R199): the handler's splits are removed, their
lanes stand at TRAPPC, the held splits are released. A forced turn of the handler's one split goes on as that of the split that took
the trap (R169). -/
def trapReturn (w : Warp) : Warp :=
  let own := w.frontier.filter (fun x => !x.held)
  let lanes := unionMask own
  let turn := match own with
    | [x] => x.turn
    | _ => none
  let kept := (w.frontier.filter (fun x => x.held)).map (fun x => { x with held := false })
  let back : Split :=
    { pc := w.trappc.setWidth 32, prio := (w.trappc >>> 32).setWidth 8, depth := (w.trappc >>> 40).setWidth 8, mask := lanes
      turn := turn }
  let l := tidy (back :: kept)
  { w with
    pxi := w.trappxi
    sup := w.psup
    inh := false
    pos := 0
    chosen := false
    frontier := l
    cur := (l.findIdx? (fun x => x.mask.getLsbD (lowest lanes))).getD 0 }

/-- May a trap be delivered at this point: at a chain head, with one waiting and none being handled (R196)? -/
def trapDue (w : Warp) : Bool := w.pos == 0 && !w.inh && !w.pend.isEmpty && !w.frontier.isEmpty

/-! ### The end of a warp and of a group (R166, R184, R364) -/

/-- Has a group a work command in flight that is not held? -/
def busyCmds (s : State) (g : Nat) : Bool :=
  (s.core (coreOf g)).cmds.any (fun p => p.2.grp == g && !p.2.held && p.2.kind != .launch)

/-- Has a group operations of the matrix unit that are still to be performed (R383)? -/
def busyUnit (s : State) (g : Nat) : Bool := (s.core (coreOf g)).mq.any (fun j => j.grp == g)

/-- CWAIT's reads are repeated, and no access of another thread waits for them (R380). -/
def Load.isCounter (l : Load) : Bool :=
  match l.form with
  | .counter _ => true
  | _ => false

/-- Has a group loads or atomics in flight, beside prefetches and CWAIT's reads? It holds its place on the core until they have
returned. DEDUCED: log 98. -/
def busyLoads (s : State) (g : Nat) : Bool :=
  (s.core (coreOf g)).loads.any (fun l => (s.group g).warps.contains l.warp && !l.isCounter && l.form != .pref true && l.form != .pref false)

/-- Everything a group holds on its core is given back (R336, R384, R364): slots, registers, local store, sluices, dross
slots, tiles; held commands are discarded (R346), and a LAUNCH goes on without its token. DEDUCED: log 70. DEDUCED: log 98. -/
def releaseGroup (s : State) (g : Nat) : State :=
  let c := coreOf g
  let x := s.group g
  let k := s.core c
  let mine (o : Option Nat) : Bool := o == some g
  let asks (a : Asker) : Bool := match a with
    | .warp wp => x.warps.contains wp
    | .cmd core n => core == c && (SMap.find k.cmds n).any (fun m => m.grp == g)
    | _ => false
  let s := { s with reqs := s.reqs.map (fun (r : FaultReq) => if asks r.asker then { r with asker := .gone } else r) }
  let s := s.setCore c
    { k with
      cmds := SMap.keep k.cmds (fun _ m => m.grp != g)
      loads := k.loads.filter (fun l => !x.warps.contains l.warp)
      mq := k.mq.filter (fun j => j.grp != g)
      tiles := SMap.keep k.tiles (fun _ t => !mine t.owner)
      sluices := SMap.keep k.sluices (fun _ t => !mine t.owner)
      dross := SMap.keep k.dross (fun _ t => !mine t.owner)
      board := k.board.filter (fun r => (SMap.find k.cmds r.cmd).any (fun m => m.grp != g)) }
  { s with
    warps := SMap.keep s.warps (fun wp _ => !x.warps.contains wp)
    groups := SMap.erase g s.groups
    ls := Memory.clear s.ls (c * 2 ^ 20 + x.lsBase) x.lsSize
    lsBad := SMap.keep s.lsBad (fun a _ => !(decide ((c * 2 ^ 20 + x.lsBase) / 128 ≤ a) && decide (a < (c * 2 ^ 20 + x.lsBase + x.lsSize) / 128))) }

/-- Release a group that has ended or faulted, once no work command or load of it is under way and its
matrix operations have been performed (R364, R347, R383). A MATRIX_STORAGE still due
at the end faults it (R413). -/
def tryRelease (s : State) (g : Nat) : State :=
  let x := s.group g
  let ended := x.faulted || x.warps.all (fun wp => (s.warp wp).frontier.isEmpty)
  if !SMap.has s.groups g || !ended || busyCmds s g || busyLoads s g || busyUnit s g then s
  else
    let s := match x.msDue with
      | some due => if x.faulted then s else groupFault s g { cls := 1, sev := 1, warp := slotOf due.2, cause := causeCode .matrixStorage }
      | none => s
    releaseGroup s g

/-- The lanes of a launch's warp whose increments are withheld (R261). -/
def Launch.withheldOf (l : Launch) (gid index : Nat) : Mask :=
  (l.withheld.filter (fun x => x.1 == gid && x.2.1 == index)).foldl (fun m x => m ||| x.2.2) 0

/-- A warp's place in its group. -/
def Group.indexOf (g : Group) (wp : Nat) : Nat := g.warps.idxOf wp

/-- The exit increments of some lanes of a warp, as the store that performs them (R184, R353): with release at the scope of
the EXIT. A faulted group's are withheld (R197). DEDUCED: log 19. -/
def exitStore (s : State) (wp scope : Nat) (lanes : Mask) : State :=
  let w := s.warp wp
  let g := s.group w.grp
  let l := s.launch g.launch
  let lanes := lanes &&& ~~~ l.withheldOf g.gid (g.indexOf wp)
  let n := popcount lanes
  if n = 0 ∨ g.faulted then s
  else
    let ctr := field l.bytes 0x98 16 + (if field l.bytes 0x1F 1 / 4 % 2 = 1 then 8 * g.gid else 0)
    let (id, s) := s.takeId
    let c := coreOf wp
    let k := s.core c
    let st : Store :=
      { id := id, core := c, warp := wp, group := g.gid, launch := g.launch, asid := g.asid, root := g.root,
        va := ctr / 128 * 128, lanes := lanes, op := 4, rel := true, scope := scope, aop := .add, atype := 3,
        atoms := (lanesOf lanes).map (fun t => { lane := t, addr := ctr, c := 1 }), exits := n, index := g.indexOf wp }
    s.setCore c { k with stores := k.stores ++ [st] }

/-- Lanes of a warp exit (R184, R198, R199): they leave every split; an empty handler returns; with the frontier empty
the parked lanes exit at `.gp` and the warp ends (R166), losing its waiting traps and timers (R198). -/
def exitLanes (s : State) (wp : Nat) (m : Mask) (scope : Nat) : State :=
  let w := s.warp wp
  let s := exitStore s wp scope m
  let l := (w.frontier.map (fun x => { x with mask := x.mask &&& ~~~ m })).filter (fun x => x.mask ≠ 0)
  let w := { w with live := w.live &&& ~~~ m, frontier := l }
  let w := if w.inh && !(l.any (fun x => !x.held)) then trapReturn { w with frontier := l } else w
  if w.frontier.isEmpty then
    let rest := w.live
    let s := s.setWarp wp { w with live := 0, pend := [], vtcmp := 0, deadline := 0 }
    exitStore s wp 1 rest
  else s.setWarp wp w

/-! ### Barriers (R363, R364) -/

/-- The name of a resident warp. -/
def State.nameOf (s : State) (wp : Nat) : WarpName :=
  let g := s.groupOf wp
  { launch := g.launch, gid := g.gid, index := g.indexOf wp }

/-- The warp of a store. -/
def Store.name (x : Store) : WarpName := { launch := x.launch, gid := x.group, index := x.index }

/-- Are a warp's stores before a place in its order performed, and at `.gp` and wider those in the side log too and its pushes
acknowledged (R241, R246, R259)? Any core may hold them: a save leaves them where they are (R217). DEDUCED: log 125. -/
def settledBefore (s : State) (n : WarpName) (id scope : Nat) : Bool :=
  !s.cores.any (fun k =>
    k.2.stores.any (fun x => x.name == n && decide (x.id < id))
      || (scope != 0 && (k.2.sidelog.any (fun x => x.name == n && decide (x.id < id))
        || k.2.pushes.any (fun p => p.owner == n && decide (p.seq < id) && decide (p.scope ≤ scope)))))

/-- Are the accesses that a release at a scope waits for performed (R241, R246)? `id` is the release's place in the order of the
warp, which is or was in slot `wp` of the core. -/
def releaseOk (s : State) (core wp : Nat) (n : WarpName) (id scope : Nat) : Bool :=
  !(s.core core).loads.any (fun l => l.warp == wp && decide (l.id < id) && !l.isCounter && !l.todo.isEmpty)
    && !(s.core core).mq.any (fun j => j.warp == wp && decide (j.id < id))
    && settledBefore s n id scope

/-- The same for a resident warp. -/
def releaseReady (s : State) (wp id scope : Nat) : Bool := releaseOk s (coreOf wp) wp (s.nameOf wp) id scope

/-- The count that a warp gives the barrier b at which it has arrived: its frontier holds a single split, which waits there. -/
def arrivedAt (w : Warp) (b : Nat) : Option Nat :=
  match w.frontier with
  | [x] => match x.wait with
    | .bar c n => if c = b then some n else none
    | _ => none
  | _ => none

/-- A warp leaves a barrier it waits at: its split goes to pc + 1. -/
def passBarrier (w : Warp) : Warp :=
  ({ w with frontier := w.frontier.map (fun x => match x.wait with
      | .bar _ _ => { x with wait := .ready, pc := x.pc + 1 }
      | _ => x) } : Warp).settle

/-- The imprecise MATRIX_STORAGE of a group, raised at a passing in the warp that is to receive it, else in the
lowest-numbered passing warp (R413); its entry holds the pc of the BAR or PHASE (R194). -/
def raiseMatrixStorage (s : State) (g : Nat) (passing : List Nat) : State :=
  let x := s.group g
  match x.msDue with
  | none => s
  | some (info, wp) =>
    let s := s.setGroup g { x with msDue := none }
    let who := if passing.contains wp then wp else passing.foldl min (passing.headD wp)
    raise s who { cause := .matrixStorage, pc := (((s.warp who).frontier.head?).map Split.pc).getD 0, info := info } false

/-- The warps of a round pass barrier b together, and with those that have arrived since its next round begins (R363); barrier 16 ends
the group's phase instead, once its warps have no trap waiting (R364, R413). A passing is an acquire: the core's logical time rises
to its die's (R288). -/
def passTogether (s : State) (g b : Nat) (here rest : List Nat) : State :=
  let s := raiseMatrixStorage s g here
  let x := s.group g
  if b = 16 then
    if here.any (fun wp => !(s.warp wp).pend.isEmpty) || x.faulted || x.saving then s
    else s.setGroup g { x with ending := true, bars := SMap.erase b x.bars }
  else
    let s := s.setGroup g { x with bars := match rest with
      | [] => SMap.erase b x.bars
      | first :: _ => SMap.set b { count := (arrivedAt (s.warp first) b).getD 0, arrived := rest } x.bars }
    let s := here.foldl (fun s wp => s.setWarp wp (passBarrier (s.warp wp))) s
    let c := coreOf g
    let k := s.core c
    s.setCore c { k with ct := max k.ct (s.die (dieOf g)).dt }

/-- The warps that have arrived at a barrier of a group, in the order of their arrivals. -/
def arrivals (s : State) (g b : Nat) : List Nat :=
  let x := s.group g
  let here := x.warps.filter (fun wp => (arrivedAt (s.warp wp) b).isSome)
  let old := (SMap.look {} x.bars b).arrived.filter here.contains
  old ++ here.filter (fun wp => !old.contains wp)

/-- How many of its warps that have not ended a group's barrier waits for with a count (R363). -/
def barrierNeed (s : State) (g count : Nat) : Nat :=
  if count = 0 then ((s.group g).warps.filter (fun wp => !(s.warp wp).frontier.isEmpty)).length else count

/-- TRAPINFO of the checks of R82 (R65): the word's pc and its chain position. -/
def wordInfo (w : Warp) (sp : Split) : Word := sp.pc.setWidth 64 ||| (BitVec.ofNat 64 w.pos <<< 32)

/-- A warp that has arrived in a round with another count than the round's traps at its BAR (R363). DEDUCED: log 151. -/
def trapAtBar (s : State) (wp : Nat) : State :=
  let w := s.warp wp
  match w.frontier with
  | [] => s
  | x :: _ =>
    raisePrecise (s.setWarp wp { w with frontier := w.frontier.map (fun x => { x with wait := .ready }) }) wp 0 .illegalOperand
      (wordInfo { w with pos := 0 } x) x.mask x.pc

/-- Test one barrier of a group: when its count of warps has arrived and the accesses before it are performed, they pass; the
round's first arrival gives the count, which the others of the round keep, and later arrivals belong to the next round (R363).
DEDUCED: log 68. -/
def testBarrier (s : State) (g b : Nat) : State :=
  let x := s.group g
  match arrivals s g b with
  | [] => s.setGroup g { x with bars := SMap.erase b x.bars }
  | first :: r =>
    let count := (arrivedAt (s.warp first) b).getD 0
    let need := barrierNeed s g count
    let round := (first :: r).take need
    match round.find? (fun wp => arrivedAt (s.warp wp) b != some count) with
    | some wp => trapAtBar (s.setGroup g { x with bars := SMap.set b { count := count, arrived := (first :: r).filter (· != wp) } x.bars }) wp
    | none =>
    if round.length < need || round.any (fun wp => !releaseReady s wp s.nextId 1) then
      s.setGroup g { x with bars := SMap.set b { count := count, arrived := first :: r } x.bars }
    else passTogether s g b round ((first :: r).drop need)

/-- The count that the round which a warp joins next at a barrier has: none when it begins one (R363). -/
def joinedCount (s : State) (g b : Nat) : Nat → List Nat → Option Nat
  | 0, _ => none
  | n + 1, l =>
    match l with
    | [] => none
    | first :: _ =>
      let count := (arrivedAt (s.warp first) b).getD 0
      let need := barrierNeed s g count
      if l.length < need then some count else joinedCount s g b n (l.drop (max 1 need))

/-- Test every barrier at which a warp of the group waits. -/
def testBarriers (s : State) (g : Nat) : State :=
  if SMap.has s.groups g && !(s.group g).faulted then (List.range 17).foldl (fun s b => testBarrier s g b) s else s

/-- What a change to a group's warps can let happen: its barriers pass, and it is released once it has ended or faulted. -/
def settleGroup (s : State) (g : Nat) : State := tryRelease (testBarriers s g) g

/-! ### Operands of a word (R58 to R63, R82) -/

/-- The vector registers and the s registers that a code names in a place. -/
def Place.regs (p : Place) (c : BitVec 9) : List Nat :=
  let n := c.toNat
  let v (wide : Bool) : List Nat := if isV c then (if wide then [n, n + 1] else [n]) else []
  let s : List Nat := if isS c then [n] else []
  match p with
  | .sreg | .uni | .len => s
  | .vreg wide => v wide
  | .vsrc wide => v wide ++ s
  | .vors wide => v wide ++ s
  | .index pair => v pair
  | _ => []

/-- Is a register code inside the warp's allocation, or below the launch's sregs (R60)? -/
def regOk (w : Warp) (sregs n : Nat) : Bool :=
  if n < 0x100 then w.alloc.getLsbD (n / 8) else decide (n - 0x100 < sregs)

/-- Does a valid latch named in a place hold a kind the place takes (R63, R111)? The kind of a load's is known before its data. -/
def latchKindOk (w : Warp) (p : Place) (c : BitVec 9) : Bool :=
  match w.latch c with
  | none => true
  | some (.mask _) => false
  | some (.vector _) | some (.awaited _ false) => p != .uni
  | some (.uniform _) | some (.awaited _ true) => true

/-- The places of a word that hold operand codes. -/
def Shape.slots (sh : Shape) (f : RWord) : List (Place × BitVec 9) :=
  (if f.w then [] else [(sh.dst, f.dst)]) ++ [(sh.a, f.a), (sh.b, f.b), (sh.c, f.c)]

/-- The register codes a word names. -/
def Shape.regs (sh : Shape) (f : RWord) : List Nat := ((sh.slots f).map (fun p => p.1.regs p.2)).flatten

/-- Is a code a latch in a place that takes one? -/
def takesLatch (p : Place) (c : BitVec 9) : Bool :=
  isY c && (match p with
    | .uni => true
    | .vsrc _ => true
    | _ => false)

/-- The codes of latches a word reads. -/
def Shape.latches (sh : Shape) (f : RWord) : List (Place × BitVec 9) := (sh.slots f).filter (fun p => takesLatch p.1 p.2)

/-- The registers that a load in flight will write (R234, R238). -/
def Load.dests (l : Load) : List Nat :=
  if l.w then []
  else
    match l.form with
    | .counter _ => []
    | .pref _ => []
    | .atomic => if 2 ≤ l.itype then [l.dst.toNat, l.dst.toNat + 1] else [l.dst.toNat]
    | .transpose => (List.range l.size).map (fun r => l.dst.toNat + r / 4)
    | _ => if isV l.dst && decide (6 ≤ l.itype) then [l.dst.toNat, l.dst.toNat + 1] else [l.dst.toNat]

/-- Must an instruction that names these registers wait for one of them (R234, R319)? -/
def mustWait (s : State) (wp : Nat) (regs : List Nat) : Bool :=
  let w := s.warp wp
  let loads := ((s.core (coreOf wp)).loads.filter (fun l => l.warp == wp)).map Load.dests |>.flatten
  regs.any (fun n => loads.contains n || (decide (0x100 ≤ n) && w.tokPend.getLsbD (n - 0x100)))

/-- The context in which a word issues: its warp as it stands after the slot's ageing, its split and the acting lanes. -/
structure Ctx where
  wp : Nat
  i : Nat
  sp : Split
  act : Mask
  deriving DecidableEq, Repr

/-- What comes of a word. -/
inductive Eff where
  /-- it completes, with its latch -/
  | done (s : State) (y : Option Latch)
  /-- it completes, and has moved its split itself -/
  | moved (s : State)
  /-- it raises a precise trap, and nothing of it is performed -/
  | trap (c : Cause) (info : Word) (lanes : Mask)
  /-- as `trap`, with the pc to return to -/
  | trapAt (c : Cause) (info : Word) (ret : BitVec 32)
  /-- it waits: the warp issues nothing -/
  | hold
  /-- as `hold`, but something it began goes on -/
  | stay (s : State)
  deriving Repr

/-- The pc that a precise trap returns to: the chain's head (R65). -/
def headOf (w : Warp) (sp : Split) : BitVec 32 := if w.pos = 0 then sp.pc else w.headPc

/-- The writes of k8 to k15 of a chain, made by the split at index i, or by one whose lanes have all exited (R164, R165). -/
def chainWrites (w : Warp) (i : Option Nat) (gone : Split) : Warp := w.kwrites.foldl (fun w k => kWrite w i gone k.1 k.2) w

/-- Do they change a split's mask (R171)? -/
def writesChange (w : Warp) (i : Option Nat) (gone : Split) : Bool :=
  (chainWrites w i gone).frontier.map Split.mask != w.frontier.map Split.mask

/-- The frontier and what follows from it once a word of the chain's end has completed (R164, R165, R169). -/
def chainEnd (w : Warp) (i : Option Nat) (gone : Split) : Warp :=
  let w := chainWrites w i gone
  let w := ({ w with kwrites := [], pos := 0, chosen := false } : Warp).settle
  { w with frontier := endTurns w.frontier }

/-- The end of a slot: the hang detector counts (R171), the barriers are tested (R363), a group whose warps have ended
is released. -/
def slotEnd (s : State) (wp : Nat) (old : Warp) (resetHang : Bool) : State :=
  let w := s.warp wp
  let g := w.grp
  let w := { w with hang := hangAfter old w resetHang, vtime := w.vtime + BitVec.ofNat 64 s.slot }
  settleGroup (s.setWarp wp w) g

/-- A slot in which no split of a warp is ready issues nothing, and the hang detector counts it (R163, R171). -/
def emptySlot (s : State) (wp : Nat) : State :=
  let w := s.warp wp
  settleGroup (s.setWarp wp { w with hang := hangAfter w w false }) w.grp

/-- The end of a slot whose word trapped: its cycles count (R205), and it counts in the hang detector (R310) unless the
word is of class 4, which leaves every counter as it is (R186). -/
def trapEnd (s : State) (wp : Nat) (old : Warp) (ctl : Bool) : State :=
  let w := s.warp wp
  let w := { w with hang := if ctl then w.hang else hangAfter old w false, vtime := w.vtime + BitVec.ofNat 64 s.slot }
  tryRelease (s.setWarp wp w) w.grp

/-- The state in which a word's trap is raised: the slot has aged the splits (R163), but for class 4 (R186). DEDUCED: log 6. -/
def trapBase (s : State) (wp i : Nat) (ctl : Bool) : State :=
  if ctl then s else s.setWarp wp { s.warp wp with frontier := afterSlot (s.warp wp) i }

/-- A trap that returns to a pc of its own, TRAP's and BKPT's (R201): the word has executed, so the changes its chain made
to the frontier take effect (R164), and the split stops there until the trap is delivered (R196). DEDUCED: log 34. -/
def raiseAfter (s : State) (c : Ctx) (cause : Cause) (info : Word) (ret : BitVec 32) : State :=
  let w := s.warp c.wp
  let w := chainEnd { w with frontier := w.frontier.modify c.i (fun x => { x with pc := ret, stop := true }) } (some c.i) c.sp
  raise (s.setWarp c.wp w) c.wp
    { cause := cause, pc := ret, prio := c.sp.prio, depth := c.sp.depth, info := info, lanes := c.sp.mask,
      split := some (lowest c.sp.mask) } true

/-- The split that has executed a word which moved lanes, after it: that of the lowest of its lanes that have not exited; none once all
have (R165). -/
def writerAfter (w : Warp) (m : Mask) : Option Nat :=
  let left := m &&& w.live
  if left = 0 then none else firstIdx w.frontier (fun x => x.mask.getLsbD (lowest left))

/-- What a word's effect makes of the state: the chain, the latches, the pc, the slot's end; a trap finds nothing of the
word performed (R65, R82, R90). `old` is the state before the slot; `ctl` tells a word of class 4. A chain's writes name the entries of the
frontier at its head, or, where the last word moves its split, of the frontier that this leaves. DEDUCED: log 148. -/
def conclude (old : State) (c : Ctx) (h resetHang ctl : Bool) (e : Eff) : State :=
  let w0 := old.warp c.wp
  match e with
  | .hold => old
  | .stay s =>
    let w1 := s.warp c.wp
    s.setWarp c.wp { w0 with block := w1.block, verdict := w1.verdict, pxi := w1.pxi, claim := w1.claim, gather := w1.gather }
  | .trap cause info lanes =>
    trapEnd (raisePrecise (trapBase old c.wp c.i ctl) c.wp c.i cause info lanes (headOf w0 c.sp)) c.wp w0 ctl
  | .trapAt cause info ret => trapEnd (raiseAfter (trapBase old c.wp c.i ctl) c cause info ret) c.wp w0 ctl
  | .moved s =>
    let w := { s.warp c.wp with frontier := tidy (s.warp c.wp).frontier }.clearLatches
    let i := writerAfter w c.sp.mask
    let gone := { c.sp with pc := c.sp.pc + 1, age := 0, yield := 0, turn := none }
    let own (_ : Nat) (x : Split) : Bool := x.mask &&& c.sp.mask == x.mask || x.mask &&& c.sp.mask == c.sp.mask
    slotEnd (s.setWarp c.wp (lateAge w0.frontier own (chainEnd w i gone))) c.wp w0 (resetHang || writesChange w i gone)
  | .done s y =>
    let w := { (s.warp c.wp).shiftLatches y with verdict := [] }
    let w := { w with frontier := w.frontier.modify c.i (fun x => { x with pc := x.pc + 1 }) }
    let x := if h then { w with pos := w.pos + 1 }
      else
        let x := chainEnd w (some c.i) c.sp
        lateAge w0.frontier (fun j _ => j == x.cur) x
    slotEnd (s.setWarp c.wp x) c.wp w0 (if h then resetHang else resetHang || writesChange w (some c.i) c.sp)

/-- The warp of a slot as its word sees it: at a chain head the latches are invalid and the head is noted (R63, R65);
the splits have aged (R163). -/
def slotWarp (w : Warp) (i : Nat) (sp : Split) : Warp :=
  let w := if w.pos = 0 then { w.clearLatches with headPc := sp.pc, headGen := w.gen, kwrites := [] } else w
  { w with frontier := afterSlot w i }

/-- R64 for a full word. -/
def chainViolation (w : Warp) (f : RWord) (inner : Bool) : Bool :=
  (f.w && !f.h) || (w.pos == 7 && f.h) || (f.h && !inner)

/-- The first fault tag among the s registers a word reads (R321), of whatever class. DEDUCED: log 127. -/
def taggedRead (w : Warp) (regs : List Nat) : Option Nat :=
  regs.find? (fun n => decide (0x100 ≤ n) && w.tokTag.getLsbD (n - 0x100))

/-- HOW A FULL WORD ISSUES: R82's checks in their order, the scoreboard's waits, ENGINE_FAULT of a tagged token, then
the instruction. `dstRead` tells that dst is an operand it reads; `regs` are registers beyond those the fields name;
`own` is a further ILLEGAL_OPERAND check of the form. DEDUCED: log 108. -/
def issueWord (sh : Shape) (f : RWord) (dstRead resetHang : Bool) (regs : List Nat) (own : Warp → Group → Bool)
    (body : State → Ctx → Eff) (s : State) : State :=
  let wp := s.issuer
  let w0 := s.warp wp
  let i := w0.cur
  match w0.frontier[i]? with
  | none => s
  | some sp =>
    let w := slotWarp w0 i sp
    let g := s.group w.grp
    let c : Ctx := { wp := wp, i := i, sp := sp, act := sp.mask &&& w.k sp.mask f.k.toNat }
    let named := sh.regs f ++ regs
    let fail (x : Cause) : State := conclude s c f.h resetHang sh.ctl (.trap x (wordInfo w0 sp) sp.mask)
    match sh.check f with
    | some x => fail x
    | none =>
      if named.any (fun n => !regOk w g.sregs n) || !own w g
          || (sh.latches f).any (fun p => !latchKindOk w p.1 p.2) then fail .illegalOperand
      else if chainViolation w f sh.inner then fail .illegalOperand
      else if (sh.latches f).any (fun p => (w.latch p.2).isNone) then fail .latchLost
      else if sh.priv && !w.sup then
        fail .privilege
      else if mustWait s wp named || (sh.latches f).any (fun p => match w.latch p.2 with
          | some (.awaited _ _) => true
          | _ => false) then s
      else
        let reads := (({ sh with dst := if dstRead then sh.dst else .unused } : Shape).regs f) ++ regs
        match taggedRead w reads with
        | some n =>
          let s1 := s.setWarp wp { w0 with tokTag := w0.tokTag &&& ~~~ (1#64 <<< (n - 0x100)) }
          conclude s1 c f.h resetHang sh.ctl (.trap .engineFault (w.s (n - 0x100)) sp.mask)
        | none => conclude s c f.h resetHang sh.ctl (body (s.setWarp wp w) c)

/-- As `issueWord`, for the plain forms. -/
def issueR (sh : Shape) (f : RWord) (body : State → Ctx → Eff) (s : State) : Host.Outcome State Fault Refusal :=
  .next (issueWord sh f sh.readsD false [] (fun _ _ => true) body s)

/-- The register layout of a word of the immediate layout; its imm32 is no operand code. -/
def immR (f : IWord) : RWord := { dst := f.dst, w := f.w, h := f.h, a := f.a, b := 0, c := 0, k := 0, m := 0 }

/-- As `issueR`, for the immediate layout (R55). -/
def issueI (sh : Shape) (f : IWord) (body : State → Ctx → Eff) (s : State) : Host.Outcome State Fault Refusal :=
  issueR sh (immR f) body s

/-- The effect of a word on its warp alone. -/
def onWarp (s : State) (c : Ctx) (f : Warp → Warp × Option Latch) : Eff :=
  let r := f (s.warp c.wp)
  .done (s.setWarp c.wp r.1) r.2

end Sys2Proof.Machine
end

