-- ==== Sys2Proof/Machine/Operands.lean ====
section
/-! DEFINITION. The values of operand codes (R58, R111, R120, R133, R134) and the placing of results (R115, R120, R134,
R135), with the draws of `.rs` (R90). -/

namespace Sys2Proof.Machine

/-- An inline constant (R58). -/
def inlineInt (c : BitVec 9) : Int := (c.toNat : Int) - 0x1C0

/-- A latch as a uniform 64-bit value. -/
def latchUni (l : Option Latch) : Word :=
  match l with
  | some (.uniform x) => x
  | _ => 0

/-- A uniform source (R111): an s register, a uniform latch, an inline constant sign-extended. -/
def Warp.uni (w : Warp) (c : BitVec 9) : Word :=
  if isS c then w.s (c.toNat - 0x100)
  else if isInline c then BitVec.ofInt 64 (inlineInt c)
  else latchUni (w.latch c)

/-- A code of a float format from an inline constant: the integer converted exactly (R58). -/
def Fmt.ofInline (f : Fmt) (c : BitVec 9) : Nat :=
  f.code (decide (inlineInt c < 0)) (inlineInt c).natAbs 0

/-- A uniform float source (R120). -/
def Warp.uniF (w : Warp) (f : Fmt) (c : BitVec 9) : Nat :=
  if isInline c then f.ofInline c else (w.uni c).toNat % 2 ^ f.width

/-- A vector-form source at lane t (R134): 64 bits, of which a narrower type reads the low ones. -/
def Warp.vsrc (w : Warp) (wide : Bool) (c : BitVec 9) (t : Nat) : Word :=
  if isV c then
    let lo := (w.vlane c.toNat t).setWidth 64
    if wide then lo ||| ((w.vlane (c.toNat + 1) t).setWidth 64 <<< 32) else lo
  else
    match w.latch c with
    | some (.vector x) => x.at t
    | _ => w.uni c

/-- A vector-form float source at lane t. -/
def Warp.vsrcF (w : Warp) (f : Fmt) (c : BitVec 9) (t : Nat) : Nat :=
  if isInline c then f.ofInline c else (w.vsrc (f.width == 64) c t).toNat % 2 ^ f.width

/-- An a register named by a code of an address place (R58). -/
def Warp.areg (w : Warp) (c : BitVec 9) : Addr := w.a (c.toNat - 0x144)

/-! ### Integer types (R56, R115) -/

/-- The width of an integer type code. -/
def typeBits (t : Nat) : Nat :=
  match t with
  | 0 => 32
  | 1 => 32
  | 2 => 16
  | 3 => 16
  | 4 => 8
  | 5 => 8
  | _ => 64
/-- `.i` types are signed. -/
def typeSigned (t : Nat) : Bool := t % 2 == 0

/-- The low n bits of a word. -/
def lowBits (n : Nat) (x : Word) : Nat := x.toNat % 2 ^ n
/-- An n-bit code as a signed integer. -/
def toSigned (n x : Nat) : Int := if 2 ^ (n - 1) ≤ x then (x : Int) - 2 ^ n else x
/-- The integer that an n-bit code stands for under a type. -/
def typeVal (t x : Nat) : Int := if typeSigned t then toSigned (typeBits t) x else x
/-- The n-bit code of an integer, modulo 2^n. -/
def wrapTo (n : Nat) (x : Int) : Nat := (x % (2 ^ n : Int)).toNat

/-- ext (R115): an n-bit result extended to m bits by its type. -/
def ext (t m x : Nat) : Nat := wrapTo m (typeVal t x)
/-- A result of a type in an s register (R115). -/
def extS (t x : Nat) : Word := BitVec.ofNat 64 (ext t 64 x)
/-- A result of a type in a lane: extended to 32 bits, or the pair (R134). -/
def extV (t x : Nat) : Word := if wideI t then BitVec.ofNat 64 x else BitVec.ofNat 64 (ext t 32 x)

/-! ### Float formats by code -/

/-- R114's ftype. -/
def ftypeS (c : Nat) : Fmt :=
  match c with
  | 0 => f64
  | 1 => f32
  | 2 => bf16
  | _ => f16
/-- R139's vtype. -/
def ftypeV (c : Nat) : Fmt :=
  match c with
  | 0 => f32
  | 1 => f64
  | 2 => bf16
  | _ => f16
/-- The format of a conversion type code (R114, R146); none for an integer type. -/
def ctypeF (c : Nat) : Option Fmt :=
  match c with
  | 4 => some f64
  | 5 => some f32
  | 6 => some bf16
  | 7 => some f16
  | _ => none
/-- The integer type code of R56 for a conversion or reduction type code below 4. -/
def ctypeI (c : Nat) : Nat :=
  match c with
  | 0 => 0
  | 1 => 1
  | 2 => 6
  | _ => 7
/-- The format of a reduction type code (R151). -/
def rtypeF (c : Nat) : Option Fmt :=
  match c with
  | 4 => some f32
  | 5 => some f64
  | 6 => some bf16
  | 7 => some f16
  | _ => none

/-! ### Draws (R90) -/

/-- The n-th draw of a lane from its present state, n from 0. -/
def drawOf (w : Warp) (t n : Nat) : Nat := ((List.range (n + 1)).foldl (fun x _ => nextGen x) (w.genOf t)).toNat

/-- The rounding of a lane's n-th element. -/
def rndOf (w : Warp) (mode t n : Nat) : Rnd := { mode := mode, draw := if mode = 4 then drawOf w t n else 0 }

/-- The lanes of a list have each drawn n times. -/
def Warp.drawn (w : Warp) (mode : Nat) (lanes : List Nat) (n : Nat) : Warp :=
  if mode = 4 then
    { w with gen := lanes.foldl (fun g t => SMap.set t (BitVec.ofNat 32 (if n = 0 then (w.genOf t).toNat else drawOf w t (n - 1))) g) w.gen }
  else w

/-! ### Results -/

/-- The flags of a set of lanes. -/
def orFlags (m : Mask) (x : Lanes (Word × Flags)) : Flags := (lanesOf m).foldl (fun acc t => acc ||| (x.at t).2) 0

/-- Write a vector result to the acting lanes, one register or a pair (R135). -/
def Warp.setVec (w : Warp) (n : Nat) (wide : Bool) (m : Mask) (f : Nat → Word) : Warp :=
  let w1 := w.setV n m (fun t => (f t).setWidth 32)
  if wide then w1.setV (n + 1) m (fun t => (f t >>> 32).setWidth 32) else w1

/-- The latch of a vector result (R63); what the spec gives no value, the lanes that do not act and the upper half of a
32-bit result, is free (log 3). -/
def vecLatch (s : State) (m : Mask) (wide : Bool) (f : Nat → Word) : Latch × State :=
  let free (t : Nat) : Word := Config.freeValue (s.fresh * 128 + t)
  (.vector (Lanes.mk (fun t =>
    if m.getLsbD t then (if wide then f t else (f t &&& 0xFFFFFFFF) ||| (free t &&& 0xFFFFFFFF00000000)) else free t)),
   { s with fresh := s.fresh + 1 })

/-- A vector instruction's end: the destination, the flags, the draws, the latch. -/
def vecDone (s : State) (c : Ctx) (f : RWord) (wide : Bool) (mode draws : Nat) (res : Nat → Word × Flags) : Eff :=
  let w := s.warp c.wp
  let x : Lanes (Word × Flags) := Lanes.mk (fun t => if c.act.getLsbD t then res t else (0, 0))
  let val (t : Nat) : Word := (x.at t).1
  let w1 := (w.flag (orFlags c.act x)).drawn mode (lanesOf c.act) draws
  let w2 := if f.w then w1 else w1.setVec f.dst.toNat wide c.act val
  let (y, s1) := vecLatch (s.setWarp c.wp w2) c.act wide val
  .done s1 (some y)

/-- A class 0 result in an s register (R112). -/
def scalarDone (s : State) (c : Ctx) (dst : BitVec 9) (noWrite : Bool) (x : Word) : Eff :=
  onWarp s c (fun w => (if noWrite then w else w.setS (dst.toNat - 0x100) x, some (.uniform x)))

/-- A mask result in a k register (R112, R126). -/
def maskDone (s : State) (c : Ctx) (dst : BitVec 9) (noWrite : Bool) (m : Mask) : Eff :=
  onWarp s c (fun w => (if noWrite then w else w.setK dst.toNat m, some (.mask m)))

end Sys2Proof.Machine
end

