-- ==== Sys2Proof/Machine/Flags.lean ====
section
/-! DEFINITION. Every flag and field computation of the status and system registers: their values as SYSR reads them
and how each field takes a write (R86, R172, R190 to R193, R206, R245). -/

namespace Sys2Proof.Machine

def bitAt (b : Bool) (n : Nat) : Word := if b then 1#64 <<< n else 0

/-- STATUS as it reads (R192). -/
def statusWord (w : Warp) : Word :=
  bitAt w.sup 0 ||| bitAt w.psup 1 ||| bitAt w.inh 2 ||| bitAt w.itercap 8 ||| (BitVec.ofNat 64 w.pend.length <<< 12)

/-- A write of STATUS: psup in supervisor state, itercap cleared by a 1 (R192). -/
def writeStatus (w : Warp) (x : Word) : Warp :=
  { w with psup := if w.sup then x.getLsbD 1 else w.psup, itercap := w.itercap && !x.getLsbD 8 }

/-- FPMODE after a write: seed and ftz are set, a flag is cleared by a 1, the generators are reseeded (R86, R89). -/
def writeFpmode (w : Warp) (x : Word) : Warp :=
  let keep := w.fpmode &&& ~~~ x &&& 0xFE#64
  { w with
    fpmode := (x &&& 0xFFFFFFFF00008000#64) ||| keep
    gen := seedGens ((x >>> 32).setWidth 32) }

/-- The bits that FPMODE holds: seed, ftz and the flags; its reserved bits read 0 (R86). -/
def fpmodeMask : Word := 0xFFFFFFFF000080FE

/-- AGELIM's limit after a write (R172). -/
def agelimOf (x : Word) : Nat :=
  let n := x.toNat % 2 ^ 17
  if n = 0 then 1 else min n 65536

/-- PUSHQ's quota after a write (R245). -/
def pushqOf (x : Word) : Nat := min (x.toNat % 16) 8

/-- PUSHST (R245). -/
def pushstWord (k : Core) : Word :=
  BitVec.ofNat 64 (k.pushInstalled % 2 ^ 21 + k.pushRefused % 2 ^ 21 * 2 ^ 21 + k.pushRead % 2 ^ 21 * 2 ^ 42)

/-- The fields of TRAPVEC and of TRAPPC that a write sets (R193). -/
def trapvecMask : Word := 0xC00000FFFFFFFFFF#64
def trappcMask : Word := 0x0000FFFFFFFFFFFF#64

/-- The value of a system register (R190). -/
def sysRead (s : State) (wp n : Nat) : Word :=
  let w := s.warp wp
  let g := s.group w.grp
  match n with
  | 0x00 => statusWord w
  | 0x01 => BitVec.ofNat 64 w.role
  | 0x02 => BitVec.ofNat 64 (slotOf wp)
  | 0x03 => BitVec.ofNat 64 g.gid
  | 0x04 => BitVec.ofNat 64 g.launch
  | 0x05 => BitVec.ofNat 64 (coreOf wp)
  | 0x06 => BitVec.ofNat 64 (dieOf wp)
  | 0x08 => w.trapcause
  | 0x09 => w.trappc
  | 0x0A => w.trapinfo
  | 0x0B => w.trapvec
  | 0x0C => maskLo w.tlanes
  | 0x0D => maskHi w.tlanes
  | 0x0E => w.hsave0
  | 0x0F => w.hsave1
  | 0x10 => w.pxi
  | 0x11 => s.cycle
  | 0x12 => w.vtime
  | 0x13 => w.vtcmp
  | 0x14 => w.deadline
  | 0x15 => BitVec.ofNat 64 w.agelim
  | 0x16 => bitAt w.fair 0
  | 0x17 => w.fpmode
  | 0x18 => BitVec.ofNat 64 (s.core (coreOf wp)).pushq
  | 0x19 => pushstWord (s.core (coreOf wp))
  | 0x1A => BitVec.ofNat 64 (s.core (coreOf wp)).ct
  | 0x1B => w.trappxi
  | _ => 0

/-- A timer armed for a value `after` a clock's (R206). -/
def armedAt (clock after : Word) : Word :=
  if after = 0 then 0
  else BitVec.ofNat 64 (2 ^ 63 + min (clock.toNat + after.toNat % 2 ^ 63) (2 ^ 63 - 1))

/-- Has an armed timer reached its value (R206)? -/
def timerDue (timer clock : Word) : Bool := timer.getLsbD 63 && decide (timer.toNat % 2 ^ 63 ≤ clock.toNat)

end Sys2Proof.Machine
end

