-- ==== Sys2Proof/Machine/Scalar.lean ====
section
/-! DEFINITION. Class 0: scalar integer, scalar float, address and mask instructions (R108 to R129). The integer
operations take the type code and the n-bit codes of the operands and give the n-bit code of the result; the vector and
pair forms use them too. -/

namespace Sys2Proof.Machine

/-! ### Integer operations (R116 to R119, R137) -/

def intAdd (t a b : Nat) : Nat := wrapTo (typeBits t) ((a : Int) + b)
def intSub (t a b : Nat) : Nat := wrapTo (typeBits t) ((a : Int) - b)
def intMul (t a b : Nat) : Nat := wrapTo (typeBits t) ((a : Int) * b)
/-- The high n bits of the exact product. -/
def intMulh (t a b : Nat) : Nat := wrapTo (typeBits t) (typeVal t a * typeVal t b / 2 ^ typeBits t)
/-- Division toward zero, with the results of R117 for a zero divisor. -/
def intDiv (t a b : Nat) : Nat :=
  if b = 0 then wrapTo (typeBits t) (-1) else wrapTo (typeBits t) (Int.tdiv (typeVal t a) (typeVal t b))
def intRem (t a b : Nat) : Nat :=
  if b = 0 then a else wrapTo (typeBits t) (Int.tmod (typeVal t a) (typeVal t b))
def intAnd (_ a b : Nat) : Nat := a &&& b
def intOr (_ a b : Nat) : Nat := a ||| b
def intXor (_ a b : Nat) : Nat := a ^^^ b
/-- Shifts by an unsigned n-bit count (R118). -/
def intShl (t a b : Nat) : Nat := if typeBits t ≤ b then 0 else a * 2 ^ b % 2 ^ typeBits t
def intShr (t a b : Nat) : Nat := if typeBits t ≤ b then 0 else a / 2 ^ b
def intSar (t a b : Nat) : Nat := wrapTo (typeBits t) (toSigned (typeBits t) a / 2 ^ min b (typeBits t))
def intMin (t a b : Nat) : Nat := if typeVal t a ≤ typeVal t b then a else b
def intMax (t a b : Nat) : Nat := if typeVal t a ≤ typeVal t b then b else a
def intPopc (t a : Nat) : Nat := ((List.range (typeBits t)).filter (fun i => a / 2 ^ i % 2 = 1)).length
def intClz (t a : Nat) : Nat := if a = 0 then typeBits t else typeBits t - 1 - a.log2
/-- The part of a field inside n bits (R119). -/
def fieldWidth (n pos width : Nat) : Nat := if pos < n then min width (n - pos) else 0
/-- Extract a field, extended by the type (R119). -/
def intBfe (t a b c : Nat) : Nat :=
  let n := typeBits t
  let pos := b % 128
  let w := fieldWidth n pos (c % 128)
  let x := a / 2 ^ pos % 2 ^ w
  if w = 0 then 0 else if typeSigned t then wrapTo n (toSigned w x) else x
/-- Insert the low bits of a into d (R119). -/
def intBfi (t d a b c : Nat) : Nat :=
  let n := typeBits t
  let pos := b % 128
  let w := fieldWidth n pos (c % 128)
  let mask := (2 ^ w - 1) * 2 ^ pos
  ((d &&& (2 ^ n - 1 - mask % 2 ^ n)) ||| (a * 2 ^ pos % 2 ^ n &&& mask)) % 2 ^ n
/-- Does an integer condition hold (R114, R116)? -/
def intCond (cond : Nat) (a b : Int) : Bool :=
  match cond with
  | 0 => decide (a = b)
  | 1 => decide (a ≠ b)
  | 2 => decide (a < b)
  | 3 => decide (a ≤ b)
  | 4 => decide (b < a)
  | _ => decide (b ≤ a)

/-! ### Forms -/

/-- A two-source integer form. -/
def scalar2 (op : Nat → Nat → Nat → Nat) (f : RWord) (s : State) (c : Ctx) : Eff :=
  let w := s.warp c.wp
  let t := f.itype
  let n := typeBits t
  scalarDone s c f.dst f.w (extS t (op t (lowBits n (w.uni f.a)) (lowBits n (w.uni f.b))))

/-- A one-source integer form. -/
def scalar1 (op : Nat → Nat → Nat) (f : RWord) (s : State) (c : Ctx) : Eff :=
  let w := s.warp c.wp
  scalarDone s c f.dst f.w (extS f.itype (op f.itype (lowBits (typeBits f.itype) (w.uni f.a))))

/-- A counting form: a count is written as it is (R116). -/
def scalarCount (op : Nat → Nat → Nat) (f : RWord) (s : State) (c : Ctx) : Eff :=
  let w := s.warp c.wp
  scalarDone s c f.dst f.w (BitVec.ofNat 64 (op f.itype (lowBits (typeBits f.itype) (w.uni f.a))))

/-- An immediate form, of type `.i32` (R114, R116). -/
def scalarImm (op : Nat → Nat → Nat → Nat) (f : IWord) (s : State) (c : Ctx) : Eff :=
  let w := s.warp c.wp
  scalarDone s c f.dst f.w (extS 0 (op 0 (lowBits 32 (w.uni f.a)) f.imm.toNat))

/-- A scalar float result: placed in the low bits, upper bits cleared, flags set, lane 128 drawn (R120). -/
def scalarFDone (s : State) (c : Ctx) (f : RWord) (mode : Nat) (r : Nat × Flags) : Eff :=
  let w := ((s.warp c.wp).flag r.2).drawn mode [128] 1
  scalarDone (s.setWarp c.wp w) c f.dst f.w (BitVec.ofNat 64 r.1)

def boolWord (b : Bool) : Word := if b then 1 else 0

/-- SADD (R116). -/
def execSadd (f : RWord) (s : State) := issueR shS3 f (scalar2 intAdd f) s
/-- SSUB (R116). -/
def execSsub (f : RWord) (s : State) := issueR shS3 f (scalar2 intSub f) s
/-- SMUL (R116). -/
def execSmul (f : RWord) (s : State) := issueR shS3 f (scalar2 intMul f) s
/-- SMULH (R116). -/
def execSmulh (f : RWord) (s : State) := issueR shS3 f (scalar2 intMulh f) s
/-- SDIV (R117). -/
def execSdiv (f : RWord) (s : State) := issueR shS3 f (scalar2 intDiv f) s
/-- SREM (R117). -/
def execSrem (f : RWord) (s : State) := issueR shS3 f (scalar2 intRem f) s
/-- SAND (R116). -/
def execSand (f : RWord) (s : State) := issueR shS3 f (scalar2 intAnd f) s
/-- SOR (R116). -/
def execSor (f : RWord) (s : State) := issueR shS3 f (scalar2 intOr f) s
/-- SXOR (R116). -/
def execSxor (f : RWord) (s : State) := issueR shS3 f (scalar2 intXor f) s
/-- SSHL (R118). -/
def execSshl (f : RWord) (s : State) := issueR shS3 f (scalar2 intShl f) s
/-- SSHR (R118). -/
def execSshr (f : RWord) (s : State) := issueR shS3 f (scalar2 intShr f) s
/-- SSAR (R118). -/
def execSsar (f : RWord) (s : State) := issueR shS3 f (scalar2 intSar f) s
/-- SMIN (R116). -/
def execSmin (f : RWord) (s : State) := issueR shS3 f (scalar2 intMin f) s
/-- SMAX (R116). -/
def execSmax (f : RWord) (s : State) := issueR shS3 f (scalar2 intMax f) s
/-- SCMP (R116). -/
def execScmp (f : RWord) (s : State) := issueR (shScmp f) f (fun s c =>
  let w := s.warp c.wp
  let v (x : BitVec 9) : Int := typeVal f.itype (lowBits (typeBits f.itype) (w.uni x))
  scalarDone s c f.dst f.w (boolWord (intCond f.cond (v f.a) (v f.b)))) s
/-- SSEL (R116): C counts as nonzero when its 64-bit value is not 0. DEDUCED: log 133. -/
def execSsel (f : RWord) (s : State) := issueR shSsel f (fun s c =>
  let w := s.warp c.wp
  scalarDone s c f.dst f.w (if w.uni f.c ≠ 0 then w.uni f.a else w.uni f.b)) s
/-- SMOV (R116). -/
def execSmov (f : RWord) (s : State) := issueR shS2 f (scalar1 (fun _ a => a) f) s
/-- SPOPC (R116). -/
def execSpopc (f : RWord) (s : State) := issueR shS2 f (scalarCount intPopc f) s
/-- SCLZ (R116). -/
def execSclz (f : RWord) (s : State) := issueR shS2 f (scalarCount intClz f) s
/-- SBFE (R119). -/
def execSbfe (f : RWord) (s : State) := issueR shSbf f (fun s c =>
  let w := s.warp c.wp
  let t := f.itype
  scalarDone s c f.dst f.w (extS t (intBfe t (lowBits (typeBits t) (w.uni f.a)) (w.uni f.b).toNat (w.uni f.c).toNat))) s
/-- SBFI (R119). -/
def execSbfi (f : RWord) (s : State) := issueR shSbfi f (fun s c =>
  let w := s.warp c.wp
  let t := f.itype
  let low (x : Word) : Nat := lowBits (typeBits t) x
  scalarDone s c f.dst f.w
    (extS t (intBfi t (low (w.uni f.dst)) (low (w.uni f.a)) (w.uni f.b).toNat (w.uni f.c).toNat))) s
/-- SFADD (R121). -/
def execSfadd (f : RWord) (s : State) := issueR (shSf2 f) f (fun s c =>
  let w := s.warp c.wp
  let F := ftypeS f.vtype
  scalarFDone s c f f.rnd (F.add (rndOf w f.rnd 128 0) w.ftz (w.uniF F f.a) (w.uniF F f.b))) s
/-- SFMUL (R121). -/
def execSfmul (f : RWord) (s : State) := issueR (shSf2 f) f (fun s c =>
  let w := s.warp c.wp
  let F := ftypeS f.vtype
  scalarFDone s c f f.rnd (F.mul (rndOf w f.rnd 128 0) w.ftz (w.uniF F f.a) (w.uniF F f.b))) s
/-- SFFMA (R121). -/
def execSffma (f : RWord) (s : State) := issueR (shSf3 f) f (fun s c =>
  let w := s.warp c.wp
  let F := ftypeS f.vtype
  scalarFDone s c f f.rnd (F.fma (rndOf w f.rnd 128 0) w.ftz (w.uniF F f.a) (w.uniF F f.b) (w.uniF F f.c))) s
/-- SFCMP (R122). -/
def execSfcmp (f : RWord) (s : State) := issueR (shSfcmp f) f (fun s c =>
  let w := s.warp c.wp
  let F := ftypeS f.vtype
  let r := F.compare w.ftz f.fcond (w.uniF F f.a) (w.uniF F f.b)
  scalarFDone s c f 0 ((boolWord r.1).toNat, r.2)) s

/-- A conversion of R123 from the type of one code to that of another: the n-bit code of the result, and its flags. -/
def convertType (dst src : Nat) (r : Rnd) (ftz : Bool) (x : Nat) : Nat × Flags :=
  match ctypeF dst, ctypeF src with
  | none, none => (wrapTo (typeBits (ctypeI dst)) (typeVal (ctypeI src) x), 0)
  | some F, none => F.ofInt r ftz (typeVal (ctypeI src) x)
  | some F, some G => G.convert F r ftz x
  | none, some G =>
    let t := ctypeI dst
    let y := G.toInt r ftz (typeSigned t) (typeBits t) x
    (wrapTo (typeBits t) y.1, y.2)

/-- The width of a conversion type code. -/
def ctypeBits (c : Nat) : Nat :=
  match ctypeF c with
  | some F => F.width
  | none => typeBits (ctypeI c)

/-- Is a conversion without rounding (R123): integer to integer? Then `.rs` makes no draw. DEDUCED: log 21. -/
def convertRounds (dst src : Nat) : Bool := (ctypeF dst).isSome || (ctypeF src).isSome

/-- SCVT (R123). -/
def execScvt (f : RWord) (s : State) := issueR (shScvt f) f (fun s c =>
  let w := s.warp c.wp
  let dst := f.mod 5 3
  let src := f.mod 8 6
  let mode := if convertRounds dst src then f.rnd else 0
  let x := match ctypeF src with
    | some F => w.uniF F f.a
    | none => lowBits (ctypeBits src) (w.uni f.a)
  let r := convertType dst src (rndOf w mode 128 0) w.ftz x
  let y := if (ctypeF dst).isSome then r.1 else (extS (ctypeI dst) r.1).toNat
  scalarFDone s c f mode (y, r.2)) s

/-- An address result (R112, R124). -/
def addrDone (s : State) (c : Ctx) (dst : BitVec 9) (noWrite : Bool) (x : Addr) : Eff :=
  onWarp s c (fun w => (if noWrite then w else w.setA (dst.toNat - 0x144) x, some (.uniform (x.setWidth 64))))

/-- AADD (R124). -/
def execAadd (f : RWord) (s : State) := issueR shAadd f (fun s c =>
  let w := s.warp c.wp
  addrDone s c f.dst f.w (w.areg f.a + (w.uni f.b).signExtend 80)) s
/-- AMOV (R124). -/
def execAmov (f : RWord) (s : State) := issueR shAmov f (fun s c =>
  addrDone s c f.dst f.w ((s.warp c.wp).areg f.a)) s
/-- AJOIN (R124). -/
def execAjoin (f : RWord) (s : State) := issueR shAjoin f (fun s c =>
  let w := s.warp c.wp
  addrDone s c f.dst f.w (((w.uni f.b).setWidth 80 <<< 64) ||| (w.uni f.a).setWidth 80)) s
/-- ASPLIT (R124). -/
def execAsplit (f : RWord) (s : State) := issueR shAsplit f (fun s c =>
  let x := (s.warp c.wp).areg f.a
  scalarDone s c f.dst f.w (if f.m.getLsbD 0 then (x >>> 64).setWidth 64 else x.setWidth 64)) s
/-- ACMP (R124). -/
def execAcmp (f : RWord) (s : State) := issueR (shAcmp f) f (fun s c =>
  let w := s.warp c.wp
  scalarDone s c f.dst f.w (boolWord (intCond f.cond (w.areg f.a).toNat (w.areg f.b).toNat))) s

/-- A two-source mask form (R127). -/
def mask2 (op : Mask → Mask → Mask) (f : RWord) (s : State) (c : Ctx) : Eff :=
  let w := s.warp c.wp
  maskDone s c f.dst f.w (op (w.k c.sp.mask f.a.toNat) (w.k c.sp.mask f.b.toNat))

/-- KAND (R127). -/
def execKand (f : RWord) (s : State) := issueR shK3 f (mask2 (· &&& ·) f) s
/-- KOR (R127). -/
def execKor (f : RWord) (s : State) := issueR shK3 f (mask2 (· ||| ·) f) s
/-- KXOR (R127). -/
def execKxor (f : RWord) (s : State) := issueR shK3 f (mask2 (· ^^^ ·) f) s
/-- KANDN (R127). -/
def execKandn (f : RWord) (s : State) := issueR shK3 f (mask2 (fun a b => a &&& ~~~ b) f) s
/-- KNOT (R127). -/
def execKnot (f : RWord) (s : State) := issueR shK2 f (mask2 (fun a _ => ~~~ a) f) s
/-- KMOV (R127). -/
def execKmov (f : RWord) (s : State) := issueR shK2 f (mask2 (fun a _ => a) f) s
/-- KPOPC (R127). -/
def execKpopc (f : RWord) (s : State) := issueR shKcount f (fun s c =>
  scalarDone s c f.dst f.w (BitVec.ofNat 64 (popcount ((s.warp c.wp).k c.sp.mask f.a.toNat)))) s
/-- KFIRST (R127). -/
def execKfirst (f : RWord) (s : State) := issueR shKcount f (fun s c =>
  scalarDone s c f.dst f.w (BitVec.ofNat 64 (lowest ((s.warp c.wp).k c.sp.mask f.a.toNat)))) s
/-- KSET (R127). -/
def execKset (f : RWord) (s : State) := issueR shKset f (fun s c =>
  let w := s.warp c.wp
  maskDone s c f.dst f.w (((w.uni f.b).setWidth 128 <<< 64) ||| (w.uni f.a).setWidth 128)) s
/-- KGET (R127). -/
def execKget (f : RWord) (s : State) := issueR shKget f (fun s c =>
  let m := (s.warp c.wp).k c.sp.mask f.a.toNat
  scalarDone s c f.dst f.w (if f.m.getLsbD 0 then maskHi m else maskLo m)) s

/-- SADD, immediate (R116). -/
def execSaddImm (f : IWord) (s : State) := issueI shSimm f (scalarImm intAdd f) s
/-- SSUB, immediate (R116). -/
def execSsubImm (f : IWord) (s : State) := issueI shSimm f (scalarImm intSub f) s
/-- SMUL, immediate (R116). -/
def execSmulImm (f : IWord) (s : State) := issueI shSimm f (scalarImm intMul f) s
/-- SAND, immediate (R116). -/
def execSandImm (f : IWord) (s : State) := issueI shSimm f (scalarImm intAnd f) s
/-- SOR, immediate (R116). -/
def execSorImm (f : IWord) (s : State) := issueI shSimm f (scalarImm intOr f) s
/-- SXOR, immediate (R116). -/
def execSxorImm (f : IWord) (s : State) := issueI shSimm f (scalarImm intXor f) s
/-- SSHL, immediate (R118). -/
def execSshlImm (f : IWord) (s : State) := issueI shSimm f (scalarImm intShl f) s
/-- SSHR, immediate (R118). -/
def execSshrImm (f : IWord) (s : State) := issueI shSimm f (scalarImm intShr f) s
/-- SSAR, immediate (R118). -/
def execSsarImm (f : IWord) (s : State) := issueI shSimm f (scalarImm intSar f) s
/-- SMIN, immediate (R116). -/
def execSminImm (f : IWord) (s : State) := issueI shSimm f (scalarImm intMin f) s
/-- SMAX, immediate (R116). -/
def execSmaxImm (f : IWord) (s : State) := issueI shSimm f (scalarImm intMax f) s
/-- SCMP, immediate: type `.i32`, condition `.eq` (R114). -/
def execScmpImm (f : IWord) (s : State) := issueI shSimm f (fun s c =>
  scalarDone s c f.dst f.w (boolWord (lowBits 32 ((s.warp c.wp).uni f.a) == f.imm.toNat))) s
/-- SLI (R116). -/
def execSli (f : IWord) (s : State) := issueI shSli f (fun s c => scalarDone s c f.dst f.w (f.imm.signExtend 64)) s
/-- SLIH (R116). -/
def execSlih (f : IWord) (s : State) := issueI shSlih f (fun s c =>
  scalarDone s c f.dst f.w ((f.imm.setWidth 64 <<< 32) ||| ((s.warp c.wp).uni f.dst &&& 0xFFFFFFFF))) s
/-- AADDI (R124). -/
def execAaddi (f : IWord) (s : State) := issueI shAaddi f (fun s c =>
  addrDone s c f.dst f.w ((s.warp c.wp).areg f.a + f.imm.signExtend 80)) s

end Sys2Proof.Machine
end

