-- ==== Sys2Proof/Machine/Vector.lean ====
section
/-! DEFINITION. Class 1: vector integer instructions (R130 to R138), over the integer operations of class 0. -/

namespace Sys2Proof.Machine

/-- The n-bit code of a source at a lane. -/
def Warp.vint (w : Warp) (t : Nat) (c : BitVec 9) (lane : Nat) : Nat :=
  lowBits (typeBits t) (w.vsrc (wideI t) c lane)

/-- A result of a type clamped to its range (R137). -/
def clampTo (t : Nat) (x : Int) : Nat :=
  let n := typeBits t
  let lo : Int := if typeSigned t then -(2 ^ (n - 1)) else 0
  let hi : Int := if typeSigned t then 2 ^ (n - 1) - 1 else 2 ^ n - 1
  wrapTo n (max lo (min hi x))

/-- Addition and subtraction that clamp. -/
def intAddSat (t a b : Nat) : Nat := clampTo t (typeVal t a + typeVal t b)
def intSubSat (t a b : Nat) : Nat := clampTo t (typeVal t a - typeVal t b)
def intMad (t a b c : Nat) : Nat := wrapTo (typeBits t) ((a : Int) * b + c)
def intNot (t a : Nat) : Nat := 2 ^ typeBits t - 1 - a
/-- |A|, and its clamped form (R137). -/
def intAbs (t a : Nat) : Nat := wrapTo (typeBits t) (typeVal t a).natAbs
def intAbsSat (t a : Nat) : Nat := clampTo t (typeVal t a).natAbs
def intNeg (t a : Nat) : Nat := wrapTo (typeBits t) (-(a : Int))
def intNegSat (t a : Nat) : Nat := clampTo t (-typeVal t a)

/-- A per-lane form over n-bit codes. -/
def vectorInt (f : RWord) (s : State) (c : Ctx) (res : Warp → Nat → Nat) : Eff :=
  let w := s.warp c.wp
  vecDone s c f (wideI f.itype) 0 0 (fun t => (extV f.itype (res w t), 0))

def vector2 (op : Nat → Nat → Nat → Nat) (f : RWord) (s : State) (c : Ctx) : Eff :=
  vectorInt f s c (fun w t => op f.itype (w.vint f.itype f.a t) (w.vint f.itype f.b t))

def vector1 (op : Nat → Nat → Nat) (f : RWord) (s : State) (c : Ctx) : Eff :=
  vectorInt f s c (fun w t => op f.itype (w.vint f.itype f.a t))

/-- An immediate form, of type `.i32` without saturation (R136). -/
def vectorImm (op : Nat → Nat → Nat → Nat) (f : IWord) (s : State) (c : Ctx) : Eff :=
  vectorInt (immR f) s c (fun w t => op 0 (w.vint 0 f.a t) f.imm.toNat)

/-- The saturation bit (R136). -/
def satBit (f : RWord) : Bool := f.m.getLsbD 7

/-- A comparison that writes all 128 bits of a k register (R138, R143), with its flags. -/
def compareDone (s : State) (c : Ctx) (f : RWord) (res : Warp → Nat → Bool × Flags) : Eff :=
  let w := s.warp c.wp
  let x : Lanes (Word × Flags) :=
    Lanes.mk (fun t => if c.act.getLsbD t then (boolWord (res w t).1, (res w t).2) else (0, 0))
  let m := maskOf ((lanesOf c.act).filter (fun t => (x.at t).1 ≠ 0))
  maskDone (s.setWarp c.wp (w.flag (orFlags c.act x))) c f.dst f.w m

/-- VADD (R137). -/
def execVadd (f : RWord) (s : State) :=
  issueR (shV3sat f) f (vector2 (if satBit f then intAddSat else intAdd) f) s
/-- VSUB (R137). -/
def execVsub (f : RWord) (s : State) :=
  issueR (shV3sat f) f (vector2 (if satBit f then intSubSat else intSub) f) s
/-- VMUL (R137). -/
def execVmul (f : RWord) (s : State) := issueR (shV3 f) f (vector2 intMul f) s
/-- VMULH (R137). -/
def execVmulh (f : RWord) (s : State) := issueR (shV3 f) f (vector2 intMulh f) s
/-- VAND (R137). -/
def execVand (f : RWord) (s : State) := issueR (shV3 f) f (vector2 intAnd f) s
/-- VOR (R137). -/
def execVor (f : RWord) (s : State) := issueR (shV3 f) f (vector2 intOr f) s
/-- VXOR (R137). -/
def execVxor (f : RWord) (s : State) := issueR (shV3 f) f (vector2 intXor f) s
/-- VSHL (R137). -/
def execVshl (f : RWord) (s : State) := issueR (shV3 f) f (vector2 intShl f) s
/-- VSHR (R137). -/
def execVshr (f : RWord) (s : State) := issueR (shV3 f) f (vector2 intShr f) s
/-- VSAR (R137). -/
def execVsar (f : RWord) (s : State) := issueR (shV3 f) f (vector2 intSar f) s
/-- VMIN (R137). -/
def execVmin (f : RWord) (s : State) := issueR (shV3 f) f (vector2 intMin f) s
/-- VMAX (R137). -/
def execVmax (f : RWord) (s : State) := issueR (shV3 f) f (vector2 intMax f) s
/-- VMAD (R137). -/
def execVmad (f : RWord) (s : State) := issueR (shV4 f) f (fun s c => vectorInt f s c (fun w t =>
  intMad f.itype (w.vint f.itype f.a t) (w.vint f.itype f.b t) (w.vint f.itype f.c t))) s
/-- VNOT (R137). -/
def execVnot (f : RWord) (s : State) := issueR (shV2 f) f (vector1 intNot f) s
/-- VABS (R137). -/
def execVabs (f : RWord) (s : State) := issueR (shV2sat f) f (vector1 (if satBit f then intAbsSat else intAbs) f) s
/-- VNEG (R137). -/
def execVneg (f : RWord) (s : State) := issueR (shV2sat f) f (vector1 (if satBit f then intNegSat else intNeg) f) s
/-- VMOV (R137). -/
def execVmov (f : RWord) (s : State) := issueR (shV2 f) f (vector1 (fun _ a => a) f) s
/-- VPOPC (R137): a count below 65, written as it is. -/
def execVpopc (f : RWord) (s : State) := issueR (shV2 f) f (fun s c =>
  let w := s.warp c.wp
  vecDone s c f (wideI f.itype) 0 0 (fun t => (BitVec.ofNat 64 (intPopc f.itype (w.vint f.itype f.a t)), 0))) s
/-- VCLZ (R137): a count below 65, written as it is. -/
def execVclz (f : RWord) (s : State) := issueR (shV2 f) f (fun s c =>
  let w := s.warp c.wp
  vecDone s c f (wideI f.itype) 0 0 (fun t => (BitVec.ofNat 64 (intClz f.itype (w.vint f.itype f.a t)), 0))) s
/-- VBFE (R137). -/
def execVbfe (f : RWord) (s : State) := issueR (shV4 f) f (fun s c => vectorInt f s c (fun w t =>
  intBfe f.itype (w.vint f.itype f.a t) (w.vsrc (wideI f.itype) f.b t).toNat (w.vsrc (wideI f.itype) f.c t).toNat)) s
/-- VBFI (R137): vD is read. -/
def execVbfi (f : RWord) (s : State) := issueR (shVbfi f) f (fun s c => vectorInt f s c (fun w t =>
  intBfi f.itype (w.vint f.itype f.dst t) (w.vint f.itype f.a t) (w.vsrc (wideI f.itype) f.b t).toNat
    (w.vsrc (wideI f.itype) f.c t).toNat)) s
/-- VLANE (R137). -/
def execVlane (f : RWord) (s : State) := issueR shVlane f (fun s c =>
  let w := s.warp c.wp
  vecDone s c f false 0 0 (fun t => (BitVec.ofNat 64 ((t + lowBits 32 (w.vsrc false f.a t)) % 2 ^ 32), 0))) s
/-- VCMP (R138). -/
def execVcmp (f : RWord) (s : State) := issueR (shVcmp f) f (fun s c => compareDone s c f (fun w t =>
  (intCond f.cond (typeVal f.itype (w.vint f.itype f.a t)) (typeVal f.itype (w.vint f.itype f.b t)), 0))) s
/-- VSEL (R137). -/
def execVsel (f : RWord) (s : State) := issueR shVsel f (fun s c =>
  let w := s.warp c.wp
  let k := w.k c.sp.mask f.c.toNat
  vecDone s c f false 0 0 (fun t => (if k.getLsbD t then w.vsrc false f.a t else w.vsrc false f.b t, 0))) s

/-- VADD, immediate (R137). -/
def execVaddImm (f : IWord) (s : State) := issueI shVimm f (vectorImm intAdd f) s
/-- VSUB, immediate (R137). -/
def execVsubImm (f : IWord) (s : State) := issueI shVimm f (vectorImm intSub f) s
/-- VMUL, immediate (R137). -/
def execVmulImm (f : IWord) (s : State) := issueI shVimm f (vectorImm intMul f) s
/-- VAND, immediate (R137). -/
def execVandImm (f : IWord) (s : State) := issueI shVimm f (vectorImm intAnd f) s
/-- VOR, immediate (R137). -/
def execVorImm (f : IWord) (s : State) := issueI shVimm f (vectorImm intOr f) s
/-- VXOR, immediate (R137). -/
def execVxorImm (f : IWord) (s : State) := issueI shVimm f (vectorImm intXor f) s
/-- VSHL, immediate (R137). -/
def execVshlImm (f : IWord) (s : State) := issueI shVimm f (vectorImm intShl f) s
/-- VSHR, immediate (R137). -/
def execVshrImm (f : IWord) (s : State) := issueI shVimm f (vectorImm intShr f) s
/-- VSAR, immediate (R137). -/
def execVsarImm (f : IWord) (s : State) := issueI shVimm f (vectorImm intSar f) s
/-- VMIN, immediate (R137). -/
def execVminImm (f : IWord) (s : State) := issueI shVimm f (vectorImm intMin f) s
/-- VMAX, immediate (R137). -/
def execVmaxImm (f : IWord) (s : State) := issueI shVimm f (vectorImm intMax f) s
/-- VCMP, immediate: type `.i32`, condition `.eq` (R136, R138). -/
def execVcmpImm (f : IWord) (s : State) := issueI shVcmpImm f (fun s c => compareDone s c (immR f) (fun w t =>
  (w.vint 0 f.a t == f.imm.toNat, 0))) s
/-- VMOV, immediate (R137). -/
def execVmovImm (f : IWord) (s : State) := issueI shVmovImm f (fun s c =>
  vecDone s c (immR f) false 0 0 (fun _ => (f.imm.setWidth 64, 0))) s

end Sys2Proof.Machine
end

