-- ==== Sys2Proof/Machine/Float.lean ====
section
/-! DEFINITION. Class 2: vector float and packed instructions (R139 to R145). -/

namespace Sys2Proof.Machine

/-- A per-lane float form that rounds once. -/
def floatForm (f : RWord) (mode : Nat) (res : Warp → Fmt → Rnd → Nat → Nat × Flags) (s : State) (c : Ctx) : Eff :=
  let w := s.warp c.wp
  let F := ftypeV f.vtype
  vecDone s c f (wideF f.vtype) mode 1 (fun t =>
    let r := res w F (rndOf w mode t 0) t
    (BitVec.ofNat 64 r.1, r.2))

def float2 (op : Fmt → Rnd → Bool → Nat → Nat → Nat × Flags) (f : RWord) (s : State) (c : Ctx) : Eff :=
  floatForm f f.rnd (fun w F r t => op F r w.ftz (w.vsrcF F f.a t) (w.vsrcF F f.b t)) s c

def float1 (op : Fmt → Rnd → Bool → Nat → Nat × Flags) (f : RWord) (s : State) (c : Ctx) : Eff :=
  floatForm f f.rnd (fun w F r t => op F r w.ftz (w.vsrcF F f.a t)) s c

/-- FMIN or FMAX, which do not round (R142). -/
def floatMinmax (isMax : Bool) (f : RWord) (s : State) (c : Ctx) : Eff :=
  floatForm f 0 (fun w F _ t => F.minmax w.ftz isMax (w.vsrcF F f.a t) (w.vsrcF F f.b t)) s c

/-- An immediate form: type `.f32`, mode `.rn`, B an FP32 bit pattern (R55, R75). -/
def floatImm (op : Fmt → Rnd → Bool → Nat → Nat → Nat × Flags) (f : IWord) (s : State) (c : Ctx) : Eff :=
  floatForm (immR f) 0 (fun w F r t => op F r w.ftz (w.vsrcF F f.a t) f.imm.toNat) s c

/-- FADD (R140). -/
def execFadd (f : RWord) (s : State) := issueR (shF3 f) f (float2 Fmt.add f) s
/-- FSUB (R140). -/
def execFsub (f : RWord) (s : State) := issueR (shF3 f) f (float2 Fmt.sub f) s
/-- FMUL (R140). -/
def execFmul (f : RWord) (s : State) := issueR (shF3 f) f (float2 Fmt.mul f) s
/-- FDIV (R140). -/
def execFdiv (f : RWord) (s : State) := issueR (shF3 f) f (float2 Fmt.div f) s
/-- FFMA (R140). -/
def execFfma (f : RWord) (s : State) := issueR (shF4 f) f (floatForm f f.rnd (fun w F r t =>
  F.fma r w.ftz (w.vsrcF F f.a t) (w.vsrcF F f.b t) (w.vsrcF F f.c t))) s
/-- FMIN (R142). -/
def execFmin (f : RWord) (s : State) := issueR (shFmin f) f (floatMinmax false f) s
/-- FMAX (R142). -/
def execFmax (f : RWord) (s : State) := issueR (shFmin f) f (floatMinmax true f) s
/-- FABS (R142): the sign bit only. -/
def execFabs (f : RWord) (s : State) := issueR (shFabs f) f (floatForm f 0 (fun w F _ t =>
  (w.vsrcF F f.a t % 2 ^ (F.width - 1), 0))) s
/-- FNEG (R142): the sign bit only. -/
def execFneg (f : RWord) (s : State) := issueR (shFabs f) f (floatForm f 0 (fun w F _ t =>
  (F.negate (w.vsrcF F f.a t), 0))) s
/-- FCMP (R143). -/
def execFcmp (f : RWord) (s : State) := issueR (shFcmp f) f (fun s c => compareDone s c f (fun w t =>
  let F := ftypeV f.vtype
  F.compare w.ftz f.fcond (w.vsrcF F f.a t) (w.vsrcF F f.b t))) s
/-- FRCP (R140, R141). -/
def execFrcp (f : RWord) (s : State) := issueR (shF2 f) f (float1 Fmt.recip f) s
/-- FRSQ (R140, R141). -/
def execFrsq (f : RWord) (s : State) := issueR (shF2 f) f (float1 Fmt.rsqrt f) s
/-- FSQRT (R140, R141). -/
def execFsqrt (f : RWord) (s : State) := issueR (shF2 f) f (float1 Fmt.sqrt f) s
/-- FEXP2 (R140, R141). -/
def execFexp2 (f : RWord) (s : State) := issueR (shF2 f) f (float1 Fmt.exp2 f) s
/-- FLOG2 (R140, R141). -/
def execFlog2 (f : RWord) (s : State) := issueR (shF2 f) f (float1 Fmt.log2 f) s
/-- FSIN (R140, R141). -/
def execFsin (f : RWord) (s : State) := issueR (shF2 f) f (float1 (fun F => F.sinCos false) f) s
/-- FCOS (R140, R141). -/
def execFcos (f : RWord) (s : State) := issueR (shF2 f) f (float1 (fun F => F.sinCos true) f) s
/-- FRND (R140, R141). -/
def execFrnd (f : RWord) (s : State) := issueR (shF2 f) f (float1 Fmt.integral f) s

/-! ### Packed forms (R144) -/

/-- The format of pf (R139). -/
def packedFmt (f : RWord) : Fmt := if f.m.getLsbD 3 then bf16 else f16

/-- Element j of a packed source at a lane; an inline constant is converted and used for both. -/
def Warp.packed (w : Warp) (F : Fmt) (c : BitVec 9) (t j : Nat) : Nat :=
  if isInline c then F.ofInline c else (w.vsrc false c t).toNat / 2 ^ (16 * j) % 2 ^ 16

/-- A packed form: element 0 is computed and draws before element 1. -/
def packedForm (f : RWord) (mode : Nat) (op : Warp → Rnd → Nat → Nat → Nat × Flags) (s : State) (c : Ctx) : Eff :=
  let w := s.warp c.wp
  vecDone s c f false mode 2 (fun t =>
    let r0 := op w (rndOf w mode t 0) t 0
    let r1 := op w (rndOf w mode t 1) t 1
    (BitVec.ofNat 64 (r0.1 + r1.1 * 2 ^ 16), r0.2 ||| r1.2))

/-- HADD2 (R144). -/
def execHadd2 (f : RWord) (s : State) := issueR (shH3 f) f (packedForm f f.rnd (fun w r t j =>
  (packedFmt f).add r w.ftz (w.packed (packedFmt f) f.a t j) (w.packed (packedFmt f) f.b t j))) s
/-- HMUL2 (R144). -/
def execHmul2 (f : RWord) (s : State) := issueR (shH3 f) f (packedForm f f.rnd (fun w r t j =>
  (packedFmt f).mul r w.ftz (w.packed (packedFmt f) f.a t j) (w.packed (packedFmt f) f.b t j))) s
/-- HFMA2 (R144). -/
def execHfma2 (f : RWord) (s : State) := issueR (shH4 f) f (packedForm f f.rnd (fun w r t j =>
  (packedFmt f).fma r w.ftz (w.packed (packedFmt f) f.a t j) (w.packed (packedFmt f) f.b t j)
    (w.packed (packedFmt f) f.c t j))) s

/-! ### Dot products (R145) -/

/-- The narrow element code of R146 for a VDOT4 format code: INT8, E4M3F, E5M2F. -/
def dotCode (c : Nat) : Nat :=
  match c with
  | 0 => 5
  | 1 => 0
  | _ => 1

/-- The exact sum of finite products, as a sign, a magnitude and an exponent. -/
def dotSum (prods : List (FV × FV)) : Bool × Nat × Int :=
  prods.foldl (fun acc p =>
    match p with
    | (.fin n1 m1 e1, .fin n2 m2 e2) => exactSum acc.1 acc.2.1 acc.2.2 (n1 != n2) (m1 * m2) (e1 + e2)
    | _ => acc) (false, 0, 0)

/-- C + S rounded once to FP32: the sign of an exact zero sum is +0, or −0 toward −∞ (R88), unless C is −0 and S is an
empty sum of zeros, which is +0. -/
def dotRound (r : Rnd) (ftz : Bool) (cc : Nat) (sum : Bool × Nat × Int) : Nat × Flags :=
  let v := f32.readZ ftz cc
  match nanResult f32 [v] with
  | some x => x
  | none =>
    match v with
    | .inf neg => (f32.infinity neg, 0)
    | .fin n1 m1 e1 =>
      let (neg, m, e) := exactSum n1 m1 e1 sum.1 sum.2.1 sum.2.2
      f32.round r ftz (sumSign r n1 (sum.1 && sum.2.1 != 0) neg m) m e false
    | _ => (f32.defaultNan, 0)

/-- VDOT4 (R145): the integer form wraps modulo 2^32 and sets no flag. An inline constant is taken as its bits. DEDUCED: log 134. -/
def execVdot4 (f : RWord) (s : State) := issueR (shVdot4 f) f (fun s c =>
  let w := s.warp c.wp
  let af := f.mod 4 3
  let bf := f.mod 6 5
  let isInt := af == 0 && bf == 0
  let el (x : BitVec 9) (fm t j : Nat) : FV := narrowValue (dotCode fm) ((w.vsrc false x t).toNat / 2 ^ (8 * j) % 256)
  let prods (t : Nat) := (List.range 4).map (fun j => (el f.a af t j, el f.b bf t j))
  vecDone s c f false f.rnd 1 (fun t =>
    if isInt then
      let sum := dotSum (prods t)
      let v : Int := (if sum.1 then -1 else 1) * ((sum.2.1 * 2 ^ sum.2.2.toNat : Nat) : Int)
      (BitVec.ofNat 64 (wrapTo 32 ((lowBits 32 (w.vsrc false f.c t) : Int) + v)), 0)
    else
      let r := dotRound (rndOf w f.rnd t 0) w.ftz (w.vsrcF f32 f.c t) (dotSum (prods t))
      (BitVec.ofNat 64 r.1, r.2))) s
/-- VDOT8 (R145). DEDUCED: log 134. -/
def execVdot8 (f : RWord) (s : State) := issueR (shVdot8 f) f (fun s c =>
  let w := s.warp c.wp
  let el (x : BitVec 9) (t j : Nat) : FV := e2m1f.read ((w.vsrc false x t).toNat / 2 ^ (4 * j) % 16)
  let prods (t : Nat) := (List.range 8).map (fun j => (el f.a t j, el f.b t j))
  vecDone s c f false f.rnd 1 (fun t =>
    let r := dotRound (rndOf w f.rnd t 0) w.ftz (w.vsrcF f32 f.c t) (dotSum (prods t))
    (BitVec.ofNat 64 r.1, r.2))) s

/-- FADD_IMM (R75, R140, R142). -/
def execFaddImm (f : IWord) (s : State) := issueI shVimm f (floatImm Fmt.add f) s
/-- FSUB_IMM (R75, R140, R142). -/
def execFsubImm (f : IWord) (s : State) := issueI shVimm f (floatImm Fmt.sub f) s
/-- FMUL_IMM (R75, R140, R142). -/
def execFmulImm (f : IWord) (s : State) := issueI shVimm f (floatImm Fmt.mul f) s
/-- FMIN_IMM (R75, R140, R142). -/
def execFminImm (f : IWord) (s : State) := issueI shVimm f (floatImm (fun F _ z a b => F.minmax z false a b) f) s
/-- FMAX_IMM (R75, R140, R142). -/
def execFmaxImm (f : IWord) (s : State) := issueI shVimm f (floatImm (fun F _ z a b => F.minmax z true a b) f) s
/-- FCMP_IMM: condition `.eq` (R55, R143). -/
def execFcmpImm (f : IWord) (s : State) := issueI shVcmpImm f (fun s c => compareDone s c (immR f) (fun w t =>
  f32.compare w.ftz 0 (w.vsrcF f32 f.a t) f.imm.toNat)) s

end Sys2Proof.Machine
end

