-- ==== Sys2Proof/Machine/Convert.lean ====
section
/-! DEFINITION. Class 3, conversions (R146 to R150). -/

namespace Sys2Proof.Machine

/-- CVT (R147): as SCVT, per lane. -/
def execCvt (f : RWord) (s : State) := issueR (shCvt f) f (fun s c =>
  let w := s.warp c.wp
  let dst := f.mod 5 3
  let src := f.mod 8 6
  let mode := if convertRounds dst src then f.rnd else 0
  vecDone s c f (wideC dst) mode 1 (fun t =>
    let x := match ctypeF src with
      | some F => w.vsrcF F f.a t
      | none => lowBits (ctypeBits src) (w.vsrc (wideC src) f.a t)
    let r := convertType dst src (rndOf w mode t 0) w.ftz x
    (if (ctypeF dst).isSome then BitVec.ofNat 64 r.1 else extV (ctypeI dst) r.1, r.2))) s

/-- CVTS (R148). `.from` takes an inline constant as its bits. DEDUCED: log 134. -/
def execCvts (f : RWord) (s : State) := issueR (shCvts f) f (fun s c =>
  let w := s.warp c.wp
  let nf := f.mod 5 3
  let code (t : Nat) : Int := (lowBits 8 (w.vsrc false f.b t) : Int)
  if f.mod 7 7 == 0 then
    let F := if f.mod 6 6 == 1 then f64 else f32
    vecDone s c f false f.rnd 1 (fun t =>
      let v := (F.read (w.vsrcF F f.a t)).scale (127 - code t)
      let r := convertNarrow nf (rndOf w f.rnd t 0) v
      (BitVec.ofNat 64 r.1, r.2))
  else
    vecDone s c f true 0 0 (fun t =>
      (BitVec.ofNat 64 (f64.exact ((narrowValue nf (w.vsrc false f.a t).toNat).scale (code t - 127))), 0))) s

/-! ### Blocks (R149, R150) -/

/-- The width of a field of CVTP: an 8-bit container, or 4 bits for E2M1F. -/
def fieldBits (nf : Nat) : Nat := if nf == 4 then 4 else 8

/-- The further registers of CVTP's blocks. -/
def cvtpRegs (f : RWord) : List Nat :=
  let m := cvtpBlock (f.mod 5 3)
  if f.mod 7 7 == 0 then (List.range m).map (fun j => f.a.toNat + j)
  else if f.w then [] else (List.range m).map (fun j => f.dst.toNat + j)

/-- The bytes of a bit-plane block of values q (R100). -/
def planeByte (q : Nat → Nat) (b : Nat) : Nat :=
  let j := b / 16
  let i := b % 16
  (List.range 8).foldl (fun acc k => acc + q (8 * i + k) / 2 ^ (7 - j) % 2 * 2 ^ k) 0

/-- The value q of element n from the first p planes of a block, the lower planes read as 0 (R100). -/
def planeValue (block : Nat → Nat) (p n : Nat) : Nat :=
  (List.range p).foldl (fun acc j => acc + block (16 * j + n / 8) / 2 ^ (n % 8) % 2 * 2 ^ (7 - j)) 0

/-- The R101 value before its scale of an INT8 code, read with p planes. -/
def planeMid (p q : Nat) : Int :=
  let v := toSigned 8 q
  if p < 8 then v / 2 ^ (8 - p) * 2 ^ (8 - p) + 2 ^ (7 - p) else v

/-- CVTP `.pack` of a narrow or INT8 format (R149). -/
def cvtpPack (f : RWord) (s : State) (c : Ctx) : Eff :=
  let w := s.warp c.wp
  let nf := f.mod 5 3
  let m := cvtpBlock nf
  vecDone s c f false f.rnd m (fun t =>
    let k : Int := if f.mod 6 6 == 1 then 127 - (lowBits 8 (w.vsrc false f.b t) : Int) else 0
    (List.range m).foldl (fun acc j =>
      let v := (f32.read (w.vlane (f.a.toNat + j) t).toNat).scale k
      let r := convertNarrow nf (rndOf w f.rnd t j) v
      (acc.1 + BitVec.ofNat 64 (r.1 * 2 ^ (fieldBits nf * j)), acc.2 ||| r.2)) (0, 0))

/-- CVTP `.unpack` of a narrow or INT8 format: registers after the first are written beside it (R149). -/
def cvtpUnpack (f : RWord) (s : State) (c : Ctx) : Eff :=
  let w := s.warp c.wp
  let nf := f.mod 5 3
  let m := cvtpBlock nf
  let val (t j : Nat) : Word :=
    BitVec.ofNat 64 (f32.exact (narrowValue nf ((w.vsrc false f.a t).toNat / 2 ^ (fieldBits nf * j) % 2 ^ fieldBits nf)))
  let w1 := if f.w then w
    else (List.range (m - 1)).foldl (fun w j => w.setV (f.dst.toNat + j + 1) c.act (fun t => (val t (j + 1)).setWidth 32)) w
  vecDone (s.setWarp c.wp w1) c f false 0 0 (fun t => (val t 0, 0))

/-- CVTP `.pack.bp` (R150): lanes below 32 receive the block's words. -/
def cvtpPackBp (f : RWord) (s : State) (c : Ctx) : Eff :=
  let w := s.warp c.wp
  let q (i : Nat) : Nat := if c.act.getLsbD i then (w.vlane f.a.toNat i).toNat % 256 else 0
  vecDone s { c with act := c.act &&& 0xFFFFFFFF#128 } f false 0 0 (fun t =>
    (BitVec.ofNat 64 ((List.range 4).foldl (fun acc i => acc + planeByte q (4 * t + i) * 256 ^ i) 0), 0))

/-- CVTP `.unpack.bp` (R150): the block is read from lanes 0 to 31 whether they act or not. -/
def cvtpUnpackBp (f : RWord) (s : State) (c : Ctx) : Eff :=
  let w := s.warp c.wp
  let p := if f.rnd == 0 then 8 else f.rnd
  let block (b : Nat) : Nat := (w.vlane f.a.toNat (b / 4)).toNat / 256 ^ (b % 4) % 256
  vecDone s c f false 0 0 (fun t => (BitVec.ofNat 64 (wrapTo 32 (planeMid p (planeValue block p t))), 0))

/-- CVTP (R149, R150). -/
def execCvtp (f : RWord) (s : State) : Host.Outcome State Fault Refusal :=
  .next (issueWord (shCvtp f) f false false (cvtpRegs f) (fun _ _ => true) (fun s c =>
    if f.mod 5 3 == 6 then (if f.mod 7 7 == 0 then cvtpPackBp f s c else cvtpUnpackBp f s c)
    else if f.mod 7 7 == 0 then cvtpPack f s c else cvtpUnpack f s c) s)

end Sys2Proof.Machine
end

