-- ==== Sys2Proof/Machine/Cross.lean ====
section
/-! DEFINITION. Class 3, cross-lane instructions (R106, R107, R151 to R156). -/

namespace Sys2Proof.Machine

/-- The segment width of a VSHFL code (R151). -/
def shflWidth (c : Nat) : Nat := 128 / 2 ^ c

/-- VSHFL's source lane for lane t, none for a lane outside the segment (R152). -/
def shflSource (mode width t b : Nat) : Option Nat :=
  let base := t - t % width
  let src : Int :=
    match mode with
    | 0 => ((base + b % width : Nat) : Int)
    | 1 => (t : Int) - (b : Int)
    | 2 => ((t + b : Nat) : Int)
    | _ => ((base + (t % width ^^^ b % width) : Nat) : Int)
  if src < (base : Int) ∨ ((base + width : Nat) : Int) ≤ src then none else some src.toNat

/-- VSHFL (R152): source lanes are read whether they act or not (R154). -/
def execVshfl (f : RWord) (s : State) := issueR (shVshfl f) f (fun s c =>
  let w := s.warp c.wp
  let width := shflWidth (f.mod 4 2)
  vecDone s c f false 0 0 (fun t =>
    let src := (shflSource (f.mod 1 0) width t (lowBits 32 (w.vsrc false f.b t))).getD t
    ((w.vlane f.a.toNat src).setWidth 64, 0))) s

/-- VBCAST (R153). -/
def execVbcast (f : RWord) (s : State) := issueR shVbcast f (fun s c =>
  let w := s.warp c.wp
  let src := lowBits 7 (w.uni f.b)
  vecDone s c f false 0 0 (fun _ => ((w.vlane f.a.toNat src).setWidth 64, 0))) s

/-! ### Reductions (R155) -/

/-- The operation of VRED and VSCAN on two codes of a reduction type, with its flags. -/
def redOp (op rtype mode : Nat) (ftz : Bool) (a b : Nat) : Nat × Flags :=
  match rtypeF rtype with
  | some F =>
    match op with
    | 0 => F.add { mode := mode } ftz a b
    | 1 => F.minmax ftz false a b
    | _ => F.minmax ftz true a b
  | none =>
    let t := ctypeI rtype
    match op with
    | 0 => (intAdd t a b, 0)
    | 1 => (intMin t a b, 0)
    | 2 => (intMax t a b, 0)
    | 3 => (intAnd t a b, 0)
    | 4 => (intOr t a b, 0)
    | _ => (intXor t a b, 0)

/-- The identity of an operation (R155). -/
def redIdentity (op rtype : Nat) : Nat :=
  match rtypeF rtype with
  | some F =>
    match op with
    | 0 => 0
    | 1 => F.infinity false
    | _ => F.infinity true
  | none =>
    let t := ctypeI rtype
    let n := typeBits t
    match op with
    | 0 => 0
    | 1 => if typeSigned t then 2 ^ (n - 1) - 1 else 2 ^ n - 1
    | 2 => if typeSigned t then 2 ^ (n - 1) else 0
    | 3 => 2 ^ n - 1
    | _ => 0

/-- The lanes of a reduction under way: each has a value when it takes part, and the flags so far. -/
abbrev RedState := Lanes (Option Nat) × Flags

/-- One level of the tree of R106. -/
def redLevel (op : Nat → Nat → Nat × Flags) (st : Nat) (x : RedState) : RedState :=
  let pairs : Lanes (Option Nat × Flags) := Lanes.mk (fun t =>
    if t % (2 * st) = 0 then
      match x.1.at t, x.1.at (t + st) with
      | some a, some b => let r := op a b; (some r.1, r.2)
      | none, some b => (some b, 0)
      | y, none => (y, 0)
    else (x.1.at t, 0))
  (Lanes.mk (fun t => (pairs.at t).1), (List.range 128).foldl (fun acc t => acc ||| (pairs.at t).2) x.2)

/-- The tree of R106 over the lanes that take part. -/
def redTree (op : Nat → Nat → Nat × Flags) (x : Lanes (Option Nat)) : RedState :=
  [1, 2, 4, 8, 16, 32, 64].foldl (fun acc st => redLevel op st acc) (x, 0)

/-- One step of the scan of R107: every lane reads the values from before the step. -/
def scanLevel (op : Nat → Nat → Nat × Flags) (st : Nat) (x : RedState) : RedState :=
  let next : Lanes (Option Nat × Flags) := Lanes.mk (fun t =>
    if t < st then (x.1.at t, 0)
    else
      match x.1.at (t - st), x.1.at t with
      | some a, some b => let r := op a b; (some r.1, r.2)
      | some a, none => (some a, 0)
      | none, y => (y, 0))
  (Lanes.mk (fun t => (next.at t).1), (List.range 128).foldl (fun acc t => acc ||| (next.at t).2) x.2)

/-- The scan of R107. -/
def scanAll (op : Nat → Nat → Nat × Flags) (x : Lanes (Option Nat)) : RedState :=
  [1, 2, 4, 8, 16, 32, 64].foldl (fun acc st => scanLevel op st acc) (x, 0)

/-- The code of a reduction operand at a lane, as ftz lets it be read (R85); none for a lane that does not act. -/
def redInput (w : Warp) (f : RWord) (act : Mask) : Lanes (Option Nat) :=
  let rtype := f.mod 5 3
  Lanes.mk (fun t =>
    if act.getLsbD t then
      some (match rtypeF rtype with
        | some F => F.flushIn w.ftz (w.vsrcF F f.a t)
        | none => lowBits (typeBits (ctypeI rtype)) (w.vsrc (wideR rtype) f.a t))
    else none)

/-- The word of a reduction result: in an s register by R115 or R120, or in a lane by R134. -/
def redPlace (rtype : Nat) (toS : Bool) (x : Nat) : Word :=
  match rtypeF rtype with
  | some _ => BitVec.ofNat 64 x
  | none => if toS then extS (ctypeI rtype) x else extV (ctypeI rtype) x

/-- VRED (R155): its destination is an s register, or every acting lane of a v register; with w = 1 the result is a
uniform latch. DESIGN CHOICE: log 22. -/
def execVred (f : RWord) (s : State) := issueR (shVred f) f (fun s c =>
  let w := s.warp c.wp
  let rtype := f.mod 5 3
  let op := f.mod 8 6
  let r := redTree (redOp op rtype f.rnd w.ftz) (redInput w f c.act)
  let x := (r.1.at 0).getD (redIdentity op rtype)
  let s1 := s.setWarp c.wp (w.flag r.2)
  if f.w || isS f.dst then scalarDone s1 c f.dst f.w (redPlace rtype true x)
  else vecDone s1 c f (wideR rtype) 0 0 (fun _ => (redPlace rtype false x, 0))) s

/-- VSCAN (R155). -/
def execVscan (f : RWord) (s : State) := issueR (shVscan f) f (fun s c =>
  let w := s.warp c.wp
  let rtype := f.mod 5 3
  let r := scanAll (redOp (f.mod 8 6) rtype f.rnd w.ftz) (redInput w f c.act)
  vecDone (s.setWarp c.wp (w.flag r.2)) c f (wideR rtype) 0 0 (fun t => (redPlace rtype false ((r.1.at t).getD 0), 0))) s

/-- VVOTE (R156). -/
def execVvote (f : RWord) (s : State) := issueR (shVvote f) f (fun s c =>
  let w := s.warp c.wp
  let vals := (lanesOf c.act).map (fun t => (t, lowBits 32 (w.vsrc false f.a t)))
  match f.mod 1 0 with
  | 0 => scalarDone s c f.dst f.w (boolWord (vals.all (fun p => p.2 != 0)))
  | 1 => scalarDone s c f.dst f.w (boolWord (vals.any (fun p => p.2 != 0)))
  | 2 => scalarDone s c f.dst f.w (boolWord (vals.all (fun p => p.2 == ((vals.head?).map Prod.snd).getD 0)))
  | _ => maskDone s c f.dst f.w (maskOf ((vals.filter (fun p => p.2 != 0)).map Prod.fst))) s

end Sys2Proof.Machine
end

