-- ==== Sys2Proof/Machine/Control.lean ====
section
/-! DEFINITION. Class 4: control flow (R173 to R186). -/

namespace Sys2Proof.Machine

/-- A link value as a target of some lanes (R174). -/
def linkTarget (x : Word) (depth : Byte) (m : Mask) : Target :=
  { pc := x.setWidth 32, prio := (x >>> 32).setWidth 8, depth := depth, mask := m }

/-- The split of a slot sends its lanes to targets (R167). -/
def branchTo (s : State) (c : Ctx) (targets : List Target) : Eff :=
  let w := s.warp c.wp
  .moved (s.setWarp c.wp { w with frontier := branch w.frontier c.i targets })

/-- Lanes that go on at pc + 1 with the split's prio and depth. -/
def onward (sp : Split) (m : Mask) : Target := { pc := sp.pc + 1, prio := sp.prio, depth := sp.depth, mask := m }

/-- The targets of the acting lanes from a link in a vector pair or an s register (R177, R179). -/
def linkTargets (w : Warp) (code : BitVec 9) (depth : Byte) (act : Mask) : List Target :=
  if isS code then [linkTarget (w.uni code) depth act]
  else (lanesOf act).map (fun t => linkTarget (w.vsrc true code t) depth (1#128 <<< t))

/-- The split of a slot waits (R158): a yield turn and a forced turn end. -/
def waitAt (s : State) (c : Ctx) (x : Wait) (pc : BitVec 32) : Eff :=
  let w := s.warp c.wp
  .moved (s.setWarp c.wp
    { w with frontier := w.frontier.modify c.i (fun y => { y with wait := x, pc := pc, yield := 0, turn := none }) })

/-- BR (R175): its dst is the operand that it reads, and an error token there is its ENGINE_FAULT (R321). DEDUCED: log 127. -/
def execBr (f : IWord) (s : State) : Host.Outcome State Fault Refusal :=
  .next (issueWord shBr (immR f) true false [] (fun _ _ => true) (fun s c =>
    let w := s.warp c.wp
    let taken := (w.uni f.dst != 0) != f.a.getLsbD 8
    branchTo s c (if taken then [{ pc := f.imm, prio := f.a.setWidth 8, depth := c.sp.depth, mask := c.sp.mask }]
      else [onward c.sp c.sp.mask])) s)

/-- BRK (R176). -/
def execBrk (f : IWord) (s : State) := issueI (shBrk f) f (fun s c =>
  let w := s.warp c.wp
  let k := w.k c.sp.mask f.dst.toNat
  let taken := c.sp.mask &&& (if f.a.getLsbD 8 then ~~~ k else k)
  branchTo s c [{ pc := f.imm, prio := f.a.setWidth 8, depth := c.sp.depth, mask := taken },
    onward c.sp (c.sp.mask &&& ~~~ taken)]) s

/-- BRX (R177). -/
def execBrx (f : RWord) (s : State) := issueR shBrx f (fun s c =>
  branchTo s c (linkTargets (s.warp c.wp) f.a c.sp.depth c.act ++ [onward c.sp (c.sp.mask &&& ~~~ c.act)])) s

/-- CALL (R178): at depth 255 it traps. -/
def execCall (f : IWord) (s : State) := issueI (shCall f) f (fun s c =>
  let w := s.warp c.wp
  if c.sp.depth = 255 then .trap .illegalOperand (wordInfo w c.sp) c.sp.mask
  else
    let w := w.setVec f.dst.toNat true c.sp.mask (fun _ => (c.sp.pc + 1).setWidth 64 ||| (c.sp.prio.setWidth 64 <<< 32))
    branchTo (s.setWarp c.wp w) c [{ pc := f.imm, prio := f.a.setWidth 8, depth := c.sp.depth + 1, mask := c.sp.mask }]) s

/-- RET (R179): at depth 0 it traps. -/
def execRet (f : RWord) (s : State) := issueR shRet f (fun s c =>
  if c.sp.depth = 0 then .trap .retEmpty 0 c.sp.mask
  else branchTo s c (linkTargets (s.warp c.wp) f.a (c.sp.depth - 1) c.act ++ [onward c.sp (c.sp.mask &&& ~~~ c.act)])) s

/-- YIELD (R182): a forced turn ends (R169). -/
def execYield (f : RWord) (s : State) := issueR { shNone with ctl := true } f (fun s c =>
  onWarp s c (fun w =>
    ({ w with frontier := w.frontier.modify c.i (fun x => { x with yield := 32, turn := none }) }, none))) s

/-- JOIN (R180): it waits, and passes at once when its mask holds the named lanes. -/
def execJoin (f : RWord) (s : State) := issueR shJoin f (fun s c =>
  if joinPasses (s.warp c.wp) c.sp f.a.toNat then .done s none
  else waitAt s c (.join f.a.toNat) c.sp.pc) s

/-- PRIO (R181). -/
def execPrio (f : RWord) (s : State) := issueR { shUni1 with ctl := true } f (fun s c =>
  onWarp s c (fun w =>
    ({ w with frontier := w.frontier.modify c.i (fun x => { x with prio := (w.uni f.a).setWidth 8 }) }, none))) s

/-- EXIT (R184). -/
def execExit (f : RWord) (s : State) := issueR (shExit f) f (fun s c =>
  let w := s.warp c.wp
  let on := { w with frontier := w.frontier.modify c.i (fun x => { x with pc := x.pc + 1 }) }
  .moved (exitLanes (s.setWarp c.wp on) c.wp c.act (f.mod 2 0))) s

/-- NOP (R185). -/
def execNop (f : RWord) (s : State) := issueR { shNone with ctl := true } f (fun s _ => .done s none) s

/-- SPINW (R183): the wait's end by time is SPINW_EXPIRY, by another split's issue R163's step. -/
def execSpinw (f : RWord) (s : State) := issueR { shUni1 with ctl := true } f (fun s c =>
  waitAt s c (.spin s.arith (lowBits 16 ((s.warp c.wp).uni f.a))) (c.sp.pc + 1)) s

end Sys2Proof.Machine
end

