-- ==== Sys2Proof/Machine/Lines.lean ====
section
/-! DEFINITION. Lines of physical memory and their copies: the address map, DRAM with its sector tags and protection
fields, the L2 lines of home and proxy slices, L1 copies with their leases, near-atomic windows, and what a store makes of
all of them (R224, R225, R244, R250, R253, R265 to R267, R285 to R290). -/

namespace Sys2Proof.Machine

/-! ### Page table entries (R255) -/

def pteV (x : Word) : Bool := x.getLsbD 0
def pteLeaf (x : Word) : Bool := x.getLsbD 1
def pteR (x : Word) : Bool := x.getLsbD 2
def pteW (x : Word) : Bool := x.getLsbD 3
def pteX (x : Word) : Bool := x.getLsbD 4
def pteD (x : Word) : Bool := x.getLsbD 6
def pteCmp (x : Word) : Bool := x.getLsbD 7
def pteProt (x : Word) : Bool := x.getLsbD 8
def pteCast (x : Word) : Bool := x.getLsbD 9
def pteRegen (x : Word) : Bool := x.getLsbD 10
def pteHc (x : Word) : Bool := x.getLsbD 11
def pteKix (x : Word) : Nat := (x.extractLsb' 12 4).toNat
def pteFrame (x : Word) : Nat := (x.extractLsb' 16 36).toNat * 2 ^ 16
def pteRgx (x : Word) : Nat := (x.extractLsb' 52 12).toNat

/-! ### The address map (R224, R225) -/

/-- Does nothing answer at a physical address? -/
def unpopulated (pa : Nat) : Bool :=
  (decide (2 ^ 38 ≤ pa) && decide (pa < 2 ^ 43)) || (decide (2 ^ 44 ≤ pa) && decide (pa < 2 ^ 48)) || decide (2 ^ 52 ≤ pa)
/-- Is a line outside the device: host memory or another module's window? -/
def hostLine (line : Nat) : Bool := decide (2 ^ 48 ≤ line * 128)
/-- DESIGN CHOICE: log 29. -/
def cxlLine (line : Nat) : Bool := decide (2 ^ 43 ≤ line * 128) && decide (line * 128 < 2 ^ 44)

/-- The CXL port, 0 to 7, behind which a line of CXL memory lies: the expanders follow one another in port order (R454).
DESIGN CHOICE: log 36. -/
def cxlPortOf (line : Nat) : Nat :=
  let off := line - 2 ^ 36
  ((List.range 8).find? (fun p => decide (off < ((List.range (p + 1)).map Config.cxlLines).sum))).getD 7

/-- Bits [hi:lo] of a number. -/
def bitsOf (x hi lo : Nat) : Nat := x / 2 ^ lo % 2 ^ (hi + 1 - lo)

/-- A line's home die. -/
def homeDie (line : Nat) : Nat :=
  let pa := line * 128
  if pa < 2 ^ 38 then bitsOf pa 37 35 else bitsOf pa 9 7 ^^^ bitsOf pa 12 10 ^^^ bitsOf pa 15 13
/-- A line's home slice on its die. -/
def homeSlice (line : Nat) : Nat :=
  let pa := line * 128
  bitsOf pa 11 7 ^^^ bitsOf pa 16 12 ^^^ bitsOf pa 21 17 ^^^ bitsOf pa 26 22 ^^^ bitsOf pa 31 27

/-! ### Logical time (R285, R288) -/

/-- The length of a lease (R287). -/
def leaseLength : Nat := 8

def State.raiseDt (s : State) (d v : Nat) : State :=
  if (s.die d).dt < v then s.setDie d { s.die d with dt := v } else s
/-- A core's time rises to v, its die's first (R285). -/
def State.raiseCt (s : State) (c v : Nat) : State :=
  let s := s.raiseDt (c / 32) v
  if (s.core c).ct < v then s.setCore c { s.core c with ct := v } else s
/-- An acquire by a core (R288). -/
def State.acquire (s : State) (c : Nat) : State := s.raiseCt c (s.die (c / 32)).dt
/-- A message from a die to another carries the sender's DT (R288). -/
def State.cross (s : State) (from_ to_ : Nat) : State := if from_ = to_ then s else s.raiseDt to_ (s.die from_).dt

/-- A message to a die and its answer cross both ways (R288). -/
def State.meet (s : State) (a b : Nat) : State := (s.cross a b).cross b a

/-! ### DRAM and CXL memory (R265, R267, R454) -/

/-- The key bound to a pair (R459). -/
def keyOf (s : State) (asid kix : Nat) : Option (BitVec 512) :=
  (s.keys.find? (fun p => p.2.1 == asid * 16 + kix)).map (fun p => p.2.2)

/-- The bytes of a line as they lie in memory. -/
def rawLine (s : State) (line : Nat) : Line := lineOf (Memory.bytes s.phys (line * 128) 128)

/-- A line of memory put down as it is. -/
def putRaw (s : State) (line : Nat) (x : Line) : State :=
  { s with phys := Memory.storeBytes s.phys (line * 128) (lineBytes x) }

/-- One sector decoded by its tag (R265). -/
def tagDecode (tag : Nat) (x : BitVec 256) : BitVec 256 :=
  match tag with
  | 0 => 0
  | 1 => x
  | 2 => BitVec.ofNat 256 ((x.toNat % 2 ^ 32) * ((2 ^ 256 - 1) / (2 ^ 32 - 1)))
  | _ => x

/-- The tag of a sector's value (R265). -/
def tagEncode (cmp : Bool) (x : BitVec 256) : Nat :=
  if !cmp then 1 else if x = 0 then 0 else if tagDecode 2 x = x then 2 else 1

/-- The tag of sector i of a line. -/
def tagOf (s : State) (line i : Nat) : Nat := (SMap.look 0 s.tags line).toNat / 4 ^ i % 4

/-- Does a block fail its check: stored poison, a reserved tag, a failed link, or an integrity code that the key of the
accessing address space does not match (R98, R265, R267, R454)? -/
def blockBad (s : State) (line asid : Nat) : Bool :=
  SMap.look false s.physBad line || (List.range 4).any (fun i => tagOf s line i == 3)
    || (cxlLine line && SMap.look false s.cxlDown (cxlPortOf line))
    || (match SMap.look 0 s.prots line with
      | 0 => false
      | p + 1 => !(keyOf s asid (p % 16)).any (fun k => k.toNat == p / 16))

/-- Is the failure one that a read reports: a reserved tag, an integrity mismatch or a failed link? -/
def blockReports (s : State) (line asid : Nat) : Bool :=
  blockBad { s with physBad := [] } line asid

/-- A block read (R265): its data and its poison. Memory outside the device has no tags. DEDUCED: log 13. -/
def blockRead (s : State) (line asid : Nat) : Line × Bool :=
  let x := rawLine s line
  if hostLine line then (x, SMap.look false s.physBad line)
  else
    ((List.range 4).foldl (fun (acc : Line) i =>
        acc ||| ((tagDecode (tagOf s line i) (x.extractLsb' (256 * i) 256)).setWidth 1024 <<< (256 * i))) 0,
      blockBad s line asid)

/-- A line with its poison put into memory as data of no page. -/
def setPoison (m : SMap Bool) (k : Nat) (b : Bool) : SMap Bool := SMap.put false k b m

/-- The poison of granules after one write of n sound bytes from a place: those that it replaces whole are sound (R98). -/
def clearWhole (m : SMap Bool) (a n : Nat) : SMap Bool :=
  SMap.keep m (fun g _ => !(decide (a ≤ g * 128) && decide (g * 128 + 128 ≤ a + n)))

/-- A block written back with its tags and protection field, as one event (R265, R267, R306). Under a pair without a key the field
names no key, so that no read decodes it. -/
def blockWrite (s : State) (line : Nat) (l : L2Line) : State :=
  let s := putRaw s line l.data
  let tags := (List.range 4).foldl (fun acc i =>
    acc + tagEncode (l.cmp && !l.prot) (l.data.extractLsb' (256 * i) 256) * 4 ^ i) 0
  let prot := if l.prot then
      (match keyOf s l.asid l.kix with
      | some k => k.toNat * 16 + l.kix + 1
      | none => 2 ^ 516 + l.kix + 1)
    else 0
  let bad := l.poison || (l.prot && (keyOf s l.asid l.kix).isNone)
  { s with
    tags := SMap.put 0 line (BitVec.ofNat 8 tags) s.tags
    prots := SMap.put 0 line prot s.prots
    physBad := setPoison s.physBad line bad }

/-- The attributes that a line's fill captured, as a page's entry holds them (R255, R265, R267). -/
def L2Line.attrs (l : L2Line) : Word :=
  BitVec.ofNat 64 ((if l.cmp then 2 ^ 7 else 0) + (if l.prot then 2 ^ 8 else 0) + (if l.hc then 2 ^ 11 else 0) + l.kix % 16 * 2 ^ 12)

/-! ### L2 lines -/

def l2Key (die line : Nat) : Nat := die * 2 ^ 45 + line
def State.l2At (s : State) (die line : Nat) : Option L2Line := SMap.find s.l2 (l2Key die line)
def State.setL2 (s : State) (die line : Nat) (x : L2Line) : State := { s with l2 := SMap.set (l2Key die line) x s.l2 }
/-- The lease end that a slice remembers for a line it no longer holds (R314). -/
def State.goneAt (s : State) (die line : Nat) : Nat := SMap.look 0 s.gone (l2Key die line)

/-- A slice's lease end of a line rises (R288). -/
def State.raiseLease (s : State) (die line e : Nat) : State :=
  match s.l2At die line with
  | some l => s.setL2 die line { l with rts := max l.rts e }
  | none => { s with gone := SMap.put 0 (l2Key die line) (max (s.goneAt die line) e) s.gone }

/-- Drop a slice's line, remembering the leases it granted (R314). -/
def State.dropL2 (s : State) (die line : Nat) : State :=
  match s.l2At die line with
  | none => s
  | some l =>
    { s with
      l2 := SMap.erase (l2Key die line) s.l2
      gone := SMap.put 0 (l2Key die line) (max l.rts (s.goneAt die line)) s.gone }

/-- The largest rts that a proxy's acknowledgement carries for a line it has dropped: until its die's DT has passed it (R314). -/
def State.leaseAt (s : State) (die line : Nat) : Nat := if (s.die die).dt ≤ s.goneAt die line then s.goneAt die line else 0

/-- The lines that a home slice's L2 holds: 2 MiB (R4, R15). -/
def sliceLines : Nat := 16384

/-- The lines of a die's slice that holds a line (R225, R293). -/
def sliceMates (s : State) (die line : Nat) : SMap L2Line :=
  s.l2.filter (fun p => p.1 / 2 ^ 45 == die && homeSlice (p.1 % 2 ^ 45) == homeSlice line)

/-- Has a slice a place for a line? -/
def sliceRoom (s : State) (die line : Nat) : Bool := (s.l2At die line).isSome || decide ((sliceMates s die line).length < sliceLines)

/-- Does a request for a line ask that a die own it (R297)? -/
def Req.wantsOwn (r : Req) (die : Nat) : Bool :=
  match r with
  | .agent .upg a _ => a == die
  | .agent .rdX a _ => a == die
  | _ => false

/-- Has the slice of a die that holds a line a place for one more that the die owns, besides those that it owns, gives back or has asked
for? One line of a slice is always another one, so that a full slice can make room (R4, R15). -/
def ownRoom (s : State) (die line : Nat) : Bool :=
  let here (l : Nat) : Bool := homeSlice l == homeSlice line
  let asked (m : Msg) : Bool := m.kind == .rdX || m.kind == .upg || m.kind == .gntX || (m.kind == .data && m.excl)
  decide (((sliceMates s die line).filter (fun p => p.2.own || p.2.putting)).length
    + s.msgs.countP (fun m => m.agent == die && here m.line && asked m)
    + ((s.dir.filter (fun p => here p.1)).map (fun p => (p.2.serving.toList ++ p.2.waiting).countP (fun r => r.wantsOwn die))).sum
    + 1 < sliceLines)

/-- A line leaves a slice: modified at its home, it is written to its memory; a proxy tells the home, which learns of the leases that
the proxy granted (R306, R314). DEDUCED: log 149. -/
def evictLine (s : State) (die line : Nat) : State :=
  match s.l2At die line with
  | none => s
  | some l =>
    if die = homeDie line then (if l.dirty && !hostLine line then blockWrite s line l else s).dropL2 die line
    else
      let s := s.dropL2 die line
      { s with msgs := s.msgs ++ [{ kind := .evict, line := line, agent := die, time := s.goneAt die line, dt := (s.die die).dt }] }

/-- A full slice makes room for a line: another one, which its die neither owns nor gives back, leaves (R15, R314). There is always such
a line (`ownRoom`). DEDUCED: log 136. -/
def makeRoom (s : State) (die line : Nat) : State :=
  if sliceRoom s die line then s
  else
    let pool := (sliceMates s die line).filter (fun p => !p.2.own && !p.2.putting)
    let (n, s) := s.choose pool.length
    match pool[n]? with
    | some p => evictLine s die (p.1 % 2 ^ 45)
    | none => s

/-- A block that fails its check at a read is reported, with its location (R17, R265, R267, R454). -/
def reportBlock (s : State) (line asid launch : Nat) : State :=
  if !hostLine line && blockReports s line asid then
    s.record { cls := 0x03, sev := 1, die := homeDie line, launch := launch, addr := line * 128 }
  else s

/-- The page through which a line is filled: that of the access, or, where none comes with it, that of the line's last fill. -/
def fillPage (s : State) (line asid : Nat) (pte : Word) : Nat × Word :=
  if pte = 0 then (SMap.find s.filled line).getD (asid, 0) else (asid, pte)

/-- A line at its home, filled from memory with the attributes of the page it is reached through (R265, R267). Its times are the
last that the slice remembers of it. A block that fails its check is reported. DEDUCED: log 25. -/
def homeFill (s : State) (line asid : Nat) (pte : Word) (launch : Nat) : State × L2Line :=
  let d := homeDie line
  match s.l2At d line with
  | some l => (s, l)
  | none =>
    let (asid, pte) := fillPage s line asid pte
    let s := makeRoom s d line
    let s := { s with filled := SMap.put (0, 0) line (asid, pte) s.filled }
    let (x, bad) := blockRead s line asid
    let g := s.goneAt d line
    let l : L2Line :=
      { data := x, wts := g, rts := g, poison := bad, cmp := pteCmp pte, prot := pteProt pte, kix := pteKix pte,
        asid := asid, hc := pteHc pte, launch := launch }
    ((reportBlock s line asid launch).setL2 d line l, l)

/-- The home's line as it stands, without a fill. -/
def homeLine (s : State) (line : Nat) (asid : Nat := 0) : Line × Bool :=
  match s.l2At (homeDie line) line with
  | some l => (l.data, l.poison)
  | none => blockRead s line asid

/-- The sectors of a line of which the home holds the newest bytes: those of no half that a host agent owns (R305). -/
def freshSectors (s : State) (line : Nat) : BitVec 4 :=
  match SMap.find s.dir line with
  | none => 15
  | some d =>
    let stale (h : HalfSt) (o : Nat) : Bool := (h == .E || h == .M || h == .FR || h == .FW) && decide (8 ≤ o)
    (if stale d.lo d.ownLo then 0 else 3) ||| (if stale d.hi d.ownHi then 0 else 12)

/-! ### L1 copies -/

def l1Key (core asid vline : Nat) : Nat := (core * 65536 + asid) * 2 ^ 73 + vline
def l1Core (key : Nat) : Nat := key / 2 ^ 73 / 65536
def l1Asid (key : Nat) : Nat := key / 2 ^ 73 % 65536
def l1Vline (key : Nat) : Nat := key % 2 ^ 73

def State.dropL1 (s : State) (p : Nat → L1Line → Bool) : State := { s with l1 := SMap.keep s.l1 (fun k c => !p k c) }

/-- Are two keys of one core and one set (R244)? -/
def sameSet (a b : Nat) : Bool := l1Core a == l1Core b && a % 256 == b % 256

/-- Do two keys name different virtual lines (R253)? -/
def synonym (a b : Nat) : Bool := a % 2 ^ 89 != b % 2 ^ 89

/-- Install a copy (R244, R253): a synonym in the cluster goes first; a full set of 8 ways loses an unmarked copy, and a
marked one only when it has no other. -/
def l1Install (s : State) (key : Nat) (c : L1Line) : State :=
  let cluster := l1Core key / 4
  let s := s.dropL1 (fun k x => synonym k key && x.line == c.line && l1Core k / 4 == cluster)
  let others := s.l1.filter (fun p => p.1 != key && sameSet p.1 key)
  let s :=
    if others.length < 8 then s
    else
      let free := others.filter (fun p => !p.2.pushed)
      let pool := if free = [] then others else free
      let (n, s) := s.choose pool.length
      s.dropL1 (fun k _ => some k == (pool[n]?).map Prod.fst)
  { s with l1 := SMap.set key c s.l1 }

/-- A valid copy that holds some sectors (R287). One of host memory that may not be cached serves no load (R453). -/
def l1Valid (s : State) (key : Nat) (need : BitVec 4) : Option L1Line :=
  (SMap.find s.l1 key).filter (fun c => decide ((s.core (l1Core key)).ct ≤ c.rts) && (need &&& ~~~ c.sectors) == 0
    && (!hostLine c.line || c.hc))

/-- A load served from a copy reads its mark away (R244). -/
def l1Read (s : State) (key : Nat) (c : L1Line) : State :=
  if c.pushed then
    let k := s.core (l1Core key)
    { s.setCore (l1Core key) { k with pushRead := (k.pushRead + 1) % 2 ^ 21 } with
      l1 := SMap.set key { c with pushed := false } s.l1 }
  else s

/-- A slice serves a core's miss (R288): the lease, the core's time, the copy. `die` is the slice's. -/
def leaseTo (s : State) (die line key : Nat) (l : L2Line) (rep : Bool) (launch : Nat) : State :=
  let core := l1Core key
  let e := max l.wts (s.core core).ct + leaseLength
  let s := s.setL2 die line { l with rts := max l.rts e, rep := l.rep || rep, launch := if rep && !l.rep then launch else l.launch }
  let s := s.raiseCt core l.wts
  l1Install s key
    { data := l.data, sectors := if die = homeDie line then l.sectors &&& freshSectors s line else l.sectors, wts := l.wts, rts := e, line := line, rep := rep, launch := launch, hc := l.hc,
      bad := l.poison }

/-! ### A store at the home (R288) -/

/-- A full byte mask. -/
def fullMask : Mask := BitVec.allOnes 128

/-- The poison of a granule after a write of some bytes (R98). DEDUCED: log 55. -/
def poisonAfter (old new : Bool) (m : Mask) : Bool := new || (old && m != fullMask)

/-- An L1 copy that a core's own store updates in place: the copy takes the whole line as it then stands, so that no other
byte of it outlives its lease (R241, R288). A synonym in the cluster goes (R253). DEDUCED: log 37. -/
def l1Update (s : State) (core key line : Nat) (l : L2Line) (w : Nat) : State × Bool :=
  let s := s.dropL1 (fun k x => synonym k key && x.line == line && l1Core k / 4 == core / 4)
  match SMap.find s.l1 key with
  | none => (s, false)
  | some c =>
    if c.line = line then
      ({ s with l1 := SMap.set key { c with data := l.data, sectors := freshSectors s line, wts := w, rts := w + leaseLength, bad := l.poison } s.l1 },
        true)
    else (s.dropL1 (fun k _ => k == key), false)

/-- A write performed at a line's home, with its write time: above every lease, above b, not below the storer's time. Host
memory passes through to the host, and updates the device's copies (R453). `own` names the storing core's copy. -/
def storeHome (s : State) (line : Nat) (data : Line) (m : Mask) (bad : Bool) (asid : Nat) (pte : Word) (launch ct b : Nat)
    (own : Option (Nat × Nat)) : State × Nat :=
  let d := homeDie line
  let put (s : State) : State :=
    let x := lineMerge (rawLine s line) data m
    { putRaw s line x with physBad := setPoison s.physBad line (poisonAfter (SMap.look false s.physBad line) bad m) }
  let s := if hostLine line then put s else s
  if hostLine line && (s.l2At d line).isNone then
    let w := max (s.goneAt d line + 1) (max (b + 1) ct)
    let s := (s.raiseDt d w).dropL1 (fun _ x => x.line == line)
    (s, w)
  else
    let (s, l) := homeFill s line asid pte launch
    let w := max (l.rts + 1) (max (b + 1) ct)
    let l := { l with data := lineMerge l.data data m, dirty := l.dirty || !hostLine line, wts := w, poison := poisonAfter l.poison bad m }
    let (s, kept) := match own with
      | some (core, key) => l1Update s core key line l w
      | none => (s, false)
    let s := s.setL2 d line { l with rts := if kept then w + leaseLength else w }
    (s.raiseDt d w, w)

/-! ### Near-atomic windows (R250, R301) -/

/-- The predictor's counter of a line after a change; its entry becomes the most recently used of at most 64. -/
def predict (k : Core) (vline : Nat) (f : Nat → Nat) : Core :=
  let c := ((k.predictor.find? (fun p => p.1 == vline)).map Prod.snd).getD 0
  { k with predictor := ((vline, f c) :: k.predictor.filter (fun p => p.1 != vline)).take 64 }

def predictorOf (k : Core) (vline : Nat) : Nat := ((k.predictor.find? (fun p => p.1 == vline)).map Prod.snd).getD 0

/-- A proxy gives a line that its die owns back to the home: PutM with its bytes, or PutE when nothing was written (R301). -/
def putBack (s : State) (die line : Nat) (data : Line) (g : Nat) (wrote : Bool) : State :=
  match s.l2At die line with
  | none => s
  | some l =>
    let s := s.setL2 die line { l with data := data, wts := g, putting := true }
    { s with msgs := s.msgs ++
        [{ kind := if wrote then .putM else .putE, line := line, agent := die, data := data, time := g, dt := (s.die die).dt
           poison := l.poison, asid := l.asid, pte := l.attrs }] }

/-- Another request has hit a window: its core's predictor learns of it (R250). -/
def windowHit (s : State) (x : Window) : State :=
  let core := l1Core x.key
  s.setCore core (predict (s.core core) (l1Vline x.key) (fun c => min (c + 4) 15))

/-- A window's end (R250): on the home die its bytes are performed under one write time; on another die the proxy takes
them and sends PutM, or PutE when nothing was written (R301). `hit` tells that another request ended it. -/
def endWindow (s : State) (x : Window) (hit : Bool) : State :=
  let core := l1Core x.key
  let s := { s with windows := s.windows.filter (fun y => y.key != x.key) }
  let s := if hit then windowHit s x else s
  match x.grant with
  | none =>
    if x.bmask = 0 then s
    else
      let (s, w) := storeHome s x.line x.data x.bmask false (l1Asid x.key) x.pte 0 (s.core core).ct 0 (some (core, x.key))
      s.raiseCt core w
  | some g => putBack s (core / 32) x.line x.data g (x.bmask != 0)

/-- Another request for a line reaches its home: its window there ends at once (R250). -/
def endHomeWindows (s : State) (line : Nat) (except_ : Option Nat) : State :=
  (s.windows.filter (fun x => x.line == line && x.grant.isNone && some x.key != except_)).foldl (fun s x => endWindow s x true) s

/-- Every window of a core ends: a gating or a context save begins (R250). -/
def endCoreWindows (s : State) (core : Nat) : State :=
  (s.windows.filter (fun x => l1Core x.key == core)).foldl (fun s x => endWindow s x false) s

/-- The window a core holds on a line. -/
def windowOf (s : State) (key : Nat) : Option Window := s.windows.find? (fun x => x.key == key)

/-- The windows whose 64 cycles have passed end (R250, R301). -/
def endPastWindows (s : State) : State := (s.windows.filter (fun x => decide (x.ends ≤ s.arith))).foldl (fun s x => endWindow s x false) s

/-! ### The device's own accesses

Engines, the matrix unit, the dispatcher and Avosh read and write a line at its home as one event. Copies that another die
or a window holds are gathered in that event; a half that a host agent owns has to be recalled first. -/

/-- The halves of a line that n bytes from a place in it touch. -/
def halvesAt (off n : Nat) : BitVec 2 := (if n = 0 ∨ 64 ≤ off then 0 else 1) ||| (if n = 0 ∨ off + n ≤ 64 then 0 else 2)

/-- The halves of an entry, of those named, that a host agent owns (R305). -/
def Dir.hostOwned (d : Dir) (half : BitVec 2) : BitVec 2 :=
  let host (h : HalfSt) (o : Nat) : Bool := (h == .E || h == .M || h == .O) && decide (8 ≤ o)
  (if half.getLsbD 0 && host d.lo d.ownLo then 1 else 0) ||| (if half.getLsbD 1 && host d.hi d.ownHi then 2 else 0)

/-- Does a host agent own one of the named halves of a line, or does a transaction or a push of the line run? -/
def lineBusy (s : State) (line : Nat) (half : BitVec 2 := 3) : Bool :=
  s.msgs.any (fun m => m.line == line && m.kind == .fill) ||
  match SMap.find s.dir line with
  | none => false
  | some d => d.hostOwned half != 0 || d.serving.isSome

/-- The die that owns a line, by its entry (R292). -/
def ownerDie (s : State) (line : Nat) : Option Nat :=
  match SMap.find s.dir line with
  | none => none
  | some d => if (d.hi == .E || d.hi == .M || d.hi == .FR) && decide (d.ownHi < 8) then some d.ownHi else none

/-- Those of the named halves that a host agent owns are recalled (R297, R305), for a unit of the device that tries again later. -/
def recallHost (s : State) (line : Nat) (half : BitVec 2 := 3) : State :=
  match SMap.find s.dir line with
  | none => s
  | some d =>
    let lo := (d.hostOwned half).getLsbD 0
    let hi := (d.hostOwned half).getLsbD 1
    if d.serving.isSome || !(hi || lo) then s
    else
      let dt := (s.die (homeDie line)).dt
      let send (b : Bool) (o : Nat) (half : BitVec 2) : List Msg :=
        if b then [{ kind := .rcl, line := line, agent := o, half := half, dt := dt }] else []
      { s with
        dir := SMap.set line { d with hi := if hi then .FR else d.hi, lo := if lo then .FR else d.lo, serving := some .unit } s.dir
        msgs := s.msgs ++ send lo d.ownLo 1 ++ send hi d.ownHi 2 }

/-- The newest value of a line that no host agent owns: in a window, at the owning proxy, or at the home; host memory through a
page that may not be cached as the host holds it (R453). It is read for an address space, through a page's entry (R267). -/
def sysLine (s : State) (line : Nat) (asid : Nat := 0) (pte : Word := 0) : Line × Bool :=
  if hostLine line && !pteHc pte then blockRead s line asid
  else
    match s.windows.find? (fun x => x.line == line) with
    | some x => (x.data, x.bad)
    | none =>
      match (ownerDie s line).bind (fun d => s.l2At d line) with
      | some l => (l.data, l.poison)
      | none => homeLine s line asid

/-- A half that a die owned, or that it alone shared, is in I; in S while another agent shares. -/
def Dir.withoutDies (d : Dir) : Dir :=
  let ptrs := d.ptrs.filter (fun a => decide (8 ≤ a))
  let vec := if d.coarse then d.vec &&& 0b110000 else 0
  let free := decide (ptrs = []) && vec == 0
  let leave (h : HalfSt) (o : Nat) : HalfSt :=
    if (h == .E || h == .M || h == .O) && decide (8 ≤ o) then h
    else if h == .S && !free then .S else .I
  let hi := leave d.hi d.ownHi
  let lo := leave d.lo d.ownLo
  { hi := hi, lo := lo, ownHi := if hi = .I ∨ hi = .S then 0 else d.ownHi, ownLo := if lo = .I ∨ lo = .S then 0 else d.ownLo
    coarse := d.coarse && !free, ptrs := ptrs, vec := vec }

/-- No sharer is left, and a half that no host agent owns is in I. -/
def Dir.withoutSharers (d : Dir) : Dir :=
  let own := d.hostOwned 3
  { hi := if own.getLsbD 1 then d.hi else .I, lo := if own.getLsbD 0 then d.lo else .I
    ownHi := if own.getLsbD 1 then d.ownHi else 0, ownLo := if own.getLsbD 0 then d.ownLo else 0 }

/-- Requests of host agents that wait at a home, as the messages that brought them. -/
def Dir.hostRequests (d : Dir) (line : Nat) : List Msg :=
  (d.serving.toList ++ d.waiting).filterMap (fun r => match r with
    | .agent kind a half => if 8 ≤ a then some { kind := kind, line := line, agent := a, half := half } else none
    | _ => none)

/-- The dies give a line up: their windows end as another request ends them, the proxies' copies go with the leases they granted,
and the home holds the newest value (R250, R297). The answer is the largest of those leases. DESIGN CHOICE: log 38. -/
def gather (s : State) (line asid : Nat) (pte : Word) : State × Nat :=
  let s := endHomeWindows s line none
  let (x, bad) := sysLine s line asid 0x800
  let d := homeDie line
  let dies := (List.range 8).filter (fun a => a != d && (s.l2At a line).isSome)
  let b := (List.range 8).foldl (fun b a =>
    if a = d then b else max b (max (s.leaseAt a line) (((s.l2At a line).map (·.rts)).getD 0))) 0
  let owned := (ownerDie s line).isSome
  let s := (s.windows.filter (fun x => x.line == line)).foldl windowHit s
  let old := SMap.look {} s.dir line
  let s := { s with
    windows := s.windows.filter (fun x => x.line != line)
    msgs := old.hostRequests line ++ s.msgs.filter (fun m => !(m.line == line && m.kind != .fill && m.agent < 8))
    dir := SMap.put {} line old.withoutDies s.dir }
  let s := dies.foldl (fun s a => ((s.cross d a).dropL2 a line).cross a d) s
  let s := if owned then
      let (s, l) := homeFill s line asid pte 0
      s.setL2 d line { l with data := x, poison := bad, dirty := true }
    else s
  (s, b)

/-- The sharers that remain, host agents, are told to drop their copies; a half that one owns, which the write does not touch, stays its
own (R297, R305). -/
def collect (s : State) (line : Nat) (asid : Nat := 0) (pte : Word := 0) : State × Nat :=
  let (s, b) := gather s line asid pte
  match SMap.find s.dir line with
  | none => (s, b)
  | some d =>
    let hosts := if d.coarse then (List.range 12).filter (fun a => d.vec.getLsbD (a / 2)) else d.ptrs
    ({ s with
      dir := SMap.put {} line d.withoutSharers s.dir
      msgs := s.msgs ++ hosts.map (fun a => { kind := .inv, line := line, agent := a, dt := (s.die (homeDie line)).dt }) }, b)

/-- A unit of the device is about to read a line: an open window and another die's ownership end, and a block that fails its check
is reported (R250, R297, R265). -/
def unitReady (s : State) (line : Nat) (asid : Nat := 0) (pte : Word := 0) : State :=
  let s := if s.windows.any (fun x => x.line == line) || (ownerDie s line).isSome then (gather s line asid pte).1 else s
  if (s.l2At (homeDie line) line).isSome then s else reportBlock s line asid 0

/-- The lines of a range of physical memory. -/
def rangeOf (pa n : Nat) : List Nat := if n = 0 then [] else (List.range ((pa + n - 1) / 128 - pa / 128 + 1)).map (pa / 128 + ·)

/-- A unit of a core's die reaches a line's home and is answered: each die learns the other's time (R288). -/
def State.visit (s : State) (core line : Nat) : State := s.meet (core / 32) (homeDie line)

/-- The same for a range. -/
def unitReadyAll (s : State) (pa n : Nat) (asid : Nat := 0) (pte : Word := 0) : State :=
  (rangeOf pa n).foldl (fun s line => unitReady s line asid pte) s

/-- Does a host agent share a line, so that a write invalidates it first (R297)? -/
def hostShares (s : State) (line : Nat) : Bool :=
  match SMap.find s.dir line with
  | none => false
  | some d => if d.coarse then d.vec &&& 0b110000 != 0 else d.ptrs.any (fun a => decide (8 ≤ a))

/-- Does a line have to be recalled before the named halves of it are written? -/
def lineShared (s : State) (line : Nat) (half : BitVec 2 := 3) : Bool := lineBusy s line half || hostShares s line

/-- The agents that share a line, but the home, are invalidated for a unit of the device that tries again later (R297). -/
def clearSharers (s : State) (line : Nat) : State :=
  match SMap.find s.dir line with
  | none => s
  | some d =>
    let targets := (if d.coarse then (List.range 12).filter (fun a => d.vec.getLsbD (a / 2)) else d.ptrs).filter (· != homeDie line)
    let wait (h : HalfSt) : HalfSt := if h = .S then .XS else h
    if d.serving.isSome || targets.isEmpty || !(d.hi == .S || d.lo == .S) then s
    else
      { s with
        dir := SMap.set line { d with hi := wait d.hi, lo := wait d.lo, nack := targets.length, b := 0, serving := some .unit } s.dir
        msgs := s.msgs ++ targets.map (fun a => { kind := .inv, line := line, agent := a, dt := (s.die (homeDie line)).dt }) }

/-- A line is made ready for a unit's write: a host agent's halves, of those named, are recalled, or its copies invalidated (R297). -/
def claimLine (s : State) (line : Nat) (half : BitVec 2 := 3) : State :=
  if lineBusy s line half then recallHost s line half else clearSharers s line

/-- A device write of some bytes of a line (R288), for core `core` when it acts for one. -/
def sysStore (s : State) (line : Nat) (data : Line) (m : Mask) (bad : Bool) (asid : Nat) (pte : Word) (core : Option Nat) : State :=
  let (s, b) := collect s line asid pte
  let s := match core with
    | some c => s.cross (c / 32) (homeDie line)
    | none => s
  let ct := (core.map (fun c => (s.core c).ct)).getD 0
  let (s, w) := storeHome s line data m bad asid pte 0 ct b none
  match core with
  | some c => (s.cross (homeDie line) (c / 32)).raiseCt c w
  | none => s

/-- The bytes of physical memory from an address, line by line. -/
def sysBytes (s : State) (pa n : Nat) (asid : Nat := 0) (pte : Word := 0) : List Byte :=
  (List.range n).map (fun i => lineByte (sysLine s ((pa + i) / 128) asid pte).1 ((pa + i) % 128))

/-- Is a line of a range of physical memory poisoned (R98)? -/
def sysBad (s : State) (pa n : Nat) (asid : Nat := 0) (pte : Word := 0) : Bool :=
  (rangeOf pa n).any (fun line => (sysLine s line asid pte).2)

/-- A device write of bytes at a physical address. -/
def sysPut (s : State) (pa : Nat) (l : List Byte) (asid : Nat) (pte : Word) (core : Option Nat) : State :=
  let first := pa / 128
  let last := (pa + l.length - 1) / 128
  if l = [] then s
  else
    (List.range (last - first + 1)).foldl (fun s i =>
      let line := first + i
      let idx := (List.range 128).filter (fun j => decide (pa ≤ line * 128 + j) && decide (line * 128 + j < pa + l.length))
      let data := idx.foldl (fun (acc : Line) j => lineSet acc j ((l[line * 128 + j - pa]?).getD 0)) 0
      sysStore s line data (maskOf idx) false asid pte core) s

end Sys2Proof.Machine
end

