-- ==== Sys2Proof/Machine/Translate.lean ====
section
/-! DEFINITION. Translation: the page-table walk, the clusters' translation units, permissions (R252 to R255, R267), and
the faults that wait for the page-fault service (R256). -/

namespace Sys2Proof.Machine

/-- What a walk finds: a leaf entry, with its level and place, or the entry at which it stops; `bad` tells a malformed one,
whose record R255 asks for. -/
inductive Walk where
  | leaf (level place : Nat) (pte : Word)
  | stop (place : Nat) (pte : Word) (bad : Bool)
  /-- an entry whose table lies where nothing answers: it grants nothing (R224) -/
  | denied (place : Nat) (pte : Word)
  | busy (line : Nat)
  deriving DecidableEq, Repr

/-- The lowest VA bit of a level's index, which is the size of its leaf page (R254). -/
def levelShift (level : Nat) : Nat :=
  match level with
  | 0 => 16
  | 1 => 29
  | 2 => 42
  | 3 => 55
  | _ => 68

/-- Is a valid entry malformed at its level (R255)? -/
def pteMalformed (level : Nat) (x : Word) : Bool :=
  (pteRgx x != 0 && !pteRegen x) || (pteKix x != 0 && !pteProt x) || (level == 0 && !pteLeaf x)
    || (decide (3 ≤ level) && pteLeaf x) || (pteLeaf x && pteFrame x % 2 ^ levelShift level != 0)

/-- The eight bytes of a table entry, as an address space reads them. -/
def entryWord (s : State) (pa : Nat) (asid : Nat := 0) : Word := BitVec.ofNat 64 (natOfBytes (sysBytes s pa 8 asid))

/-- The place of a VA's entry in a table of a level (R254). -/
def entryPlace (va level table : Nat) : Nat := table + 8 * (va / 2 ^ levelShift level % 2 ^ (if level = 4 then 12 else 13))

/-- The walk from a table (R254, R255). An entry in a poisoned block maps nothing. DESIGN CHOICE: log 138. -/
def walkFrom (s : State) (va asid : Nat) : Nat → Nat → Walk
  | 0, table => .stop table 0 false
  | n + 1, table =>
    let place := entryPlace va n table
    if lineBusy s (place / 128) (halvesAt (place % 128) 8) then .busy (place / 128)
    else if sysBad s place 8 asid then .stop place 0 false
    else
      let x := entryWord s place asid
      if !pteV x then .stop place x false
      else if pteMalformed n x then .stop place x true
      else if pteLeaf x then .leaf n place x
      else if unpopulated (pteFrame x) then .denied place x
      else walkFrom s va asid n (pteFrame x)

def walk (s : State) (root va : Nat) (asid : Nat := 0) : Walk := walkFrom s va asid 5 root

/-- The walker reads the entries of a walk: each table's line is made ready to be read, and a half of it that a host agent owns is
recalled (R250, R265, R305). -/
def walkReady (s : State) (va asid : Nat) : Nat → Nat → State
  | 0, _ => s
  | n + 1, table =>
    let place := entryPlace va n table
    let half := halvesAt (place % 128) 8
    if lineBusy s (place / 128) half then recallHost s (place / 128) half
    else
      let s := unitReady s (place / 128) asid
      let x := entryWord s place asid
      if !pteV x || pteMalformed n x || pteLeaf x || unpopulated (pteFrame x) || sysBad s place 8 asid then s
      else walkReady s va asid n (pteFrame x)

/-- What an access needs of its page: read, write, both, execute (R255). -/
inductive Need where
  | read | write | update | execute
  deriving DecidableEq, Repr

/-- Does an entry allow an access at a physical address: its bit, a populated frame, a bound key (R224, R255, R267)? -/
def pteAllows (s : State) (asid : Nat) (x : Word) (need : Need) (pa : Nat) : Bool :=
  (match need with
    | .read => pteR x
    | .write => pteW x
    | .update => pteR x && pteW x
    | .execute => pteX x)
  && !unpopulated pa && !(pteProt x && (keyOf s asid (pteKix x)).isNone)

/-- A unit of a core's die is about to read the bytes of a line that lie in some halves, or to write them: the host agents that own
those halves, or that share the line, give them up first. The answer tells whether the unit may go on; it has then visited the line's
home (R250, R288, R297, R305). -/
def unitLine (s : State) (core line asid : Nat) (pte : Word) (need : Need) (half : BitVec 2 := 3) : State × Bool :=
  if pteCast pte then (s, true)
  else if need = .read ∨ need = .execute then
    if lineBusy s line half then (recallHost s line half, false) else ((unitReady s line asid pte).visit core line, true)
  else if lineShared s line half then (claimLine s line half, false)
  else (s, true)

/-- What translation answers. -/
inductive Xlat where
  | ok (pa : Nat) (pte : Word)
  /-- not mapped, or mapped without the permission -/
  | fault (perm : Bool) (pte : Word)
  /-- a table's line is held by a host agent: it has to be recalled first -/
  | busy (line : Nat)
  deriving DecidableEq, Repr

def clusterOf (core : Nat) : Nat := core / 4

/-- The unit's entry for a VA. -/
def tlbFind (s : State) (cluster asid va : Nat) : Option TlbEntry :=
  (SMap.look [] s.tlb cluster).find? (fun e => e.asid == asid && va / 2 ^ e.shift == e.page)

/-- Is a line of an address space inside a page? -/
def inPage (asid shift page key : Nat) : Bool := l1Asid key == asid && l1Vline key * 128 / 2 ^ shift == page

/-- Drop the L1 copies of a page in a cluster's cores. -/
def dropPage (s : State) (cluster asid shift page : Nat) : State :=
  s.dropL1 (fun k _ => l1Core k / 4 == cluster && inPage asid shift page k)

/-- Put an entry into a unit of 4096; one that makes room takes the L1 copies filled under it with it (R213, R253). -/
def tlbPut (s : State) (cluster : Nat) (e : TlbEntry) : State :=
  let l := (SMap.look [] s.tlb cluster).filter (fun x => !(x.asid == e.asid && x.shift == e.shift && x.page == e.page))
  if l.length < 4096 then { s with tlb := SMap.set cluster (e :: l) s.tlb }
  else
    let (n, s) := s.choose l.length
    let s := match l[n]? with
      | some x => dropPage s cluster x.asid x.shift x.page
      | none => s
    { s with tlb := SMap.set cluster (e :: l.eraseIdx n) s.tlb }

/-- Has an entry bits that the walker sets? -/
def bitsSet (s : State) (place asid : Nat) (x : Word) : Bool := entryWord s place asid &&& x == x

/-- The walk of an access by a core's cluster visits the homes of the tables that it reads (R288). -/
def visitWalk (s : State) (core va asid : Nat) : Nat → Nat → State
  | 0, _ => s
  | n + 1, table =>
    let place := entryPlace va n table
    let x := entryWord s place asid
    let s := s.visit core (place / 128)
    if !pteV x || pteMalformed n x || pteLeaf x || unpopulated (pteFrame x) || sysBad s place 8 asid then s
    else visitWalk s core va asid n (pteFrame x)

/-- The walker's atomic OR of the a and d bits (R255). -/
def setBits (s : State) (place asid : Nat) (x : Word) : State :=
  if bitsSet s place asid x then s
  else sysPut s place (bytesOfNat 8 (entryWord s place asid ||| x).toNat) asid 0 none

/-- A record of a malformed entry, which names it (R255, R456). -/
def malformedRecord (s : State) (core place : Nat) (x : Word) : State :=
  s.record { cls := 0x06, sev := 1, die := core / 32, core := core % 32, addr := place, info := x.toNat }

/-- Translate a VA for an access by a core (R253 to R255): a unit's entry that grants it serves; otherwise the walk does.
DEDUCED: log 15. -/
def translate (s : State) (core asid root va : Nat) (need : Need) : State × Xlat :=
  let cluster := clusterOf core
  let off (shift : Nat) (x : Word) : Nat := pteFrame x + va % 2 ^ shift
  let hit := (tlbFind s cluster asid va).filter (fun e =>
    pteAllows s asid e.pte need (off e.shift e.pte) && (need == .read || need == .execute || pteD e.pte))
  match hit with
  | some e => (s, .ok (off e.shift e.pte) e.pte)
  | none =>
    let s := visitWalk (walkReady s va asid 5 root) core va asid 5 root
    match walk s root va asid with
    | .busy line => (s, .busy line)
    | .stop place x bad => (if bad then malformedRecord s core place x else s, .fault false x)
    | .denied _ x => (s, .fault true x)
    | .leaf level place x =>
      let shift := levelShift level
      let pa := off shift x
      if !pteAllows s asid x need pa then (s, .fault true x)
      else
        let bits : Word := if need = .write ∨ need = .update then 0x60 else 0x20
        let half := halvesAt (place % 128) 8
        if !bitsSet s place asid bits && lineShared s (place / 128) half then (claimLine s (place / 128) half, .busy (place / 128))
        else
          let s := setBits s place asid bits
          let x := x ||| bits
          (tlbPut s cluster { asid := asid, shift := shift, page := va / 2 ^ shift, pte := x }, .ok pa x)

/-! ### Faults that wait (R256) -/

def needCode : Need → Nat
  | .read => 0
  | .write => 1
  | .update => 1
  | .execute => 2

/-- MODE's bit of a duty: host-assisted (R215). -/
def hostAssisted (s : State) (duty : Nat) : Bool := s.mode.getLsbD duty

/-- Does a fault meet a page that is to be regenerated (R263)? -/
def regenPage (s : State) (root va asid : Nat) : Bool :=
  match walk s root va asid with
  | .stop _ x bad => pteRegen x && !bad
  | _ => false

/-- A fault goes to the page-fault service: Avosh, or the host by a record of class 0x10 (R256, R464). A page that is to be
regenerated follows the mode of that duty instead (R263). -/
def askService (s : State) (who : Asker) (asid root va : Nat) (need : Need) : State × Nat :=
  let id := s.reqId
  let host := hostAssisted s 6 && !regenPage s root va asid
  let s := { s with reqs := s.reqs ++
    [{ id := id, asker := who, asid := asid, root := root, va := va, need := needCode need, host := host }] }
  let s := if host then s.record { cls := 0x10, sev := 2, addr := va, info := id } else s
  (s, id)

end Sys2Proof.Machine
end

