-- ==== Sys2Proof/Machine/Access.lean ====
section
/-! DEFINITION. Accesses in flight and how a slice or a vault performs them: what a load takes from a line, what an atomic
makes of it, a store with its pushes, and the orders that one warp's accesses keep (R232 to R247, R270 to R279, R288). -/

namespace Sys2Proof.Machine

/-! ### Loads -/

/-- The address of byte i of an access, modulo 2^80 (R125). -/
def byteAt (a i : Nat) : Nat := (a + i) % 2 ^ 80

/-- The addresses of the bytes that a load reads in a line of its space. -/
def Load.bytesOn (l : Load) (vline : Nat) : List Nat :=
  ((l.addrs.map (fun p => (List.range l.size).map (fun i => byteAt p.2 i))).flatten.filter (fun a => a / 128 == vline)).dedup

/-- The bytes as a mask of the line. -/
def Load.maskOn (l : Load) (vline : Nat) : Mask := maskOf ((l.bytesOn vline).map (· % 128))

/-- A load that has read a part. -/
def Load.take (l : Load) (p : Part) (data : Line) (bad : Bool) : Load :=
  { l with
    todo := l.todo.filter (fun q => q.vline != p.vline)
    got := (l.bytesOn p.vline).foldl (fun g a => SMap.set a (lineByte data (a % 128)) g) l.got
    bad := if bad && l.bad.isNone then some (p.vline * 128) else l.bad }

/-- A core with load id replaced. -/
def Core.setLoad (k : Core) (l : Load) : Core := { k with loads := k.loads.map (fun x => if x.id = l.id then l else x) }

/-! ### Order within a warp (R271, R273) -/

/-- Does an earlier access of a warp of a core, still to be performed, touch the same line? Its stores may be another core's, where
it was before a save. DEDUCED: log 8. DEDUCED: log 125. -/
def earlierOnLine (s : State) (core wp : Nat) (n : WarpName) (id line : Nat) (space : Space) : Bool :=
  (s.core core).loads.any (fun l => l.warp == wp && decide (l.id < id) && !l.isCounter && l.space == space && l.todo.any (fun p => p.line == line))
    || s.cores.any (fun k => k.2.stores.any (fun x =>
      x.name == n && decide (x.id < id) && x.space == space && x.line == line && x.exits == 0))

/-- A warp's stores of a line in the side logs of other cores than its own, where it was before a save. DEDUCED: log 125. -/
def strays (s : State) (core : Nat) (n : WarpName) (asid vline : Nat) : List Store :=
  (s.cores.map (fun k => if k.1 = core then [] else k.2.sidelog.filter (fun x =>
    x.name == n && x.asid == asid && x.va == vline * 128))).flatten

/-- Has a warp an earlier acquire whose value is not bound, so that a later access waits (R236, R247)? -/
def acquirePending (k : Core) (wp : Nat) : Bool := k.loads.any (fun l => l.warp == wp && l.acq && !l.isCounter && !l.todo.isEmpty)

/-- Does a range of bytes touch a range of the unit, in whole granules? -/
def MatRange.touches (x : MatRange) (vault : Bool) (lo n : Nat) : Bool :=
  x.vault == vault && decide (lo / 128 ≤ (x.lo + x.n - 1) / 128) && decide (x.lo / 128 ≤ (lo + n - 1) / 128)

/-- Must an access wait for an operation of the matrix unit that is still to be performed: in the local store of any warp, in a
vault of its own (R324, R393)? -/
def matWait (k : Core) (wp : Nat) (vault : Bool) (lo n : Nat) (isStore : Bool) : Bool :=
  k.mq.any (fun j => (!vault || j.warp == wp) && j.ranges.any (fun x => (isStore || x.write) && x.touches vault lo n))

/-- The lanes of a load. -/
def Load.lanes (l : Load) : Mask := maskOf (l.addrs.map Prod.fst)

/-- Are the accesses of an exit increment's lanes performed, as a release at its scope asks: their stores, those in the side log too,
their loads and atomics, the matrix unit's and, from `.gp` on, the acknowledgements of pushes (R184, R241, R246, R259, R393)? -/
def exitReady (s : State) (x : Store) : Bool :=
  !s.cores.any (fun k => (k.2.stores ++ k.2.sidelog).any (fun y =>
      y.name == x.name && decide (y.id < x.id) && (y.lanes &&& x.lanes) != 0)
    || (x.scope != 0 && k.2.pushes.any (fun p => p.owner == x.name && decide (p.seq < x.id) && decide (p.scope ≤ x.scope))))
  && !(s.core x.core).loads.any (fun l =>
    l.warp == x.warp && decide (l.id < x.id) && !l.isCounter && !l.todo.isEmpty && (l.lanes &&& x.lanes) != 0)
  && !(s.core x.core).mq.any (fun j => j.warp == x.warp && decide (j.id < x.id))

/-- Is an earlier entry of the same ATOMN still queued (R247)? -/
def behindRun (s : State) (x : Store) : Bool :=
  x.op == 4 && s.cores.any (fun k => k.2.stores.any (fun y => y.op == 4 && y.exits == 0 && y.run == x.run && decide (y.id < x.id)))

/-- May a store be performed: its warp's earlier accesses of the line are, and a release's conditions hold; an exit increment waits
for the accesses of its lanes (R184, R259)? DEDUCED: log 125. -/
def storeReady (s : State) (x : Store) : Bool :=
  if x.exits ≠ 0 then exitReady s x
  else
    !behindRun s x && !earlierOnLine s x.core x.warp x.name x.id x.line x.space && !(strays s x.core x.name x.asid (x.va / 128)).any (fun y => decide (y.id < x.id))
      && (!x.rel || releaseOk s x.core x.warp x.name x.id x.scope)

/-! ### Engine destinations (R279) -/

/-- The 64 KiB pages of a range of virtual memory. -/
def pagesOf (a n : Nat) : List Nat :=
  if n = 0 then [] else (List.range ((a % 2 ^ 16 + n - 1) / 2 ^ 16 + 1)).map (fun i => (a / 2 ^ 16 + i) % 2 ^ 64)

/-- Does a range of virtual memory reach a physical line, as its address space maps it? -/
def rangeHits (s : State) (root asid a n line : Nat) : Bool :=
  (pagesOf a n).any (fun p => match walk s root (p * 2 ^ 16) asid with
    | .leaf level _ pte =>
      let base := pteFrame pte + p * 2 ^ 16 % 2 ^ levelShift level
      let v := p * 2 ^ 16 + (line * 128 - base)
      decide (base ≤ line * 128) && decide (line * 128 < base + 2 ^ 16)
        && (decide ((v + 2 ^ 80 - a % 2 ^ 80) % 2 ^ 80 < n) || decide ((a % 2 ^ 80 + 2 ^ 80 - v) % 2 ^ 80 < 128))
    | .busy _ => true
    | _ => false)

/-- Is a line still to be written by an engine command that was issued before an access, which waits for it? -/
def engineHolds (s : State) (line id : Nat) : Bool :=
  s.cores.any (fun k => k.2.cmds.any (fun m =>
    let g := s.group m.2.grp
    !m.2.held && !m.2.finished && m.2.err.isNone && decide (m.2.seq < id)
      && ((m.2.kind == .cpy && m.2.dst.space == .virt
          && rangeHits s g.root g.asid (m.2.dst.addr + m.2.done) (m.2.len - m.2.done) line)
        || m.2.holds.any (fun r => rangeHits s g.root g.asid r.1 r.2 line))))

/-! ### Atomics (R247, R248) -/

def atomSize (t : Nat) : Nat := if 2 ≤ t then 8 else 4

/-- The new value of a location. -/
def atomApply (op : AtomOp) (t : Nat) (old c cmp : Nat) : Nat :=
  let n := 8 * atomSize t
  let it := if t = 0 then 0 else if t = 1 then 1 else if t = 2 then 6 else 7
  match op with
  | .add => wrapTo n ((old : Int) + c)
  | .min => intMin it old c
  | .max => intMax it old c
  | .and => old &&& c
  | .or => old ||| c
  | .xor => old ^^^ c
  | .exch => c
  | .fadd => (f32.add { mode := 0 } false old c).1
  | .cas => if old = cmp then c else old

/-- The bytes of a line at a place as a number. -/
def lineField (x : Line) (i n : Nat) : Nat := x.toNat / 256 ^ i % 256 ^ n
/-- A line with n bytes at a place replaced. -/
def lineWith (x : Line) (i n v : Nat) : Line :=
  lineMerge x (BitVec.ofNat 1024 (v % 256 ^ n * 256 ^ i)) (byteSpan i n)

/-- The lanes of an atomic that are performed next: the first that are left, as far as they lie in one line (R247, R248). -/
def atomRun (atoms : List AtomLane) : List AtomLane :=
  match atoms with
  | [] => []
  | a :: _ => atoms.takeWhile (fun b => b.addr / 128 == a.addr / 128)

/-- The bytes of an atomic's lanes in their line. -/
def atomMask (t : Nat) (atoms : List AtomLane) : Mask := atoms.foldl (fun m a => m ||| byteSpan (a.addr % 128) (atomSize t)) 0

/-- The lanes of an atomic that lie in a line, in ascending order, performed on its data: the data, the bytes written, the
old values by lane. -/
def atomsOn (op : AtomOp) (t vline : Nat) (atoms : List AtomLane) (x : Line) : Line × Mask × SMap Word :=
  let n := atomSize t
  (atoms.filter (fun a => a.addr / 128 == vline)).foldl (fun acc a =>
    let i := a.addr % 128
    let old := lineField acc.1 i n
    let new := atomApply op t old (a.c.toNat % 256 ^ n) (a.cmp.toNat % 256 ^ n)
    let wrote := op != .cas || old == a.cmp.toNat % 256 ^ n
    (if wrote then lineWith acc.1 i n new else acc.1, if wrote then acc.2.1 ||| byteSpan i n else acc.2.1,
      SMap.set a.lane (BitVec.ofNat 64 old) acc.2.2)) (x, 0, [])

/-- An atomic with return whose next lanes have been performed: their old values, by lane · 16 and byte. The line is done once no
lane left lies in it. -/
def Load.takeOld (l : Load) (p : Part) (olds : SMap Word) (bad : Bool) : Load :=
  let rest := l.atoms.drop (atomRun l.atoms).length
  { l with
    atoms := rest
    todo := if rest.any (fun a => a.addr / 128 == p.vline) then l.todo else l.todo.filter (fun q => q.vline != p.vline)
    got := olds.foldl (fun g o => (List.range 8).foldl (fun g i => SMap.set (o.1 * 16 + i) (o.2.extractLsb' (8 * i) 8) g) g) l.got
    bad := if bad && l.bad.isNone then some (p.vline * 128) else l.bad }

/-! ### Pushes (R242 to R246, R302) -/

/-- A die becomes a sharer in a stable entry (R294). -/
def Dir.addSharer (d : Dir) (a : Nat) : Dir :=
  if d.coarse then { d with vec := d.vec ||| (1#6 <<< (a / 2)) }
  else if d.ptrs.contains a then d
  else if d.ptrs.length < 4 then { d with ptrs := d.ptrs ++ [a] }
  else { d with coarse := true, ptrs := [], vec := (a :: d.ptrs).foldl (fun v p => v ||| (1#6 <<< (p / 2))) 0 }

/-- The halves in I become S. -/
def Dir.share (d : Dir) (a : Nat) : Dir :=
  let up (h : HalfSt) : HalfSt := if h = .I then .S else h
  { d.addSharer a with hi := up d.hi, lo := up d.lo }

/-- The home sends one push of a performed store (R243, R288, R302): to a core of its die at once, to another die as a
Fill, for which that die is recorded as a sharer first. -/
def sendPush (s : State) (x : Store) (w dst : Nat) : State :=
  let d := homeDie x.line
  let (data, bad) := homeLine s x.line x.asid
  let (id, s) := s.takeId
  let s := s.raiseLease d x.line (w + leaseLength)
  let far := decide (dst / 32 ≠ d)
  let p : Push :=
    { id := id, src := x.core, owner := x.name, dst := dst, asid := x.asid, va := x.va, line := x.line, data := data,
      sectors := sectorsOf x.bmask, time := w, scope := x.scope, bad := bad, seq := x.id, launch := x.launch, hc := pteHc x.pte
      stage := if far then .toDie else .toCore }
  let k := s.core x.core
  let s := s.setCore x.core { k with pushes := k.pushes ++ [p] }
  if far then
    { s with
      dir := SMap.set x.line ((SMap.look {} s.dir x.line).share (dst / 32)) s.dir
      msgs := s.msgs ++
        [{ kind := .fill, line := x.line, agent := dst / 32, data := data, time := w, dt := (s.die d).dt, poison := bad, push := some p }] }
  else s

/-! ### Performing a store -/

/-- Remove a store from its core's queue. -/
def dropStore (s : State) (c id : Nat) : State :=
  let k := s.core c
  s.setCore c { k with stores := k.stores.filter (fun x => x.id != id) }

/-- The die of a vault's line: that of the core of its number (R10, R227). -/
def vaultDie (line : Nat) : Nat := line * 128 / 2 ^ 25 / 32 % 8

/-- A core's access reaches a vault and is answered: each die learns the other's time (R288). -/
def State.crossVault (s : State) (core line : Nat) : State :=
  s.meet (core / 32) (vaultDie line)

/-- A vault's bytes, its poison granule by granule (R98, R227). -/
def vaultPut (s : State) (line : Nat) (data : Line) (m : Mask) (bad : Bool) : State :=
  let old := lineOf (Memory.bytes s.vault (line * 128) 128)
  { s with
    vault := Memory.storeBytes s.vault (line * 128) (lineBytes (lineMerge old data m))
    vaultBad := setPoison s.vaultBad line (poisonAfter (SMap.look false s.vaultBad line) bad m) }

/-- May an atomic run near: the predictor's counter is below 8, and the line is the device's (R250)? -/
def runsNear (s : State) (core vline line : Nat) : Bool := !hostLine line && decide (predictorOf (s.core core) vline < 8)

/-- The time from which what a window writes can be read: the grant's, or the first above the home's leases (R288, R301). -/
def windowTime (s : State) (x : Window) : Nat :=
  x.grant.getD (((s.l2At (homeDie x.line) x.line).map (·.rts)).getD (s.goneAt (homeDie x.line) x.line) + 1)

/-- An atomic performed in an open window (R250): the data, the bytes written, the old values. A core that has written stands at
the write's time, so that what follows it is later than every copy that still shows the old value (R271, R272). DEDUCED: log 139. -/
def windowAtomic (s : State) (x : Window) (op : AtomOp) (t : Nat) (atoms : List AtomLane) : State × SMap Word :=
  let (data, m, olds) := atomsOn op t (l1Vline x.key) atoms x.data
  let y := { x with data := data, bmask := x.bmask ||| m }
  let s := { s with windows := s.windows.map (fun z => if z.key = x.key then y else z) }
  (if m = 0 then s else s.raiseCt (l1Core x.key) (windowTime s x), olds)

/-- The home grants a core of its die a window on a line (R250), above the leases that it has collected. -/
def openWindow (s : State) (key line asid : Nat) (pte : Word) (launch b : Nat) : State :=
  let s := endHomeWindows s line none
  let (s, l) := homeFill s line asid pte launch
  let s := (s.raiseLease (homeDie line) line b).dropL1 (fun k _ => k == key)
  { s with windows := s.windows ++ [{ core := l1Core key, key := key, line := line, ends := s.arith + 64, data := l.data, pte := pte }] }

/-- An atomic on one line, performed for a core: in its window, in a window the home grants it, or at the home (R247, R250,
R288). `b` is the largest rts that acknowledgements carried. -/
def atomicOn (s : State) (core key line asid : Nat) (pte : Word) (launch : Nat) (op : AtomOp) (t : Nat)
    (atoms : List AtomLane) (near : Bool) (b : Nat) : State × SMap Word × Bool :=
  let vline := l1Vline key
  let home := homeDie line
  let done (s : State) : State := s.setCore core (predict (s.core core) vline (fun c => c - 1))
  match windowOf s key with
  | some x =>
    if x.bad then (s, (atomsOn op t vline atoms x.data).2.2, true)
    else
      let (s, olds) := windowAtomic s x op t atoms
      (done s, olds, false)
  | none =>
    let s := if hostLine line then s else (homeFill s line asid pte launch).1
    let bad := if hostLine line then (blockRead s line asid).2 else (homeFill s line asid pte launch).2.poison
    if near && home == core / 32 && !bad then
      let s := openWindow s key line asid pte launch b
      match windowOf s key with
      | some x =>
        let (s, olds) := windowAtomic s x op t atoms
        (done s, olds, false)
      | none => (s, [], false)
    else
      let s := endHomeWindows s line none
      let s := s.cross (core / 32) home
      let old := if hostLine line then rawLine s line else (homeFill s line asid pte launch).2.data
      let (data, m, olds) := atomsOn op t vline atoms old
      if bad then (s, olds, true)
      else
        let (s, w) := storeHome s line data m false asid pte launch (s.core core).ct b (some (core, key))
        (done ((s.cross home (core / 32)).raiseCt core w), olds, false)

/-- A queued store performed, once its order and the directory allow it (R241, R243, R247, R288). `b` is the largest rts
that acknowledgements carried. -/
def performStore (s : State) (x : Store) (b : Nat) : State :=
  let s := dropStore s x.core x.id
  match x.space with
  | .vault => vaultPut (s.crossVault x.core x.line) x.line x.data x.bmask false
  | .ls => s
  | .virt =>
    let key := l1Key x.core x.asid (x.va / 128)
    if x.op = 4 then
      (atomicOn s x.core key x.line x.asid x.pte x.launch x.aop x.atype x.atoms
        (x.exits == 0 && runsNear s x.core (x.va / 128) x.line) b).1
    else
      let s := endHomeWindows s x.line none
      let home := homeDie x.line
      let s := s.cross (x.core / 32) home
      let (s, w) := storeHome s x.line x.data x.bmask false x.asid x.pte x.launch (s.core x.core).ct b (some (x.core, key))
      let s := (s.cross home (x.core / 32)).raiseCt x.core w
      if x.op = 3 then x.dest.dedup.foldl (fun s r => sendPush s x w r) s else s

/-! ### Performing a part of a load -/

/-- Give a load one part's data. -/
def deliverPart (s : State) (core id : Nat) (p : Part) (data : Line) (bad : Bool) : State :=
  let k := s.core core
  { s with cores := SMap.set core { k with loads := k.loads.map (fun l => if l.id = id then l.take p data bad else l) } s.cores }

/-- A vault's line. -/
def vaultLine (s : State) (line : Nat) : Line × Bool :=
  (lineOf (Memory.bytes s.vault (line * 128) 128), SMap.look false s.vaultBad line)

/-- The level that serves a core a line from a slice of a die, as a monitor's source numbers it (R208): its own die's slice serves as
the home slice does. DESIGN CHOICE: log 35. -/
def levelOf (s : State) (die core line : Nat) (hc : Bool) : Nat :=
  let held := (s.l2At die line).isSome
  if hostLine line && !(hc && held) then 7
  else if die ≠ core / 32 then 5
  else if held then 1
  else if cxlLine line then 6 else 4

/-- A part of a load has been served by a level. -/
def State.served (s : State) (core id level : Nat) : State :=
  let k := s.core core
  s.setCore core { k with loads := k.loads.map (fun x => if x.id = id then { x with level := max x.level level } else x) }

/-- Does the unit of a core's cluster still translate a line of an address space to a physical line? A copy is made only under a translation
that stands: none outlives it (R213). -/
def stillMapped (s : State) (core asid vline line : Nat) : Bool :=
  (tlbFind s (clusterOf core) asid (vline * 128)).any (fun e => pteFrame e.pte + vline * 128 % 2 ^ e.shift == line * 128)

/-- A slice serves one part of a load: the home's for a core of its die, a proxy's otherwise; `die` is the slice's (R288).
A page that may not be cached goes to the host each time (R453). PREF into the L2 only fills the slice (R239). -/
def servePart (s : State) (die core : Nat) (l : Load) (p : Part) : State :=
  let key := l1Key core l.asid p.vline
  let launch := (s.groupOf l.warp).launch
  let s := s.served core l.id (levelOf s die core p.line (pteHc p.pte))
  if hostLine p.line && !pteHc p.pte then
    let home := homeDie p.line
    let (x, bad) := blockRead s p.line l.asid
    deliverPart (s.meet (core / 32) home) core l.id p x bad
  else
    let s := endHomeWindows s p.line none
    let (s, x) := if die = homeDie p.line then homeFill s p.line l.asid p.pte launch
      else (s, (s.l2At die p.line).getD { data := 0, wts := 0, rts := 0 })
    let s := match l.form with
      | .pref true => s
      | _ => if stillMapped s core l.asid p.vline p.line then leaseTo s die p.line key x l.rep launch else s.raiseCt core x.wts
    deliverPart s core l.id p x.data x.poison

/-- A part served from the core's own copy or window, with its sectors valid (R244, R287). -/
def serveOwn (s : State) (core : Nat) (l : Load) (p : Part) : Option State :=
  let key := l1Key core l.asid p.vline
  match windowOf s key with
  | some x => some (deliverPart s core l.id p x.data x.bad)
  | none =>
    match l1Valid s key (sectorsOf (l.maskOn p.vline)) with
    | some c =>
      let s := match l.form with
        | .pref _ => s
        | _ => l1Read s key c
      some (deliverPart s core l.id p c.data c.bad)
    | none => none

/-- An atomic with return: its next lanes, which lie in one line, are performed. DEDUCED: log 26. -/
def performAtomic (s : State) (core : Nat) (l : Load) (p : Part) (b : Nat) : State :=
  let key := l1Key core l.asid p.vline
  let s := if l.acq then s.acquire core else s
  let level := if (windowOf s key).isSome then 0 else levelOf s (homeDie p.line) core p.line (pteHc p.pte)
  let (s, olds, bad) := atomicOn s core key p.line l.asid p.pte (s.groupOf l.warp).launch l.aop l.itype (atomRun l.atoms)
    (runsNear s core p.vline p.line) b
  let k := s.core core
  s.setCore core { k with loads := k.loads.map (fun x => if x.id = l.id then { x.takeOld p olds bad with level := max x.level level } else x) }

end Sys2Proof.Machine
end

