-- ==== Sys2Proof/Machine/Directory.lean ====
section
/-! DEFINITION. The directory at a line's home and the agents that answer it: the states of R292, the service of requests
(R296 to R298), the messages of R295, the proxies (R293, R299, R313, R314) and the grants (R300, R301). -/

namespace Sys2Proof.Machine

/-! ### Entries -/

def State.dirAt (s : State) (line : Nat) : Dir := SMap.look {} s.dir line
def State.setDir (s : State) (line : Nat) (d : Dir) : State := { s with dir := SMap.put {} line d s.dir }

/-- The agents of the sharer field (R294). -/
def Dir.sharers (d : Dir) : List Nat :=
  if d.coarse then (List.range 12).filter (fun a => d.vec.getLsbD (a / 2)) else d.ptrs
def Dir.isSharer (d : Dir) (a : Nat) : Bool := d.sharers.contains a
/-- The targets of an invalidation (R294). -/
def Dir.targets (d : Dir) (home : Nat) (except_ : Option Nat) : List Nat :=
  d.sharers.filter (fun a => a != home && some a != except_)

def HalfSt.owned (h : HalfSt) : Bool := h == .E || h == .M || h == .O
def HalfSt.waits (h : HalfSt) : Bool := h == .FR || h == .FW

/-- No sharer is left. -/
def Dir.clearSharers (d : Dir) : Dir := { d with coarse := false, ptrs := [], vec := 0 }

/-- The halves in S of an entry without sharers are in I. -/
def Dir.lapse (d : Dir) : Dir :=
  if d.sharers = [] then
    { d with hi := if d.hi = .S then .I else d.hi, lo := if d.lo = .S then .I else d.lo, coarse := false, vec := 0 }
  else d

/-- A half in a state gives way to I, or S while sharers remain. -/
def Dir.freed (d : Dir) : HalfSt := if d.sharers = [] then .I else .S

/-- Change the named halves. -/
def Dir.onHalves (d : Dir) (half : BitVec 2) (f : HalfSt → HalfSt) : Dir :=
  { d with lo := if half.getLsbD 0 then f d.lo else d.lo, hi := if half.getLsbD 1 then f d.hi else d.hi }

/-- The named halves that satisfy p of their state and owner. -/
def Dir.halvesWhere (d : Dir) (half : BitVec 2) (p : HalfSt → Nat → Bool) : BitVec 2 :=
  (if half.getLsbD 0 && p d.lo d.ownLo then 1 else 0) ||| (if half.getLsbD 1 && p d.hi d.ownHi then 2 else 0)

/-- The byte mask of some halves (R292). -/
def halfMask (half : BitVec 2) : Mask :=
  (if half.getLsbD 0 then byteSpan 0 64 else 0) ||| (if half.getLsbD 1 then byteSpan 64 64 else 0)
/-- The halves that a byte mask touches. -/
def halvesOf (m : Mask) : BitVec 2 := (if m &&& byteSpan 0 64 = 0 then 0 else 1) ||| (if m &&& byteSpan 64 64 = 0 then 0 else 2)

/-! ### The entry as error records carry it (R292) -/

def HalfSt.code (h : HalfSt) : Nat :=
  match h with
  | .I => 0
  | .S => 1
  | .E => 2
  | .M => 3
  | .O => 4
  | .XA => 8
  | .XS => 9
  | .FR => 10
  | .FW => 11

/-- The 64 bits of an entry (R292). -/
def Dir.word (d : Dir) : Word :=
  let owner (h : HalfSt) (o : Nat) : Nat := if h.owned || h.waits then o else 0
  let ptrs := d.ptrs.zipIdx.foldl (fun n p => n + p.1 % 16 * 16 ^ p.2) 0
  BitVec.ofNat 64 (d.hi.code * 2 ^ 60 + d.lo.code * 2 ^ 56 + owner d.hi d.ownHi * 2 ^ 52 + owner d.lo d.ownLo * 2 ^ 48
    + (if d.coarse then 2 ^ 47 + d.vec.toNat * 2 ^ 28 else d.ptrs.length * 2 ^ 44 + ptrs * 2 ^ 28) + d.nack * 2 ^ 24 + d.req * 2 ^ 20)

/-- Is an entry malformed: a state code that names no state, or a pointer of 12 to 15 (R292)? -/
def entryMalformed (x : Word) : Bool :=
  let part (lo : Nat) : Nat := x.toNat / 2 ^ lo % 16
  let code (c : Nat) : Bool := decide (c < 5) || (decide (8 ≤ c) && decide (c < 12))
  !code (part 60) || !code (part 56) || decide (12 ≤ part 52) || decide (12 ≤ part 48) || decide (12 ≤ part 20)
    || (!x.getLsbD 47 && (List.range (part 44 % 8)).any (fun i => decide (12 ≤ part (28 + 4 * i))))

/-- A malformed entry poisons its line, and a record carries it (R292, R456). An entry that is well formed does nothing. -/
def directoryError (s : State) (line : Nat) (entry : Word) : State :=
  if !entryMalformed entry then s
  else
    let home := homeDie line
    let s := match s.l2At home line with
      | some l => s.setL2 home line { l with poison := true }
      | none => { s with physBad := setPoison s.physBad line true }
    s.record { cls := 0x07, sev := 3, die := home, addr := line * 128, info := entry.toNat }

/-- A host agent's message reaches the device (R450). A pointer of 12 to 15 names no agent: it makes the entry malformed (R292).
Host memory has no entry here. DESIGN CHOICE: log 140. -/
def hostRequest (s : State) (m : Msg) : State :=
  if hostLine m.line || m.agent < 8 || 16 ≤ m.agent then s
  else if m.agent < 12 then { s with msgs := s.msgs ++ [m] }
  else directoryError s m.line { s.dirAt m.line with req := m.agent }.word

/-- A message from the home. -/
def State.say (s : State) (m : Msg) : State := { s with msgs := s.msgs ++ [{ m with dt := (s.die (homeDie m.line)).dt }] }

/-- The pointer that an entry holds for the request it serves (R292). -/
def Req.pointer : Req → Nat
  | .agent _ a _ => a
  | .load c _ _ => c / 32
  | .store c _ => c / 32
  | .atomic c _ _ => c / 32
  | .unit => 0

/-- Recall some halves from their owners (R297): the entry waits in FR and serves the request afterwards. A die owns both (R305). -/
def recallHalves (s : State) (line : Nat) (half : BitVec 2) (share : Bool) (r : Req) : State :=
  let d := s.dirAt line
  let half := if d.halvesWhere half (fun _ o => decide (o < 8)) = 0 then half else 3
  let s := s.setDir line { d.onHalves half (fun _ => .FR) with serving := some r, req := r.pointer }
  let send (s : State) (o : Nat) (h : BitVec 2) : State :=
    s.say { kind := .rcl, line := line, agent := o, half := h, share := share && decide (8 ≤ o) }
  if half = 3 ∧ d.ownHi = d.ownLo then send s d.ownLo 3
  else
    let s := if half.getLsbD 0 then send s d.ownLo 1 else s
    if half.getLsbD 1 then send s d.ownHi 2 else s

/-- The halves of a line that an agent may share: those that it does not own. -/
def Dir.sharedHalves (d : Dir) (a : Nat) : BitVec 2 := 3 ^^^ d.halvesWhere 3 (fun h o => h.owned && o == a)

/-- Invalidate the targets (R297): the halves in S wait in a transient state for as many acknowledgements. -/
def invalidate (s : State) (line : Nat) (targets : List Nat) (to_ : HalfSt) (r : Req) : State :=
  let d := s.dirAt line
  let d := { d.onHalves 3 (fun h => if h = .S then to_ else h) with
    nack := targets.length, b := 0, serving := some r, req := r.pointer }
  targets.foldl (fun s a => s.say { kind := .inv, line := line, agent := a, half := d.sharedHalves a }) (s.setDir line d)

/-! ### Grants (R300) -/

/-- The home makes an agent the owner of some halves, with data or, to a sharer that asked by Upg, without. The sharers go with the last
half that they share (R294, R305). -/
def grantOwner (s : State) (line a : Nat) (half : BitVec 2) (to_ : HalfSt) (withData : Bool) (b : Nat) : State :=
  let home := homeDie line
  let (s, l) := homeFill s line 0 0 0
  let s := endHomeWindows s line none
  let l := (s.l2At home line).getD l
  let g := max (max l.rts l.wts) b + 1
  let s := (s.setL2 home line { l with rts := g }).raiseDt home g
  let d := s.dirAt line
  let d := { d.onHalves half (fun _ => to_) with
    ownLo := if half.getLsbD 0 then a else d.ownLo, ownHi := if half.getLsbD 1 then a else d.ownHi
    nack := 0, b := 0, serving := none, req := 0 }
  let shared (h : HalfSt) : Bool := h == .S || h == .O
  let d := if to_ = .M && !(shared d.hi || shared d.lo) then d.clearSharers else d
  (s.setDir line d).say
    { kind := if withData then .data else .gntX, line := line, agent := a, half := half, data := l.data, time := g,
      excl := true, poison := l.poison, asid := l.asid, pte := l.attrs }

/-- The home sends a shared copy. -/
def grantShared (s : State) (line a : Nat) (half : BitVec 2) : State :=
  let (s, _) := homeFill s line 0 0 0
  let s := endHomeWindows s line none
  let l := (s.l2At (homeDie line) line).getD { data := 0, wts := 0, rts := 0 }
  s.say { kind := .data, line := line, agent := a, half := half, data := l.data, time := l.wts, poison := l.poison
          asid := l.asid, pte := l.attrs }

/-! ### The service of one request (R297) -/

/-- The half that a request's own rule looks at: both for a die, the named ones for a host agent. -/
def reqHalves (a : Nat) (half : BitVec 2) : BitVec 2 := if a < 8 then 3 else half

/-- A read by an agent. `given` tells that the owners of the halves in O have just shared them (R298). -/
def serveRead (s : State) (line a : Nat) (half : BitVec 2) (given : Bool) : State :=
  let d := s.dirAt line
  let half := reqHalves a half
  let r : Req := .agent .rdS a half
  let away := d.halvesWhere half (fun h _ => h.owned && !(h == .O && (given || decide (a < 8))))
  if away ≠ 0 then recallHalves s line away true r
  else if a < 8 then grantShared (s.setDir line (d.share a)) line a 3
  else
    let fresh := d.halvesWhere half (fun h _ => h == .I)
    let shared := d.halvesWhere half (fun h _ => h == .S || h == .O)
    let s := if shared = 0 then s else grantShared (s.setDir line (d.addSharer a)) line a shared
    if fresh = 0 then s else grantOwner s line a fresh .E true 0

/-- A request for ownership by an agent; an Upg of an agent that shares nothing is a read exclusive (R297). -/
def serveOwnReq (s : State) (line a : Nat) (half : BitVec 2) (upg : Bool) : State :=
  let d := s.dirAt line
  let half := reqHalves a half
  let r : Req := .agent (if upg then .upg else .rdX) a half
  let away := d.halvesWhere half (fun h _ => h.owned)
  if away ≠ 0 then recallHalves s line away false r
  else
    let targets := if d.halvesWhere half (fun h _ => h == .S) = 0 then [] else d.targets (homeDie line) (some a)
    if targets ≠ [] then invalidate s line targets .XA r
    else grantOwner s line a half .M (!(upg && d.isSharer a)) 0

/-- The store of a request, if it is still queued. -/
def findStore (s : State) (core id : Nat) : Option Store := (s.core core).stores.find? (fun x => x.id == id)
/-- The part of a load that lies in a line. -/
def findPart (s : State) (core id vline : Nat) : Option (Load × Part) :=
  match (s.core core).loads.find? (fun l => l.id == id) with
  | none => none
  | some l => (l.todo.find? (fun p => p.vline == vline)).map (fun p => (l, p))

/-- A write to the line by a core: owned halves it touches are recalled, the sharers of a half that it touches invalidated, and it
is performed (R297, R305). -/
def serveWrite (s : State) (line : Nat) (half : BitVec 2) (r : Req) (perform : State → State) : State :=
  let d := s.dirAt line
  let away := d.halvesWhere half (fun h _ => h.owned)
  if away ≠ 0 then recallHalves s line away false r
  else if d.halvesWhere half (fun h _ => h == .S) = 0 then perform s
  else
    let targets := d.targets (homeDie line) none
    if targets ≠ [] then invalidate s line targets .XS r
    else perform (s.setDir line (d.clearSharers.lapse))

/-- The halves that a core's atomic acts on: both where the home grants a window, else those it touches (R250, R305). -/
def atomHalves (s : State) (core vline line t : Nat) (atoms : List AtomLane) (near : Bool) : BitVec 2 :=
  if near && homeDie line == core / 32 && runsNear s core vline line then 3 else halvesOf (atomMask t atoms)

/-- Perform the write of a request, with the largest rts collected for it. -/
def performReq (s : State) (r : Req) (b : Nat) : State :=
  match r with
  | .store core id =>
    match findStore s core id with
    | some x => performStore s x b
    | none => s
  | .atomic core id vline =>
    match findPart s core id vline with
    | some (l, p) => performAtomic s core l p b
    | none => s
  | _ => s

/-- Serve one request of a line in a stable state (R297). -/
def serve (s : State) (line : Nat) (r : Req) : State :=
  match r with
  | .agent .rdS a half => serveRead s line a half false
  | .agent .upg a half => serveOwnReq s line a half true
  | .agent _ a half => serveOwnReq s line a half false
  | .load core id vline =>
    match findPart s core id vline with
    | some (l, p) =>
      let away := (s.dirAt line).halvesWhere (halvesOf (l.maskOn vline)) (fun h _ => h.owned)
      if away ≠ 0 then recallHalves s line away false r else servePart s (homeDie line) core l p
    | none => s
  | .store core id =>
    match findStore s core id with
    | some x =>
      let half := if x.op = 4 then atomHalves s core (x.va / 128) line x.atype x.atoms (x.exits == 0) else halvesOf x.bmask
      serveWrite s line half r (fun s => performReq s r 0)
    | none => s
  | .atomic core id vline =>
    match findPart s core id vline with
    | some (l, _) => serveWrite s line (atomHalves s core vline line l.itype (atomRun l.atoms) true) r (fun s => performReq s r 0)
    | none => s
  | .unit => s

/-- Serve the requests that wait, in arrival order, until one has to wait itself (R296). -/
def drain : Nat → State → Nat → State
  | 0, s, _ => s
  | n + 1, s, line =>
    let d := s.dirAt line
    match d.serving, d.waiting with
    | none, r :: rest => drain n (serve (s.setDir line { d with waiting := rest }) line r) line
    | _, _ => s

/-- A request's place among those that arrive in one cycle: the home die's cores first, then by pointer (R296). -/
def Req.rank (r : Req) (home : Nat) : Nat :=
  match r with
  | .agent _ a _ => a + 1
  | .load c _ _ => if c / 32 = home then 0 else c / 32 + 1
  | .store c _ => if c / 32 = home then 0 else c / 32 + 1
  | .atomic c _ _ => if c / 32 = home then 0 else c / 32 + 1
  | .unit => 0

/-- May a request of a rank still be taken in this cycle (R296)? -/
def mayArrive (s : State) (line rank : Nat) : Bool := !s.arrivals.any (fun x => x.1 == line && decide (rank < x.2))

/-- A request arrives: it is served in a stable state, and waits in a transient one (R296). -/
def arrive (s : State) (line : Nat) (r : Req) : State :=
  let d := s.dirAt line
  let rank := r.rank (homeDie line)
  if d.waiting.contains r || d.serving == some r || !mayArrive s line rank then s
  else
    let s := { s with arrivals := s.arrivals ++ [(line, rank)] }
    if d.serving.isSome then s.setDir line { d with waiting := d.waiting ++ [r] }
    else drain (d.waiting.length + 1) (serve s line r) line

/-- The request under way is served again, then those that wait. -/
def resume (s : State) (line : Nat) : State :=
  let d := s.dirAt line
  match d.serving with
  | none => drain (d.waiting.length + 1) s line
  | some r => drain (d.waiting.length + 1) (serve (s.setDir line { d with serving := none, req := 0 }) line r) line

/-! ### Messages (R295) -/

def MsgKind.toHome : MsgKind → Bool
  | .rdS | .rdX | .upg | .putE | .putM | .evict | .invAck | .rclData | .rclAck => true
  | _ => false

/-- Take message ix when it is of a kind and no earlier one of its pair, line and direction is in flight (R295); the
receiver's die learns the sender's DT (R288). -/
def takeMsg (s : State) (ix : Nat) (kind : MsgKind) : Option (Msg × State) :=
  match s.msgs[ix]? with
  | none => none
  | some m =>
    let same (x : Msg) : Bool := x.line == m.line && x.agent == m.agent && x.kind.toHome == m.kind.toHome
    if m.kind ≠ kind ∨ (s.msgs.take ix).any same then none
    else
      let s := { s with msgs := s.msgs.eraseIdx ix }
      let s := if m.kind.toHome then s.raiseDt (homeDie m.line) m.dt
        else if m.agent < 8 then s.raiseDt m.agent m.dt else s
      some (m, s)

/-- An event that takes a message. -/
def onMsg (ix : Nat) (kind : MsgKind) (s : State) (f : Msg → State → State) : Host.Outcome State Fault Refusal :=
  match takeMsg s ix kind with
  | some (m, s) => .next (f m s)
  | none => .next s

/-- The launch whose load of a line a die waits for (R453); 0 where none does. -/
def askingLaunch (s : State) (die line : Nat) : Nat :=
  ((s.cores.filter (fun k => k.1 / 32 == die)).findSome? (fun k =>
    (k.2.loads.find? (fun l => l.todo.any (fun p => p.line == line))).map (fun l => (s.groupOf l.warp).launch))).getD 0

/-- An agent's request reaches the home, when its place in the cycle has come (R296). -/
def onReq (ix : Nat) (kind : MsgKind) (s : State) : Host.Outcome State Fault Refusal :=
  if (s.msgs[ix]?).any (fun m => !mayArrive s m.line (m.agent + 1)) then .next s
  else onMsg ix kind s (fun m s =>
    let (s, _) := homeFill s m.line m.asid m.pte (askingLaunch s m.agent m.line)
    arrive s m.line (.agent kind m.agent (reqHalves m.agent m.half)))

/-- RDS (R297). -/
def execRds (msg : Nat) (s : State) := onReq msg .rdS s
/-- RDX (R297). -/
def execRdx (msg : Nat) (s : State) := onReq msg .rdX s
/-- UPG (R297). -/
def execUpg (msg : Nat) (s : State) := onReq msg .upg s

/-- The home takes an owner's data for some halves (R297, R298, R305): the bytes of those halves alone. A die's carries its
window's write time; a host agent's that of its stores, which stand at least at the home's leases, below the next store's. -/
def takeData (s : State) (m : Msg) (half : BitVec 2) : State :=
  let home := homeDie m.line
  let (s, l) := homeFill s m.line m.asid m.pte 0
  let t := if m.agent < 8 then m.time else max m.time l.rts
  s.setL2 home m.line
    { l with data := lineMerge l.data m.data (halfMask half), dirty := true, wts := max l.wts t, rts := max l.rts (max l.wts t),
             poison := poisonAfter l.poison m.poison (halfMask half) }

/-- A write-back from a line's recorded owner: a half in E or M is in I then, one in O in S while it has sharers; in FR it crosses
the recall (R297, R298). The data is taken when there is any. -/
def takePut (s : State) (m : Msg) (withData : Bool) : State :=
  let d := s.dirAt m.line
  let half := reqHalves m.agent m.half
  let stable := d.halvesWhere half (fun h o => h.owned && o == m.agent)
  let crossed := d.halvesWhere half (fun h o => h == .FR && o == m.agent)
  let s := if withData && (stable ||| crossed) != 0 then takeData s m (stable ||| crossed) else s
  let d := (d.onHalves stable (fun h => if h = .O then d.freed else .I)).onHalves crossed (fun _ => .FW)
  (s.setDir m.line d).say { kind := .putAck, line := m.line, agent := m.agent, half := half }

/-- PUTE (R297). -/
def execPute (msg : Nat) (s : State) := onMsg msg .putE s (fun m s => takePut s m false)
/-- PUTM (R297). -/
def execPutm (msg : Nat) (s : State) := onMsg msg .putM s (fun m s => takePut s m true)

/-- EVICT (R297, R298): a pointer is removed, and the home stands above the leases of the die, which no InvAck will report; a coarse
vector stays. DEDUCED: log 149. -/
def execEvict (msg : Nat) (s : State) := onMsg msg .evict s (fun m s =>
  let s := s.raiseLease (homeDie m.line) m.line m.time
  let d := s.dirAt m.line
  if d.coarse then s
  else
    let d := { d with ptrs := d.ptrs.filter (· != m.agent) }
    s.setDir m.line d.lapse)

/-- INVACK (R298): at zero the home grants, or performs the store that waits. The requester may share the other half still (R305). -/
def execInvack (msg : Nat) (s : State) := onMsg msg .invAck s (fun m s =>
  let d := s.dirAt m.line
  let trans (h : HalfSt) : Bool := h == .XA || h == .XS
  if !(trans d.hi || trans d.lo) then s
  else
    let d := { d with b := max d.b m.time, ptrs := d.ptrs.filter (· != m.agent), nack := d.nack - 1 }
    let s := s.setDir m.line d
    if d.nack ≠ 0 then s
    else
      match d.serving with
      | some (.agent kind a half) =>
        let keeps := kind == .upg && d.isSharer a
        let named := reqHalves a half
        let stays (h : HalfSt) (lo : Bool) : HalfSt :=
          if !trans h then h else if d.isSharer a && !named.getLsbD (if lo then 0 else 1) then .S else .I
        let own : Dir := { d.clearSharers with ptrs := if d.isSharer a then [a] else [] }
        let s := s.setDir m.line { own with hi := stays d.hi false, lo := stays d.lo true }
        resume (grantOwner s m.line a named .M (!keeps) d.b) m.line
      | some r =>
        let d1 := { (d.onHalves 3 (fun h => if trans h then .I else h)).clearSharers.lapse with serving := none, req := 0, b := 0 }
        resume (performReq (s.setDir m.line d1) r d.b) m.line
      | none => s)

/-- A recall's answer has come for some halves; the waiting request is served once no half waits (R298). A host agent's read is
served from the halves that their owners share. -/
def recallDone (s : State) (line : Nat) (given : Bool) : State :=
  let d := s.dirAt line
  if d.hi.waits || d.lo.waits then s
  else
    match d.serving, given with
    | some (.agent .rdS a half), true =>
      let s := serveRead (s.setDir line { d with serving := none, req := 0 }) line a half true
      drain (d.waiting.length + 1) s line
    | _, _ => resume s line

/-- RCLDATA (R298): the owner gives up, or a host owner shares and keeps O. -/
def execRcldata (msg : Nat) (s : State) := onMsg msg .rclData s (fun m s =>
  let d := s.dirAt m.line
  let half := d.halvesWhere (reqHalves m.agent m.half) (fun h o => h == .FR && o == m.agent)
  if half = 0 then s
  else
    let s := takeData s m half
    let d := s.dirAt m.line
    let share := m.share && decide (8 ≤ m.agent)
    recallDone (s.setDir m.line (d.onHalves half (fun _ => if share then .O else d.freed))) m.line share)

/-- RCLACK (R298): the line was being written back, or is no longer held. -/
def execRclack (msg : Nat) (s : State) := onMsg msg .rclAck s (fun m s =>
  let d := s.dirAt m.line
  let half := d.halvesWhere (reqHalves m.agent m.half) (fun h o => h.waits && o == m.agent)
  if half = 0 then s else recallDone (s.setDir m.line (d.onHalves half (fun _ => d.freed))) m.line false)

/-! ### The agents (R299 to R301, R313, R314) -/

/-- The core of a die whose near atomic waits for a line: its L1 key. Of several the lowest core is taken, its loads before its stores.
DESIGN CHOICE: log 157. -/
def nearWaiter (s : State) (die line : Nat) : Option Nat :=
  let cores := (List.range 32).map (fun i => die * 32 + i)
  let ofCore (c : Nat) : List Nat :=
    let k := s.core c
    ((k.loads.filter (fun l => l.form == .atomic)).map (fun l =>
        (l.todo.filter (fun p => p.line == line)).map (fun p => l1Key c l.asid p.vline))).flatten
      ++ (k.stores.filter (fun x => x.op == 4 && x.line == line && x.space == .virt)).map (fun x => l1Key c x.asid (x.va / 128))
  ((cores.map ofCore).flatten).head?

/-- The L1 copies of a line that a die's cores hold go: its proxy becomes the owner, and leases that it granted may reach past the grant
time (R272, R300). DEDUCED: log 139. -/
def dropDie (s : State) (die line : Nat) : State := s.dropL1 (fun k c => c.line == line && l1Core k / 32 == die)

/-- A die becomes the owner (R300, R301): the proxy holds the line from the grant time, with the leases that it has granted (R314), and
the window of the core that asked opens. With no core left to use it, the proxy gives the line up at once. -/
def ownLine (s : State) (die line : Nat) (x : L2Line) (g : Nat) : State :=
  let s := (makeRoom (dropDie s die line) die line).setL2 die line { x with wts := g, rts := max g x.rts, own := true, putting := false }
  match nearWaiter s die line with
  | some key =>
    { s with windows := s.windows ++
        [{ core := l1Core key, key := key, line := line, ends := s.arith + 64, data := x.data, grant := some g, bad := x.poison }] }
  | none => putBack s die line x.data g false

/-- The copy that a grant gives a proxy. Leases that it has granted keep running (R313, R314); the attributes are those that the home's
fill captured (R265, R267), the launch the one that asked (R453). -/
def granted (s : State) (m : Msg) : L2Line :=
  { data := m.data, wts := m.time, rts := max m.time (((s.l2At m.agent m.line).map (·.rts)).getD 0), poison := m.poison
    cmp := pteCmp m.pte, prot := pteProt m.pte, kix := pteKix m.pte, asid := m.asid, hc := hostLine m.line
    launch := askingLaunch s m.agent m.line }

/-- DATA (R300, R313): a proxy installs the line; a host agent's copy is its own. -/
def execData (msg : Nat) (s : State) := onMsg msg .data s (fun m s =>
  if 8 ≤ m.agent then s
  else
    let x := granted s m
    if m.excl then ownLine s m.agent m.line x m.time else (makeRoom s m.agent m.line).setL2 m.agent m.line x)

/-- GNTX (R300). A die that holds no whole copy has no use for it, and gives the line up. -/
def execGntx (msg : Nat) (s : State) := onMsg msg .gntX s (fun m s =>
  if 8 ≤ m.agent then s
  else
    match s.l2At m.agent m.line with
    | some x =>
      if x.sectors = 15 then ownLine s m.agent m.line x m.time
      else putBack ((dropDie s m.agent m.line).setL2 m.agent m.line { x with own := true }) m.agent m.line x.data m.time false
    | none =>
      let s := dropDie s m.agent m.line
      { s with msgs := s.msgs ++ [{ kind := .putE, line := m.line, agent := m.agent, time := m.time, dt := (s.die m.agent).dt }] })

/-- INV (R299, R314): the proxy's acknowledgement carries the largest rts it granted; a host agent's carries 0. -/
def execInv (msg : Nat) (s : State) := onMsg msg .inv s (fun m s =>
  let a := m.agent
  if 8 ≤ a then { s with msgs := s.msgs ++ [{ kind := .invAck, line := m.line, agent := a }] }
  else
    let r := max (s.leaseAt a m.line) (((s.l2At a m.line).map (·.rts)).getD 0)
    let s := s.dropL2 a m.line
    { s with msgs := s.msgs ++ [{ kind := .invAck, line := m.line, agent := a, time := r, dt := (s.die a).dt }] })

/-- RCL (R299): a proxy that holds the line ends its window and gives it up; a host agent answers by itself. -/
def execRcl (msg : Nat) (s : State) := onMsg msg .rcl s (fun m s =>
  let a := m.agent
  if 8 ≤ a then s
  else
    let answer (s : State) (x : Msg) : State := { s with msgs := s.msgs ++ [{ x with dt := (s.die a).dt }] }
    match s.l2At a m.line with
    | some x =>
      if x.putting || !x.own then answer s { kind := .rclAck, line := m.line, agent := a }
      else
        let win := s.windows.find? (fun y => y.line == m.line && l1Core y.key / 32 == a)
        let s := match win with
          | some y => windowHit s y
          | none => s
        let s := { s with windows := s.windows.filter (fun y => !(y.line == m.line && l1Core y.key / 32 == a)) }
        answer (s.dropL2 a m.line)
          { kind := .rclData, line := m.line, agent := a, data := (win.map (·.data)).getD x.data, time := x.wts, poison := x.poison
            asid := x.asid, pte := x.attrs }
    | none => answer s { kind := .rclAck, line := m.line, agent := a })

/-- PUTACK (R297): the proxy's line is gone. -/
def execPutack (msg : Nat) (s : State) := onMsg msg .putAck s (fun m s =>
  if 8 ≤ m.agent then s
  else
    match s.l2At m.agent m.line with
    | some x => if x.putting then s.dropL2 m.agent m.line else s
    | none => s)

/-- PROXY_EVICT (R314): a proxy drops a shared line for room, at any time. -/
def execProxyEvict (die line : Nat) (s : State) : Host.Outcome State Fault Refusal :=
  match s.l2At die line with
  | none => .next s
  | some x =>
    if die = homeDie line ∨ x.own ∨ x.putting ∨ 8 ≤ die then .next s else .next (evictLine s die line)

/-- Has a die a request for a line outstanding? -/
def askedFor (s : State) (die line : Nat) : Bool :=
  s.msgs.any (fun m => m.line == line && m.agent == die
      && (m.kind == .rdS || m.kind == .rdX || m.kind == .upg || m.kind == .data || m.kind == .gntX))
    || ((s.dirAt line).serving.toList ++ (s.dirAt line).waiting).any (fun r => match r with
      | .agent _ a _ => a == die
      | _ => false)

/-- A proxy asks the home for a line (R293, R301): for a shared copy, or for the line in M, by Upg when it holds the line in S. -/
def proxyAsk (s : State) (die line asid : Nat) (pte : Word) (excl : Bool) : State :=
  if askedFor s die line || (excl && !ownRoom s die line) then s
  else
    match s.l2At die line with
    | some x =>
      if x.putting then s
      else if x.own then
        match s.windows.find? (fun y => y.line == line && l1Core y.key / 32 == die) with
        | some y => endWindow s y true
        | none => s
      else
        let kind : MsgKind := if excl then .upg else .rdS
        { s with msgs := s.msgs ++ [{ kind := kind, line := line, agent := die, dt := (s.die die).dt, asid := asid, pte := pte }] }
    | none =>
      { s with msgs := s.msgs ++
          [{ kind := if excl then .rdX else .rdS, line := line, agent := die, dt := (s.die die).dt, asid := asid, pte := pte }] }

/-! ### Requests of the cores -/

/-- SLICE_READ (R288): a slice, or the core's own copy, answers one line of a load; an atomic with return is performed. -/
def execSliceRead (core ix part : Nat) (s : State) : Host.Outcome State Fault Refusal :=
  let k := s.core core
  match k.loads[ix]? with
  | none => .next s
  | some l =>
    match l.todo[part]? with
    | none => .next s
    | some p =>
      let die := core / 32
      let home := homeDie p.line
      if p.region.isSome || earlierOnLine s core l.warp (s.nameOf l.warp) l.id p.line l.space || (l.space == .virt && engineHolds s p.line l.id) then .next s
      else if l.space ≠ .virt then
        let (x, bad) := vaultLine s p.line
        .next (deliverPart ((s.crossVault core p.line).served core l.id (if p.line * 128 / 2 ^ 25 = core then 2 else 3)) core l.id p x bad)
      else if l.form = .atomic then
        if (l.atoms.head?).any (fun a => a.addr / 128 != p.vline) || (l.rep && !releaseReady s l.warp l.id l.scope) then .next s
        else if (windowOf s (l1Key core l.asid p.vline)).isSome then .next (performAtomic s core l p 0)
        else if home ≠ die ∧ runsNear s core p.vline p.line then .next (proxyAsk (s.served core l.id 5) die p.line l.asid p.pte true)
        else .next (arrive (s.cross die home) p.line (.atomic core l.id p.vline))
      else
        let s := if l.acq then s.acquire core else s
        match serveOwn s core l p with
        | some s => .next s
        | none =>
          if hostLine p.line && !pteHc p.pte then .next (servePart s home core l p)
          else if home = die then .next (arrive s p.line (.load core l.id p.vline))
          else
            match s.l2At die p.line with
            | some x =>
              if x.own || x.putting || sectorsOf (l.maskOn p.vline) &&& ~~~ x.sectors != 0 then .next (proxyAsk (s.served core l.id 5) die p.line l.asid p.pte false)
              else .next (servePart s die core l p)
            | none => .next (proxyAsk (s.served core l.id 5) die p.line l.asid p.pte false)

/-- The home is reached by a store whose turn has come. -/
def homeStore (s : State) (x : Store) : State :=
  let die := x.core / 32
  let home := homeDie x.line
  if !storeReady s x || (x.space == .virt && engineHolds s x.line x.id) then s
  else if x.space ≠ .virt then performStore s x 0
  else if x.op = 4 ∧ (windowOf s (l1Key x.core x.asid (x.va / 128))).isSome then performStore s x 0
  else if x.op = 4 ∧ x.exits = 0 ∧ home ≠ die ∧ runsNear s x.core (x.va / 128) x.line then
    proxyAsk s die x.line x.asid x.pte true
  else arrive (s.cross die home) x.line (.store x.core x.id)

/-- ATOMIC_WINDOW_END (R250): 64 cycles have passed. A turn of another kind ends such a window by itself. -/
def execAtomicWindowEnd (core ix : Nat) (s : State) : Host.Outcome State Fault Refusal :=
  match (s.windows.filter (fun x => l1Core x.key == core))[ix]? with
  | some x => if x.ends ≤ s.arith then .next (endWindow s x false) else .next s
  | none => .next s

/-! ### Pushes at their receivers (R244 to R246, R302, R303) -/

/-- Replace a push of a core. -/
def setPush (s : State) (p : Push) : State :=
  let k := s.core p.src
  s.setCore p.src { k with pushes := k.pushes.map (fun q => if q.id = p.id then p else q) }

/-- FILL (R302, R303): the proxy installs the line, unless it holds a newer one, and forwards the push. -/
def execFill (msg : Nat) (s : State) := onMsg msg .fill s (fun m s =>
  let a := m.agent
  let newer := (s.l2At a m.line).any (fun x => decide (m.time < x.wts) || x.own || x.putting)
  let s := if newer then s
    else
      let r := ((s.l2At a m.line).map (·.rts)).getD 0
      (makeRoom s a m.line).setL2 a m.line
        { data := m.data, wts := m.time, rts := max r (m.time + leaseLength), poison := m.poison, hc := m.push.any (fun p => p.hc)
          sectors := (m.push.map (fun p => p.sectors)).getD 15 }
  match m.push with
  | some p => setPush s { p with stage := .toCore }
  | none => s)

/-- Does a receiver refuse a push (R244, R303)? -/
def refusesPush (s : State) (p : Push) : Bool :=
  let key := l1Key p.dst p.asid (p.va / 128)
  let k := s.core p.dst
  let marked := (s.l1.filter (fun c => sameSet c.1 key && c.2.pushed)).map Prod.fst
  k.pushq == 0 || decide (k.pushq < marked.length) || (decide (k.pushq ≤ marked.length) && !marked.contains key)
    || !s.groups.any (fun g => coreOf g.1 == p.dst && g.2.asid == p.asid)
    || k.power == .commit || k.power == .off || k.saving
    || s.l1.any (fun c => l1Core c.1 == p.dst && c.2.line == p.line && decide (p.time < c.2.wts))

/-- Is an earlier push of the same line to the same receiver still on its way to it, so that this one has to follow it (R295)? -/
def behindPush (s : State) (p : Push) : Bool :=
  s.cores.any (fun k => k.2.pushes.any (fun q => q.line == p.line && q.dst == p.dst && decide (q.id < p.id) && q.stage != .acked))

/-- PUSH_FILL (R244, R288): the receiver installs the sectors with their lease and marks the line, or refuses; it answers. -/
def execPushFill (core ix : Nat) (s : State) : Host.Outcome State Fault Refusal :=
  match (s.core core).pushes[ix]? with
  | none => .next s
  | some p =>
    if p.stage ≠ .toCore ∨ behindPush s p then .next s
    else
      let s1 := setPush s { p with stage := .acked }
      let k := s1.core p.dst
      if refusesPush s p then .next (s1.setCore p.dst { k with pushRefused := (k.pushRefused + 1) % 2 ^ 21, refusals := k.refusals + 1 })
      else
        let s1 := (s1.setCore p.dst { k with pushInstalled := (k.pushInstalled + 1) % 2 ^ 21 }).raiseCt p.dst p.time
        .next (l1Install s1 (l1Key p.dst p.asid (p.va / 128))
          { data := p.data, sectors := p.sectors, wts := p.time, rts := p.time + leaseLength, pushed := true, line := p.line,
            launch := p.launch, hc := p.hc, bad := p.bad })

/-- PUSH_ACK (R246): the acknowledgement reaches the pusher's core. -/
def execPushAck (core ix : Nat) (s : State) : Host.Outcome State Fault Refusal :=
  let k := s.core core
  match k.pushes[ix]? with
  | none => .next s
  | some p =>
    let behind := k.pushes.any (fun q => q.line == p.line && q.dst == p.dst && decide (q.id < p.id) && q.stage == .acked)
    if p.stage ≠ .acked || behind then .next s
    else .next ((s.setCore core { k with pushes := k.pushes.eraseIdx ix }).cross (p.dst / 32) (core / 32))

end Sys2Proof.Machine
end

