-- ==== Sys2Proof/Machine/Region.lean ====
section
/-! DEFINITION. Cast regions as data (R419 to R433): which region an address lies in, the mould and its value at a point, the
flash list in memory, and what a load and a store of a region make of them; and the writing of tokens (R319 to R321). -/

namespace Sys2Proof.Machine

/-! ### Tokens (R319 to R321) -/

/-- A token's value for a command that completed (R320). -/
def tokenDone (amount : Nat) : Word := BitVec.ofNat 64 (amount % 2 ^ 48)
/-- A token's value for a command that stopped (R320): va is VA[75:16] for reasons 0 and 1. -/
def tokenError (reason va : Nat) : Word :=
  BitVec.ofNat 64 (2 ^ 63 + reason % 8 * 2 ^ 60 + (if reason ≤ 1 then va / 2 ^ 16 % 2 ^ 60 else 0))

/-- A token is written: the register stops being pending, an error tags it (R319, R321). The core learns its die's time, as
the token's first reader does (R279, R288). DEDUCED: log 31. -/
def tokenWrite (s : State) (wp n : Nat) (x : Word) : State :=
  let w := s.warp wp
  if !SMap.has s.warps wp then s
  else
    let w := w.setS n x
    (s.setWarp wp { w with
      tokPend := w.tokPend &&& ~~~ (1#64 <<< n)
      tokTag := if x.getLsbD 63 then w.tokTag ||| (1#64 <<< n) else w.tokTag }).acquire (coreOf wp)

/-- A class 11 token is written: to its warp, or, while its group is saved, for its restore (R438). -/
def regToken (s : State) (t : RegTok) (x : Word) : State :=
  match SMap.findWhere s.groups (fun _ g => g.launch == t.launch && g.gid == t.gid) with
  | some (_, g) => match g.warps[t.index]? with
    | some wp => tokenWrite s wp t.token x
    | none => s
  | none =>
    { s with saved := s.saved.map (fun v =>
        if !v.phase && v.grp.launch == t.launch && v.grp.gid == t.gid then { v with late := v.late ++ [(t.index, t.token, x)] } else v) }

/-- A class 11 token's value (R438). -/
def castToken (outcome count : Nat) : Word := BitVec.ofNat 64 (outcome * 2 ^ 40 + count)

/-! ### Regions (R419 to R422) -/

/-- Bytes of an element. -/
def elemSize (efmt : Nat) : Nat := if efmt = 0 then 4 else 2
def elemFmt (efmt : Nat) : Fmt := if efmt = 0 then f32 else if efmt = 1 then bf16 else f16
def Region.elem (r : Region) : Nat := elemSize r.efmt
def Region.points (r : Region) : Nat := r.dims.foldl (· * ·) 1
def Region.size (r : Region) : Nat := r.points * r.elem

def State.region (s : State) (n : Nat) : Option Region := SMap.find s.regions n
def State.setRegion (s : State) (n : Nat) (r : Region) : State := { s with regions := SMap.set n r s.regions }

/-- The region of an address space in which an address lies. -/
def regionAt (s : State) (asid va : Nat) : Option (Nat × Region) :=
  SMap.findWhere s.regions (fun _ r => r.asid == asid && decide (r.base ≤ va) && decide (va < r.base + r.size))

def RegSt.waits (x : RegSt) : Bool := x == .building || x == .closing

/-- The home die of a region (R421). -/
def Region.home (r : Region) : Nat := homeDie (r.refPa / 128)

/-! ### The mould (R423, R424) -/

/-- A mould parameter block, read. -/
structure Mould where
  nfeat : Nat
  layers : List (List Nat × List Nat)
  mo : List Nat
  oscale : Nat
  ooff : Nat
  obias : Nat
  deriving DecidableEq, Repr

def align4 (n : Nat) : Nat := (n + 3) / 4 * 4

/-- The arrays' places for D dimensions, F features, H layers and widths: m1, b2, m2, mo, the end, N and L. -/
def mouldPlaces (d f h w1 w2 : Nat) : Nat × Nat × Nat × Nat × Nat × Nat × Nat :=
  let n := d * (1 + f)
  let l := if h = 0 then n else if h = 1 then w1 else w2
  let m1 := 16 + 4 * w1
  let b2 := align4 (m1 + 2 * w1 * n)
  let m2 := b2 + 4 * w2
  let mo := align4 (m2 + 2 * w2 * w1)
  (m1, b2, m2, mo, mo + 2 * l, n, l)

/-- Does the head of a block keep its ranges (R423)? -/
def mouldHead (d : Nat) (l : List Byte) : Bool :=
  let f := field l 0 1
  let h := field l 1 1
  let w1 := field l 2 1
  let w2 := field l 3 1
  decide (f ≤ 8) && decide (h ≤ 2) && (if 1 ≤ h then decide (1 ≤ w1) && decide (w1 ≤ 32) else w1 == 0)
    && (if h = 2 then decide (1 ≤ w2) && decide (w2 ≤ 32) else w2 == 0) && decide ((mouldPlaces d f h w1 w2).2.2.2.2.1 ≤ 8192)

/-- A block's length. -/
def mouldLength (d : Nat) (l : List Byte) : Nat := (mouldPlaces d (field l 0 1) (field l 1 1) (field l 2 1) (field l 3 1)).2.2.2.2.1

/-- n numbers of k bytes each from a place. -/
def arrayAt (l : List Byte) (off n k : Nat) : List Nat := (List.range n).map (fun i => field l (off + k * i) k)

/-- A block read. -/
def readMould (d : Nat) (b : List Byte) : Mould :=
  let f := field b 0 1
  let h := field b 1 1
  let w1 := field b 2 1
  let w2 := field b 3 1
  let (m1, b2, m2, mo, _, n, l) := mouldPlaces d f h w1 w2
  { nfeat := f
    layers := [(arrayAt b 16 w1 4, arrayAt b m1 (w1 * n) 2), (arrayAt b b2 w2 4, arrayAt b m2 (w2 * w1) 2)].take h
    mo := arrayAt b mo l 2
    oscale := field b 4 4
    ooff := field b 8 4
    obias := field b 12 4 }

def fpAdd (a b : Nat) : Nat := (f32.add rne false a b).1
def fpMul (a b : Nat) : Nat := (f32.mul rne false a b).1
def fpFma (a b c : Nat) : Nat := (f32.fma rne false a b c).1
def fpInt (n : Nat) : Nat := (f32.ofInt rne false n).1

/-- The inputs that one coordinate gives (R424). -/
def mouldInputs (nfeat x n : Nat) : List Nat :=
  let u := (f32.div rne false (fpInt x) (fpInt n)).1
  u :: (List.range nfeat).map (fun j =>
    let z := fpMul u (fpInt (2 ^ j))
    let fl := (f32.integral { mode := 3 } false z).1
    let t := fpAdd (fpAdd z (f32.negate fl)) (f32.negate (f32.code false 1 (-1)))
    fpAdd (fpInt 1) (f32.negate (fpMul (fpInt 4) (t % 2 ^ 31))))

/-- A running sum over weights and inputs (R424); the weights are BF16. -/
def dotGo (acc : Nat) : List Nat → List Nat → Nat
  | w :: ws, x :: xs => dotGo (fpFma (w * 2 ^ 16) x acc) ws xs
  | _, _ => acc

/-- A hidden layer: a sum that is not above 0, a NaN too, gives +0. -/
def mouldLayer (ins : List Nat) (l : List Nat × List Nat) : List Nat :=
  l.1.mapIdx (fun k b =>
    let acc := dotGo b ((l.2.drop (k * ins.length)).take ins.length) ins
    if (f32.read 0).lt (f32.read acc) then acc else 0)

/-- The mould's value at coordinates, in the element format (R424). -/
def mouldValue (b : List Byte) (efmt : Nat) (dims coords : List Nat) : Nat :=
  let m := readMould dims.length b
  let ins := ((dims.zip coords).map (fun p => mouldInputs m.nfeat p.2 p.1)).flatten
  let ins := m.layers.foldl mouldLayer ins
  let y := fpAdd (fpMul (dotGo m.obias m.mo ins) m.oscale) m.ooff
  (f32.convert (elemFmt efmt) rne false y).1

/-- The coordinates of point i, the last dimension varying fastest (R424). -/
def coordsOf (dims : List Nat) (i : Nat) : List Nat :=
  (dims.foldr (fun n (acc : Nat × List Nat) => (acc.1 / n, acc.1 % n :: acc.2)) (i, [])).2

def Region.valueAt (r : Region) (mould : List Byte) (i : Nat) : Nat := mouldValue mould r.efmt r.dims (coordsOf r.dims i)

/-- |v − r| ≤ eps, exactly; a NaN is never within, an infinity only of itself (R428). -/
def Region.within (r : Region) (v x : Nat) : Bool :=
  let f := elemFmt r.efmt
  match f.read v, f.read x, f32.read r.eps with
  | .inf n1, .inf n2, _ => n1 == n2
  | .fin n1 m1 e1, .fin n2 m2 e2, .fin _ m3 e3 =>
    let (_, m, e) := exactSum n1 m1 e1 (!n2) m2 e2
    !(FV.lt (.fin false m3 e3) (.fin false m e))
  | _, _, _ => false

/-! ### The flash list (R425, R426) -/

/-- The smallest power of two that is at least n, n ≥ 1. -/
def pow2Above (n : Nat) : Nat := if n ≤ 1 then 1 else 2 ^ ((n - 1).log2 + 1)
def Region.slots (r : Region) : Nat := pow2Above (2 * r.cap)
def Region.areaSize (r : Region) : Nat := 64 + 32 * r.slots
/-- The place of a slot in the area. -/
def Region.slotOff (r : Region) (table i : Nat) : Nat := 64 + 16 * r.slots * table + 16 * i
def Region.hash (r : Region) (i : Nat) : Nat := i * 0x9E3779B97F4A7C15 % 2 ^ 64 / 2 ^ (64 - r.slots.log2)

/-- Bytes of the area and their poison. -/
def areaRead (s : State) (r : Region) (off n : Nat) : List Byte × Bool :=
  let a := r.flash + off
  if r.flashVault then (Memory.bytes s.vault a n, SMap.look false s.vaultBad (a / 128))
  else (sysBytes s a n r.asid, sysBad s a n r.asid)

/-- Bytes of the area written. -/
def areaWrite (s : State) (r : Region) (off : Nat) (l : List Byte) : State :=
  let a := r.flash + off
  if r.flashVault then { s with vault := Memory.storeBytes s.vault a l, vaultBad := clearWhole s.vaultBad a l.length }
  else sysPut s a l r.asid 0 none

/-- What a search finds (R426): the slot that ends it, whether it holds the point, its value and pin, and the first poisoned granule
met, by its address. -/
structure Probe where
  slot : Nat
  found : Bool
  value : Nat := 0
  pin : Bool := false
  bad : Option Nat := none
  deriving DecidableEq, Repr

def probeGo (s : State) (r : Region) (table i : Nat) : Nat → Nat → Option Nat → Probe
  | 0, slot, bad => { slot := slot, found := false, bad := bad }
  | n + 1, slot, bad =>
    let (l, p) := areaRead s r (r.slotOff table slot) 16
    let bad := if p && bad.isNone then some ((r.flash + r.slotOff table slot) / 128 * 128) else bad
    let key := field l 0 8
    if key = i + 1 then { slot := slot, found := true, value := field l 8 4, pin := field l 12 1 % 2 == 1, bad := bad }
    else if key = 0 then { slot := slot, found := false, bad := bad }
    else probeGo s r table i n ((slot + 1) % r.slots) bad

/-- The search for point i in a table. -/
def probe (s : State) (r : Region) (table i : Nat) : Probe := probeGo s r table i r.slots (r.hash i) none

/-- The entries in use in a table. -/
def flashCount (s : State) (r : Region) (table : Nat) : Nat := natOfBytes (areaRead s r (4 * table) 4).1

/-- A point enters a table, or its entry takes a new value (R426). DEDUCED: log 100. -/
def flashPut (s : State) (r : Region) (table i v : Nat) (pin : Bool) : State :=
  let p := probe s r table i
  let off := r.slotOff table p.slot
  let s := areaWrite s r (off + 8) (bytesOfNat 4 v ++ bytesOfNat 1 (if pin then 1 else 0))
  if p.found then s
  else
    let s := areaWrite s r off (bytesOfNat 8 (i + 1))
    areaWrite s r (4 * table) (bytesOfNat 4 (flashCount s r table + 1))

/-- The lines that hold something in a physical range: every other line reads as zero, without poison. -/
def listedLines (s : State) (pa n : Nat) : List Nat :=
  let within (a : Nat) : Bool := decide (pa / 128 ≤ a) && decide (a ≤ (pa + n - 1) / 128)
  let held : List Nat := (s.phys.map (fun c => c.1 / 128)) ++ (s.l2.map (fun p => p.1 % 2 ^ 45)) ++ (s.windows.map (fun x => x.line))
    ++ s.physBad.map Prod.fst ++ s.tags.map Prod.fst ++ s.prots.map Prod.fst
  (held.filter within).dedup

/-- A range of the area set to 0. -/
def areaClear (s : State) (r : Region) (off n : Nat) : State :=
  let a := r.flash + off
  if r.flashVault then { s with vault := Memory.clear s.vault a n, vaultBad := clearWhole s.vaultBad a n }
  else
    (listedLines s a n).foldl (fun s line =>
      let idx := (List.range 128).filter (fun j => decide (a ≤ line * 128 + j) && decide (line * 128 + j < a + n))
      sysStore s line 0 (maskOf idx) false r.asid 0 none) s

/-- A line of a region's area that a host agent holds or shares. -/
def areaBusy (s : State) (r : Region) : Option Nat :=
  if r.flashVault then none
  else (s.dir.find? (fun p => decide (r.flash / 128 ≤ p.1) && decide (p.1 ≤ (r.flash + r.areaSize - 1) / 128) && lineShared s p.1)).map Prod.fst

/-- A table emptied. -/
def flashClear (s : State) (r : Region) (table : Nat) : State :=
  areaWrite (areaClear s r (r.slotOff table 0) (16 * r.slots)) r (4 * table) (bytesOfNat 4 0)

/-! ### Loads (R427, R445) -/

/-- The value of a point in the current generation, and whether a poisoned slot stood in the way or the region has a bad mould copy.
That such an error poisons what CPY reads of the region, as it faults a load, is the model's choice. DESIGN CHOICE: log 152. -/
def castValue (s : State) (r : Region) (i : Nat) : Nat × Bool :=
  let p := probe s r (r.gen % 2) i
  (if p.found then p.value else r.valueAt r.mould i, p.bad.isSome || r.bad)

/-- The byte of a region at an address. -/
def castByte (s : State) (r : Region) (va : Nat) : Byte × Bool :=
  let off := va - r.base
  let v := castValue s r (off / r.elem)
  (BitVec.ofNat 8 (v.1 / 256 ^ (off % r.elem)), v.2)

/-- The granule that the record of a load's fault names (R240, R445): the poisoned one of the flash area that the search for a point
met; where the mould copy is at fault, which has no granule, the load's own line. -/
def castBad (s : State) (r : Region) (va : Nat) : Nat :=
  ((probe s r (r.gen % 2) ((va - r.base) / r.elem)).bad).getD (va / 128 * 128)

/-! ### Stores (R429, R433) -/

/-- The points of a region that the bytes of a line touch, ascending. -/
def castPoints (r : Region) (va : Nat) (m : Mask) : List Nat :=
  ((lanesOf m).filterMap (fun j =>
    let a := va + j
    if r.base ≤ a ∧ a < r.base + r.size then some ((a - r.base) / r.elem) else none)).dedup

/-- How many entries a line needs beyond those a table holds. -/
def castNeeds (s : State) (r : Region) (pts : List Nat) : Nat := (pts.filter (fun i => !(probe s r (r.gen % 2) i).found)).length

/-- Has the current table room for some points (R429)? -/
def castRoom (s : State) (r : Region) (pts : List Nat) : Bool :=
  decide (flashCount s r (r.gen % 2) + castNeeds s r pts ≤ r.cap)

/-- The physical lines of the flash area that a point's searches end at, with the area's head. -/
def flashLines (s : State) (r : Region) (i : Nat) : List Nat :=
  if r.flashVault then []
  else [r.flash / 128, (r.flash + r.slotOff 0 (probe s r 0 i).slot) / 128, (r.flash + r.slotOff 1 (probe s r 1 i).slot) / 128]

/-- A physical line of the reference copy or the flash area that a host agent holds or shares, so that a store of a point waits. -/
def castBusy (s : State) (r : Region) (i : Nat) : Option Nat :=
  ((r.refPa + r.elem * i) / 128 :: flashLines s r i).find? (lineShared s)

/-- A physical line of the flash area that a host agent owns, so that a load of a point waits. -/
def castHeld (s : State) (r : Region) (i : Nat) : Option Nat := (flashLines s r i).find? (lineBusy s)

/-- The entry of the page that a point of a region lies in (R267, R420). -/
def refPte (s : State) (r : Region) (i : Nat) : Word :=
  match walk s r.root (r.base + r.elem * i) r.asid with
  | .leaf _ _ x => x
  | _ => 0

/-- The record of a region's error (R445, R456). -/
def regionRecord (s : State) (n : Nat) (r : Region) (cls addr : Nat) : State :=
  s.record { cls := cls, sev := 1, die := r.home, slot := n, addr := addr }

/-- The side-log entries that wait for a recast of a region are replayed once it has ended (R430). -/
def releaseEntries (s : State) (n : Nat) : State :=
  { s with cores := s.cores.map (fun k =>
    (k.1, { k.2 with sidelog := k.2.sidelog.map (fun x => if x.reason = 2 ∧ x.cast = some n then { x with ready := true } else x) })) }

/-- Warps that a region holds go on (R465); a freed one fails their accesses as not permitted. -/
def releaseWarps (s : State) (n : Nat) (freed : Bool) : State :=
  { s with warps := s.warps.map (fun p => match p.2.block with
    | .region r pages => if r = n then
        (p.1, { p.2 with block := .free, verdict := if freed then p.2.verdict ++ pages.map (fun x => (x, true)) else p.2.verdict })
      else p
    | _ => p) }

/-- A proposed mould from the fitter, whose method is the implementation's (R441); it keeps to the block's ranges (R423).
DESIGN CHOICE: log 39. -/
def fitterMould (s : State) (r : Region) : List Byte × State :=
  let b := Config.fitMould s.fresh
  (if mouldHead r.ndim b then b else r.mould, { s with fresh := s.fresh + 1 })

/-- A recast of a live region starts (R432): the table to be built is emptied. Without a given mould the fitter proposes, or
the host is asked (R434, R441, R456). -/
def startRecast (s : State) (n : Nat) (r : Region) (given : Option (List Byte)) (tok : Option RegTok) (urgent : Bool) : State :=
  let s := flashClear s r ((r.gen + 1) % 2)
  let start (s : State) (prop : Option (List Byte)) : State :=
    s.setRegion n { r with st := .recasting, recast := some { prop := prop, urgent := urgent, tok := tok } }
  match given with
  | some b => start s (some b)
  | none =>
    if s.mode.getLsbD 2 then
      let id := s.reqId
      let s := { start s none with moulds := s.moulds ++ [(id, n)] }
      s.record { cls := 0x11, sev := 2, slot := n, info := id }
    else
      let (b, s) := fitterMould s r
      start s (some b)

/-- A recast ends without a flip (R432): the table that it built is emptied, generation g stays, the token is written. A
build frees the entry (R439). -/
def recastEnd (s : State) (n : Nat) (r : Region) (outcome : Nat) : State :=
  match r.recast with
  | none => s
  | some rc =>
    let table := if r.st = .building then 0 else (r.gen + 1) % 2
    let s := flashClear s r table
    let count := flashCount s r (r.gen % 2)
    let s := { s with moulds := s.moulds.filter (fun m => m.2 != n) }
    let s := if r.st = .building then { s with regions := SMap.erase n s.regions }
      else s.setRegion n { r with st := if r.st = .recasting then .live else r.st, recast := none }
    let s := match rc.tok with
      | some t => regToken s t (castToken outcome count)
      | none => s
    let s := releaseEntries s n
    if r.st = .building then releaseWarps s n true else s

/-- One point stored (R429): its new value enters the current table and the table being built (R433). -/
def castStorePoint (s : State) (n i : Nat) (bytes : List (Nat × Byte)) : State :=
  match s.region n with
  | none => s
  | some r =>
    let old := sysBytes s (r.refPa + r.elem * i) r.elem r.asid
    let v := natOfBytes (old.mapIdx (fun j b => ((bytes.find? (fun p => p.1 == j)).map Prod.snd).getD b))
    let s := flashPut s r (r.gen % 2) i v false
    if r.st = .recasting then
      let t := (r.gen + 1) % 2
      let s := flashPut s r t i v true
      if r.cap < flashCount s r t then recastEnd s n r 1 else s
    else s

/-- The bytes of a line that lie in a region: their places in it, with their values. -/
def castBytesIn (r : Region) (va : Nat) (data : Line) (m : Mask) : List (Nat × Byte) :=
  (lanesOf m).filterMap (fun j =>
    if r.base ≤ va + j ∧ va + j < r.base + r.size then some (va + j - r.base, lineByte data j) else none)

/-- Bytes stored into the reference copy, line by line: a whole line is one write, which ends its poison (R98, R429). -/
def refStore (s : State) (r : Region) (l : List (Nat × Byte)) : State :=
  ((l.map (fun p => (r.refPa + p.1) / 128)).dedup).foldl (fun s line =>
    let here := l.filter (fun p => (r.refPa + p.1) / 128 == line)
    let data := here.foldl (fun (x : Line) p => lineSet x ((r.refPa + p.1) % 128) p.2) 0
    let pte := refPte s r (((here.head?).map Prod.fst).getD 0 / r.elem)
    sysStore s line data (maskOf (here.map (fun p => (r.refPa + p.1) % 128))) false r.asid pte none) s

/-- The bytes of a line stored into a region, as one event (R429). -/
def castStoreLine (s : State) (n va : Nat) (data : Line) (m : Mask) : State :=
  match s.region n with
  | none => s
  | some r =>
    let l := castBytesIn r va data m
    let s := (castPoints r va m).foldl (fun s i =>
      castStorePoint s n i ((l.filter (fun p => p.1 / r.elem == i)).map (fun p => (p.1 % r.elem, p.2)))) s
    refStore s r l

/-- The occupancy of a region that a core has stored to, for the monitors (R208). -/
def noteCast (s : State) (core n : Nat) : State :=
  match s.region n with
  | some r => s.note core 0x0C (flashCount s r (r.gen % 2))
  | none => s

/-- The regions in which the bytes of a line lie. -/
def regionsOn (s : State) (asid va : Nat) (m : Mask) : List Nat :=
  ((lanesOf m).filterMap (fun j => (regionAt s asid (va + j)).map Prod.fst)).dedup

end Sys2Proof.Machine
end

