-- ==== Sys2Proof/Machine/Memory.lean ====
section
/-! DEFINITION. Classes 6 and 7: loads, stores, push stores, atomics and fences of a warp (R223 to R251, R256 to R260, R421,
R431), and the events LOAD_RETURN and HOME_STORE. -/

namespace Sys2Proof.Machine

/-! ### Effective addresses (R125, R228, R229) -/

def imm8 (f : RWord) : Int := (f.c.extractLsb' 0 8).toInt

/-- The index of lane t as a signed value. -/
def indexVal (w : Warp) (f : RWord) (pair : Bool) (t : Nat) : Int :=
  if isInline f.b then inlineInt f.b
  else if pair then (w.vsrc true f.b t).toInt else (w.vlane f.b.toNat t).toInt

/-- The offset of layout A: the scaled index, negated under neg, and the immediate. -/
def offsetA (w : Warp) (f : RWord) (t : Nat) : Int :=
  let i := indexVal w f (memPair f) t * 2 ^ f.mod 3 1
  (if f.mod 0 0 = 1 then -i else i) + imm8 f

/-- The offset of layouts P and M: the index scaled by the access size. -/
def offsetP (w : Warp) (f : RWord) (n t : Nat) : Int := indexVal w f false t * n

/-- The effective address at an offset from the base. -/
def eaAt (w : Warp) (f : RWord) (x : Int) : Nat := (((w.areg f.a).toNat + x) % 2 ^ 80).toNat

/-- The access size of an integer type. -/
def itypeSize (t : Nat) : Nat := typeBits t / 8

/-! ### Pieces (R232) -/

/-- What one lane accesses in one line: its first byte's address, and how many bytes of the access come before it. -/
structure Piece where
  lane : Nat
  va : Nat
  pos : Nat
  n : Nat
  deriving DecidableEq, Repr

/-- The pieces of accesses of n bytes. -/
def pieces (acc : List (Nat × Nat)) (n : Nat) : List Piece :=
  (acc.map (fun p =>
    let first := min n (128 - p.2 % 128)
    { lane := p.1, va := p.2, pos := 0, n := first } ::
      (if first < n then [{ lane := p.1, va := byteAt p.2 first, pos := first, n := n - first }] else []))).flatten

/-- The lines of some pieces, in the order of lanes. -/
def pieceLines (l : List Piece) : List Nat := (l.map (fun p => p.va / 128)).dedup

/-- The first lane that an access of n bytes leaves misaligned, and all of them (R232). -/
def misaligned (acc : List (Nat × Nat)) (n : Nat) : List (Nat × Nat) := acc.filter (fun p => p.2 % n != 0)

/-- The trap of misaligned lanes, where the lowest of them is below a lane (R195, R232). -/
def oddTrap (odd : List (Nat × Nat)) (below : Nat) : Option Eff :=
  match odd with
  | x :: r => if x.1 < below then some (.trap .misalignedAtomic (BitVec.ofNat 64 x.2) (maskOf ((x :: r).map Prod.fst))) else none
  | [] => none

/-! ### Translation of an instruction's lines (R253, R256) -/

/-- What became of a line. -/
inductive LineRes where
  /-- the core's own copy or window serves it -/
  | own (line : Nat)
  | at (line : Nat) (pte : Word)
  | fault (perm : Bool)
  | busy (line : Nat)
  deriving DecidableEq, Repr

/-- The lines of an instruction translated one by one; `own` names those that the core's own copies serve. A cast page never accepts
an atomic, whatever it permits: nothing is asked of it (R249). -/
def translateLines (s : State) (core : Nat) (g : Group) (need : Need) (own : Nat → Option Nat) (lines : List Nat) :
    State × SMap LineRes :=
  lines.foldl (fun acc v =>
    match own v with
    | some line => (acc.1, SMap.set v (.own line) acc.2)
    | none =>
      let (s, x) := translate acc.1 core g.asid g.root (v * 128) need
      (s, SMap.set v (match x with
        | .ok pa pte => .at (pa / 128) pte
        | .fault perm pte => if perm && pteCast pte && need == .update then .at 0 pte else .fault perm
        | .busy line => .busy line) acc.2)) (s, [])

def lineRes (m : SMap LineRes) (v : Nat) : LineRes := SMap.look (.fault false) m v

/-- A line of a page table that has to be recalled first. -/
def busyLine (m : SMap LineRes) : Option Nat := m.findSome? (fun p => match p.2 with
  | .busy line => some line
  | _ => none)

/-- Does a piece lie on a cast page? -/
def onCast (m : SMap LineRes) (p : Piece) : Bool :=
  match lineRes m (p.va / 128) with
  | .at _ pte => pteCast pte
  | _ => false

/-- The regions of a piece's bytes; none for a byte that lies in no region (R421). -/
def pieceRegions (s : State) (asid : Nat) (p : Piece) : List (Option (Nat × Region)) :=
  ((List.range p.n).map (fun i => regionAt s asid (p.va + i))).dedup

/-- How a piece fails its translation: unmapped or not permitted; the last tells that no service is asked (R249). -/
def pieceFault (s : State) (asid : Nat) (m : SMap LineRes) (atomic : Bool) (p : Piece) : Option (Bool × Bool) :=
  match lineRes m (p.va / 128) with
  | .fault perm => some (perm, false)
  | _ =>
    if onCast m p then
      if atomic then some (true, true) else if (pieceRegions s asid p).contains none then some (true, false) else none
    else none

/-- The lanes that fail, each with the address of its first failing piece, in lane order. -/
def laneFaults (s : State) (asid : Nat) (m : SMap LineRes) (atomic : Bool) (l : List Piece) : List (Nat × Nat × Bool × Bool) :=
  (l.filterMap (fun p => (pieceFault s asid m atomic p).map (fun x => (p.lane, p.va, x.1, x.2)))).foldl
    (fun acc x => if acc.any (fun y => y.1 == x.1) then acc else acc ++ [x]) []

/-- The regions that build or close and that pieces reach, with the pages (R465). -/
def waitingRegion (s : State) (asid : Nat) (m : SMap LineRes) (l : List Piece) : Option (Nat × List Nat) :=
  let hits := (l.filter (onCast m)).map (fun p => ((pieceRegions s asid p).filterMap id).filterMap (fun r =>
    if r.2.st.waits then some (r.1, p.va / 2 ^ 16) else none)) |>.flatten
  match hits with
  | [] => none
  | h :: _ => some (h.1, ((hits.filter (fun x => x.1 == h.1)).map Prod.snd).dedup)

/-- What the service has said of a failing lane: its cause (R256). -/
def faultCause (w : Warp) (x : Nat × Nat × Bool × Bool) : Option Cause :=
  if x.2.2.2 then some .permission
  else (w.verdict.find? (fun v => v.1 == x.2.1 / 2 ^ 16)).map (fun v => if v.2 then .permission else .pageFaultLoad)

/-- VA[79:16], as TRAPINFO holds it (R194). -/
def vaInfo (va : Nat) : Word := BitVec.ofNat 64 (va / 2 ^ 16)

/-- A warp asks the page-fault service for some pages and waits (R256). DEDUCED: log 104. -/
def waitService (s : State) (wp : Nat) (g : Group) (pages : List Nat) (need : Need) : State :=
  let s := pages.foldl (fun s page => (askService s (.warp wp) g.asid g.root (page * 2 ^ 16) need).1) s
  s.setWarp wp { s.warp wp with block := .fault }

/-- The faults of an instruction under warp-disable (R195, R256): once the service has answered for every failing lane, the
lowest lane's cause is raised with every lane that met it; until then the warp waits. -/
def raiseFaults (s : State) (c : Ctx) (g : Group) (need : Need) (bad : List (Nat × Nat × Bool × Bool)) : Option Eff :=
  let w := s.warp c.wp
  match bad with
  | [] => none
  | x :: _ =>
    let open_ := bad.filter (fun y => (faultCause w y).isNone)
    match open_, faultCause w x with
    | [], some cause => some (.trap cause (vaInfo x.2.1) (maskOf ((bad.filter (fun y => faultCause w y == some cause)).map Prod.fst)))
    | _, _ => some (.stay (waitService s c.wp g ((open_.map (fun y => y.2.1 / 2 ^ 16)).dedup) need))

/-- A warp waits for a region that builds or closes (R465). -/
def waitRegion (s : State) (wp : Nat) (x : Nat × List Nat) : State :=
  s.setWarp wp { s.warp wp with block := .region x.1 x.2 }

/-! ### Loads -/

/-- Is an entry of the side log pending for a line of an address space (R259)? -/
def sideLogged (k : Core) (asid vline : Nat) : Bool :=
  k.sidelog.any (fun x => x.asid == asid && x.va == vline * 128)
    || k.stores.any (fun x => x.holds && x.asid == asid && x.va == vline * 128)

/-- Is a warp's load of a line held for an entry of its core's side log, or for one of its own in another core's (R259)?
DEDUCED: log 125. -/
def heldLine (s : State) (wp asid vline : Nat) : Bool :=
  sideLogged (s.core (coreOf wp)) asid vline || !(strays s (coreOf wp) (s.nameOf wp) asid vline).isEmpty

/-- Has a warp a release at a scope beyond its own that is not performed, so that an acquire waits (R251)? -/
def releasePending (s : State) (wp : Nat) : Bool :=
  s.cores.any (fun k => (k.2.stores ++ k.2.sidelog).any (fun x => x.name == s.nameOf wp && x.rel && decide (1 ≤ x.scope)))
    || (s.core (coreOf wp)).loads.any (fun l => l.warp == wp && l.form == .atomic && l.rep && decide (1 ≤ l.scope) && !l.todo.isEmpty)

/-- The physical line of the core's own copy or window that can serve a line of a load at once. -/
def ownLine? (s : State) (core : Nat) (l : Load) (vline : Nat) : Option Nat :=
  let key := l1Key core l.asid vline
  let line : Option Nat := match windowOf s key with
    | some x => some x.line
    | none => (l1Valid s key (sectorsOf (l.maskOn vline))).map (fun (x : L1Line) => x.line)
  if l.form == .atomic then none
  else line.bind (fun n => if earlierOnLine s core l.warp (s.nameOf l.warp) l.id n l.space || engineHolds s n l.id then none else some n)

/-- The parts of a load whose lines are translated; a line of a cast page gives one for each region (R421). -/
def loadParts (s : State) (l : Load) (m : SMap LineRes) (ps : List Piece) : List Part :=
  ((pieceLines ps).map (fun v => match lineRes m v with
    | .own line => [{ vline := v, line := line }]
    | .at line pte =>
      if pteCast pte then
        (((ps.filter (fun p => p.va / 128 == v)).map (fun p => (pieceRegions s l.asid p).filterMap (fun r => r.map Prod.fst))).flatten.dedup).map
          (fun r => { vline := v, line := line, pte := pte, region := some r })
      else [{ vline := v, line := line, pte := pte }]
    | _ => [])).flatten

/-- The eighths of a gather whose checks have passed while a later one waits for the page-fault service: where it is pre-empted there,
these are loaded (R216, R257). `m` and `bad` are what its lines gave. -/
def gatherMark (w : Warp) (l : Load) (m : SMap LineRes) (bad : List (Nat × Nat × Bool × Bool)) (parts : List Piece → List Part) :
    Option (Load × BitVec 8) :=
  let first := (bad.foldl (fun n x => min n x.1) 128) / 16
  let done := l.addrs.filter (fun p => decide (p.1 / 16 < first))
  if l.form != .lanes || l.acq || l.w || w.pos != 0 || done == [] || m == [] then none
  else some ({ l with addrs := done, todo := parts (pieces done l.size) }, BitVec.ofNat 8 (w.pxi.toNat % 256 ||| (2 ^ first - 1)))

/-- A load takes its place, and what the core's own copies hold is read at once. -/
def enterLoad (s : State) (core : Nat) (l : Load) (m : SMap LineRes) : State :=
  let k := s.core core
  let s := s.setCore core { k with loads := k.loads ++ [l] }
  l.todo.foldl (fun s p => match lineRes m p.vline with
    | .own _ => (serveOwn s core l p).getD s
    | _ => s) s

/-- A load of virtual memory issues (R234, R236, R247, R256, R259). The cause of the lowest lane that meets one is raised (R195): a
misaligned lane asks nothing of the page-fault service. `split` tells that a gather may be pre-empted inside. DEDUCED: log 16. -/
def issueLoad (s : State) (c : Ctx) (l : Load) (aligned split : Bool) : Eff :=
  let core := coreOf c.wp
  let g := s.groupOf c.wp
  let k := s.core core
  let need : Need := if l.form == .atomic then .update else .read
  let (id, s) := s.takeId
  let l := { l with id := id, warp := c.wp, pc := c.sp.pc, asid := g.asid, start := s.cycle }
  let isPref := match l.form with
    | .pref _ => true
    | _ => false
  let odd := if aligned then misaligned l.addrs l.size else []
  let ps := pieces (l.addrs.filter (fun p => !odd.contains p)) l.size
  match oddTrap odd (((ps.head?).map (·.lane)).getD 128) with
  | some e => e
  | none =>
    if acquirePending k c.wp || (pieceLines ps).any (heldLine s c.wp g.asid)
        || (l.acq && decide (1 ≤ l.scope) && releasePending s c.wp) then .hold
    else
      let s := if l.acq && l.form != .atomic then s.acquire core else s
      let (s, m) := translateLines s core g need (ownLine? s core l) (pieceLines ps)
      match busyLine m with
      | some line => .stay (recallHost s line)
      | none =>
        let bad := if isPref then [] else laneFaults s g.asid m (l.form == .atomic) ps
        match (oddTrap odd (((bad.head?).map (·.1)).getD 128)).or (raiseFaults s c g need bad) with
        | some (.stay t) =>
          let mark := if split then gatherMark (s.warp c.wp) l m bad (loadParts s l m) else none
          .stay (t.setWarp c.wp { t.warp c.wp with gather := mark })
        | some e => e
        | none =>
          match (if isPref then none else waitingRegion s g.asid m ps) with
          | some x => .stay (waitRegion s c.wp x)
          | none =>
            let parts := (loadParts s l m ps).filter (fun p => !(isPref && p.region.isSome))
            let s := enterLoad s core { l with todo := parts } m
            .done (s.setWarp c.wp { s.warp c.wp with pxi := 0, gather := none }) (if isPref then none else some (.awaited id (l.form == .uniform)))

/-- The lanes of a gather that are still to be loaded: PXI names the eighths that have been (R257). DEDUCED: log 16. -/
def gatherLanes (w : Warp) (act : Mask) : List Nat := (lanesOf act).filter (fun t => !w.pxi.getLsbD (t / 16))

/-- The lanes that have been. -/
def gatherKept (w : Warp) (act : Mask) : Mask := maskOf ((lanesOf act).filter (fun t => w.pxi.getLsbD (t / 16)))

/-- Has a gather interior points of pre-emption: do its destination registers overlap none of its index registers (R257)? -/
def gatherSplits (f : RWord) : Bool :=
  let regs (n : Nat) (pair : Bool) : List Nat := if pair then [n, n + 1] else [n]
  isInline f.b || (regs f.dst.toNat (memWide f)).all (fun r => !(regs f.b.toNat (memPair f)).contains r)

/-- The type of layout A. -/
def RWord.itypeA (f : RWord) : Nat := f.mod 6 4

/-- The vector form of a load. -/
def loadLanes (s : State) (c : Ctx) (f : RWord) (form : LoadForm) (size : Nat) (rep acq : Bool) (scope : Nat) : Eff :=
  let w := s.warp c.wp
  issueLoad s c
    { id := 0, warp := c.wp, pc := c.sp.pc, form := form, space := .virt, dst := f.dst, w := f.w, itype := RWord.itypeA f
      addrs := (gatherLanes w c.act).map (fun t => (t, eaAt w f (offsetA w f t)))
      kept := gatherKept w c.act, size := size, acq := acq, scope := scope, rep := rep, todo := [] } acq (gatherSplits f)

/-- The uniform form of a load: once, as the lowest acting lane (R234). -/
def loadUniform (s : State) (c : Ctx) (f : RWord) (rep acq : Bool) (scope : Nat) : Eff :=
  let w := s.warp c.wp
  match lanesOf c.act with
  | [] => .done s none
  | t :: _ =>
    issueLoad s c
      { id := 0, warp := c.wp, pc := c.sp.pc, form := .uniform, space := .virt, dst := f.dst, w := f.w, itype := RWord.itypeA f
        addrs := [(t, eaAt w f (offsetA w f t))]
        size := itypeSize (RWord.itypeA f), acq := acq, scope := scope, rep := rep, todo := [] } acq false

/-- LD (R234). -/
def execLd (f : RWord) (s : State) := issueR (shLd f) f (fun s c =>
  loadLanes s c f .lanes (itypeSize (RWord.itypeA f)) false false 0) s
/-- LD `.rep` (R235). -/
def execLdRep (f : RWord) (s : State) := issueR (shLd f) f (fun s c =>
  loadLanes s c f .lanes (itypeSize (RWord.itypeA f)) true false 0) s
/-- LDU (R234). -/
def execLdu (f : RWord) (s : State) := issueR (shLdu f) f (fun s c => loadUniform s c f false false 0) s
/-- LDU `.rep` (R235). -/
def execLduRep (f : RWord) (s : State) := issueR (shLdu f) f (fun s c => loadUniform s c f true false 0) s

/-- Is LDA or STRL in its uniform form: on an s register, or with w = 1 by an inline index (R230)? -/
def uniformForm (f : RWord) : Bool := if f.w then isInline f.b else isS f.dst

/-- LDA (R236): an acquire. -/
def execLda (f : RWord) (s : State) := issueR (shLda f) f (fun s c =>
  if uniformForm f then loadUniform s c f false true f.scope
  else loadLanes s c f .lanes (itypeSize (RWord.itypeA f)) false true f.scope) s

/-- The registers of LDT's block (R238). -/
def ldtRegs (f : RWord) : List Nat :=
  if f.w then [] else (List.range ((ldtSize (RWord.itypeA f)).getD 1)).map (fun r => f.dst.toNat + r)

/-- LDT (R238): each lane reads 4 elements. DEDUCED: log 18. -/
def execLdt (f : RWord) (s : State) : Host.Outcome State Fault Refusal :=
  .next (issueWord (shLdt f) f false false (ldtRegs f) (fun _ _ => true) (fun s c =>
    loadLanes s c f .transpose (4 * (ldtSize (RWord.itypeA f)).getD 1) false false 0) s)

/-- PREF (R239): the lines that translate are read without a result. DEDUCED: log 17. -/
def execPref (f : RWord) (s : State) := issueR (shPref f) f (fun s c =>
  let w := s.warp c.wp
  issueLoad s c
    { id := 0, warp := c.wp, pc := c.sp.pc, form := .pref (RWord.itypeA f == 1), space := .virt, dst := f.dst, w := true, itype := 0
      addrs := (lanesOf c.act).map (fun t => (t, eaAt w f (offsetA w f t)))
      size := 1, todo := [] } false false) s

/-! ### Local store (R226, R237, R241, R324) -/

/-- Does a range of the local store touch a packed area (R329)? -/
def touchesPacked (g : Group) (x n : Nat) : Bool :=
  g.packed.any (fun p => decide (x < p.1 + 128 + 256 * p.2.1 + p.2.2 * p.2.1) && decide (p.1 < x + n))

/-- Why a local-store access of a lane traps (R226). -/
def lsCause (g : Group) (x : Int) (n : Nat) : Option Cause :=
  if x < 0 ∨ (g.lsSize : Int) < x + n then some .permission
  else if touchesPacked g x.toNat n then some .illegalOperand else none

/-- The trap of the lowest lane that meets a cause (R195). -/
def laneTrap (causes : List (Nat × Option Cause)) (info : Nat → Cause → Word) : Option Eff :=
  match causes.find? (fun p => p.2.isSome) with
  | some (t, some x) => some (.trap x (info t x) (maskOf ((causes.filter (fun p => p.2 == some x)).map Prod.fst)))
  | _ => none

/-- Must a warp's access to a range of its core's local store wait (R324)? -/
def boardWait (k : Core) (lo n : Nat) (isStore : Bool) : Bool :=
  k.board.any (fun r => (isStore || r.write) && decide (lo / 128 ≤ r.hi) && decide (r.lo ≤ (lo + n - 1) / 128))

/-- A group's place in its core's local store, as State numbers it. -/
def lsAddr (wp : Nat) (g : Group) (x : Nat) : Nat := coreOf wp * 2 ^ 20 + g.lsBase + x

/-- A poisoned granule is read (R240): a record names it, and the group faults. -/
def poisonFault (s : State) (wp : Nat) (pc : BitVec 32) (addr : Nat) : State :=
  let g := s.groupOf wp
  let s := s.record { cls := 0x03, sev := 1, die := dieOf wp, core := coreOf wp % 32, launch := g.launch, group := g.gid,
                      warp := slotOf wp, addr := addr, pc := pc.toNat }
  groupFault s (s.warp wp).grp { cls := 1, sev := 1, warp := slotOf wp, addr := addr, pc := pc.toNat }

/-- LDL (R237). The record of a poisoned granule gives its place as core * 2^20 + the area's base + the offset. DESIGN CHOICE: log 156. -/
def execLdl (f : RWord) (s : State) := issueR (shLdl f) f (fun s c =>
  let w := s.warp c.wp
  let g := s.groupOf c.wp
  let k := s.core (coreOf c.wp)
  let n := itypeSize (RWord.itypeA f)
  let x (t : Nat) : Int := offsetA w f t
  let lanes := lanesOf c.act
  match laneTrap (lanes.map (fun t => (t, lsCause g (x t) n)))
      (fun t e => if e == .permission then BitVec.ofInt 64 (x t) else wordInfo w c.sp) with
  | some e => e
  | none =>
    let at_ (t : Nat) : Nat := lsAddr c.wp g (x t).toNat
    if acquirePending k c.wp || lanes.any (fun t => boardWait k (g.lsBase + (x t).toNat) n false || matWait k c.wp false (at_ t) n false) then .hold
    else
      let granules := ((lanes.map (fun t => (List.range n).map (fun i => (at_ t + i) / 128))).flatten).dedup
      match granules.find? (fun b => SMap.look false s.lsBad b) with
      | some b => .done (poisonFault s c.wp c.sp.pc (b * 128)) none
      | none =>
        vecDone s c f (wideI (RWord.itypeA f)) 0 0 (fun t =>
          (extV (RWord.itypeA f) (natOfBytes (Memory.bytes s.ls (at_ t) n)), 0))) s

/-- Bytes stored into the local store; a granule wholly written is no longer poisoned (R98). -/
def lsPut (s : State) (a : Nat) (l : List Byte) : State := { s with ls := Memory.storeBytes s.ls a l }

/-- STL (R241). -/
def execStl (f : RWord) (s : State) : Host.Outcome State Fault Refusal :=
  .next (issueWord (shStl f) f true true [] (fun _ _ => true) (fun s c =>
    let w := s.warp c.wp
    let g := s.groupOf c.wp
    let k := s.core (coreOf c.wp)
    let n := itypeSize (RWord.itypeA f)
    let x (t : Nat) : Int := offsetA w f t
    let lanes := lanesOf c.act
    match laneTrap (lanes.map (fun t => (t, lsCause g (x t) n)))
        (fun t e => if e == .permission then BitVec.ofInt 64 (x t) else wordInfo w c.sp) with
    | some e => e
    | none =>
      if acquirePending k c.wp || lanes.any (fun t => boardWait k (g.lsBase + (x t).toNat) n true
          || matWait k c.wp false (lsAddr c.wp g (x t).toNat) n true) then .hold
      else
        let put (s : State) (t : Nat) : State :=
          lsPut s (lsAddr c.wp g (x t).toNat) (bytesOfNat n (w.vsrc (memWide f) f.dst t).toNat)
        let whole (granule : Nat) : Bool := (List.range 128).all (fun i =>
          lanes.any (fun t => decide (lsAddr c.wp g (x t).toNat ≤ granule * 128 + i)
            && decide (granule * 128 + i < lsAddr c.wp g (x t).toNat + n)))
        let s := lanes.foldl put s
        .done { s with lsBad := SMap.keep s.lsBad (fun a _ => !whole a) } none) s)

/-! ### Vaults (R227) -/

/-- Is a vault access of n bytes outside the grant, the pools or the vault (R227)? -/
def vaultRefuses (grant : BitVec 256) (ea n : Nat) : Bool :=
  let off := ea % 2 ^ 25
  ea / 2 ^ 33 != 0 || !grant.getLsbD (ea / 2 ^ 25 % 256) || decide (0x1C00000 < off + n)

/-- VAULT_GRANT's TRAPINFO (R194). -/
def vaultInfo (ea : Nat) : Word := BitVec.ofNat 64 (ea % 2 ^ 25 * 256 + ea / 2 ^ 25 % 256)

/-- The trap of a vault access. -/
def vaultTrap (g : Group) (acc : List (Nat × Nat)) (n : Nat) : Option Eff :=
  laneTrap (acc.map (fun p => (p.1, if vaultRefuses g.grant p.2 n then some .vaultGrant else none)))
    (fun t _ => vaultInfo (((acc.find? (fun p => p.1 == t)).map Prod.snd).getD 0))

/-- LDV (R237). -/
def execLdv (f : RWord) (s : State) := issueR (shLd f) f (fun s c =>
  let w := s.warp c.wp
  let g := s.groupOf c.wp
  let core := coreOf c.wp
  let n := itypeSize (RWord.itypeA f)
  let acc := (gatherLanes w c.act).map (fun t => (t, eaAt w f (offsetA w f t)))
  match vaultTrap g acc n with
  | some e => e
  | none =>
    if acquirePending (s.core core) c.wp || acc.any (fun p => matWait (s.core core) c.wp true p.2 n false) then .hold
    else
      let (id, s) := s.takeId
      let l : Load :=
        { id := id, warp := c.wp, pc := c.sp.pc, form := .lanes, space := .vault, dst := f.dst, w := f.w, itype := RWord.itypeA f
          addrs := acc, size := n, start := s.cycle, todo := (pieceLines (pieces acc n)).map (fun v => { vline := v, line := v }) }
      let s := enterLoad s core l []
      .done (s.setWarp c.wp { s.warp c.wp with pxi := 0 }) (some (.awaited id false))) s

/-! ### Stores (R241 to R243, R258 to R260) -/

/-- A store instruction's accesses: lane, address and data, n bytes each; what its entries carry. -/
structure StoreOp where
  acc : List (Nat × Nat × Word)
  n : Nat
  op : Nat
  rel : Bool := false
  scope : Nat := 0
  dest : List Nat := []
  aop : AtomOp := .add
  atype : Nat := 0
  deriving DecidableEq, Repr

def StoreOp.pieces (x : StoreOp) : List Piece := Machine.pieces (x.acc.map (fun p => (p.1, p.2.1))) x.n
def StoreOp.value (x : StoreOp) (lane : Nat) : Word := ((x.acc.find? (fun p => p.1 == lane)).map (fun p => p.2.2)).getD 0

/-- The data and byte mask that some pieces write in their line, the higher lane last (R232). -/
def StoreOp.lineData (x : StoreOp) (l : List Piece) : Line × Mask :=
  l.foldl (fun acc p => (List.range p.n).foldl (fun acc i =>
      let j := (p.va + i) % 128
      (lineSet acc.1 j ((x.value p.lane).extractLsb' (8 * (p.pos + i)) 8), acc.2 ||| byteSpan j 1)) acc) (0, 0)

/-- The entry of one line of a store instruction. -/
def StoreOp.entry (x : StoreOp) (s : State) (c : Ctx) (id v : Nat) (l : List Piece) : Store :=
  let g := s.groupOf c.wp
  let d := x.lineData l
  { id := id, core := coreOf c.wp, warp := c.wp, group := g.gid, launch := g.launch, pc := c.sp.pc, asid := g.asid, root := g.root
    va := v * 128, data := d.1, bmask := d.2, lanes := maskOf (l.map (fun p => p.lane)), op := x.op, rel := x.rel, scope := x.scope
    dest := x.dest, aop := x.aop, atype := x.atype, index := g.indexOf c.wp, width := x.n
    acc := (x.acc.filter (fun p => l.any (fun q => q.lane == p.1))).map (fun p => { lane := p.1, addr := p.2.1, c := p.2.2 })
    atoms := if x.op = 4 then l.map (fun p => { lane := p.lane, addr := p.va, c := x.value p.lane }) else [] }

/-- A line of a store enters the side log (R258): behind another entry of its line, or to be served by the page-fault service,
or, an atomic to a cast page, to fail (R249). -/
def enterSideLog (s : State) (x : Store) (reason : Nat) : State :=
  let k := s.core x.core
  if reason = 0 ∨ (reason = 1 ∧ !x.fail) then
    let (s, req) := askService s (.side x.core x.id) x.asid x.root x.va .write
    let k := s.core x.core
    s.setCore x.core { k with sidelog := k.sidelog ++ [{ x with reason := reason, req := some req }] }
  else s.setCore x.core { k with sidelog := k.sidelog ++ [{ x with reason := reason, ready := x.fail }] }

/-- What comes of one group of pieces in one line. -/
inductive StoreRes where
  | queue (line : Nat) (pte : Word) (cast : Option Nat)
  | log (reason : Nat) (fail : Bool)
  deriving DecidableEq, Repr

/-- The part of a piece that lies in a region. -/
def Piece.within (p : Piece) (r : Region) : Option Piece :=
  let l := (List.range p.n).filter (fun i => decide (r.base ≤ p.va + i) && decide (p.va + i < r.base + r.size))
  l.head?.map (fun i => { p with va := p.va + i, pos := p.pos + i, n := l.length })

/-- The pieces of one line of cast pages, a list for each region (R421). -/
def regionPieces (s : State) (asid : Nat) (ps : List Piece) : List (Nat × List Piece) :=
  (((ps.map (pieceRegions s asid)).flatten.filterMap id).dedup).map (fun r => (r.1, ps.filterMap (fun p => p.within r.2)))

/-- The lanes of a store of which some byte lies on a cast page in no region: the whole access of such a lane fails (R421). -/
def strayLanes (s : State) (asid : Nat) (m : SMap LineRes) (ps : List Piece) : List Nat :=
  (ps.filter (fun p => onCast m p && (pieceRegions s asid p).contains none)).map (·.lane)

/-- The lines of a store instruction, each with its pieces and what comes of them; a line of cast pages gives one for each region
(R421). A store of which only some lines fault enters these into the side log, and its other lines are queued at once (R258).
DEDUCED: log 33. -/
def storeLines (s : State) (k : Core) (g : Group) (x : StoreOp) (m : SMap LineRes) : List (Nat × List Piece × StoreRes) :=
  let stray := if x.op = 4 then [] else strayLanes s g.asid m x.pieces
  ((pieceLines x.pieces).map (fun v =>
    let ps := x.pieces.filter (fun p => p.va / 128 == v)
    if sideLogged k g.asid v then [(v, ps, .log 3 false)]
    else
      let bad := ps.filter (fun p => stray.contains p.lane)
      let good := if bad = [] then ps else ps.filter (fun p => !stray.contains p.lane)
      let some_ (l : List Piece) (r : StoreRes) : List (Nat × List Piece × StoreRes) := if l = [] then [] else [(v, l, r)]
      (match lineRes m v with
      | .at line pte =>
        if !pteCast pte then some_ good (.queue line pte none)
        else if x.op = 4 then some_ ps (.log 1 true)
        else (regionPieces s g.asid good).map (fun r => (v, r.2, StoreRes.queue line pte (some r.1)))
      | .fault perm => some_ good (.log (if perm then 1 else 0) false)
      | _ => []) ++ some_ bad (.log 1 false))).flatten

/-- The runs of consecutive pieces that lie in one line. -/
def pieceRuns (l : List Piece) : List (List Piece) :=
  match l with
  | [] => []
  | p :: r => match pieceRuns r with
    | (q :: g) :: rest => if q.va / 128 = p.va / 128 then (p :: q :: g) :: rest else [p] :: (q :: g) :: rest
    | _ => [[p]]

def StoreRes.isCast : StoreRes → Bool
  | .queue _ _ cast => cast.isSome
  | _ => false
def StoreRes.isLog : StoreRes → Bool
  | .log _ _ => true
  | _ => false

/-- The entries of a store instruction: one for each line, but an ATOMN's lines that are queued give one for each run of its lanes, so
that its lanes are performed in order (R247, R258). -/
def storeEntries (x : StoreOp) (l : List (Nat × List Piece × StoreRes)) : List (Nat × List Piece × StoreRes) :=
  if x.op ≠ 4 then l
  else
    l.filter (fun e => e.2.2.isLog) ++ (pieceRuns x.pieces).filterMap (fun ps =>
      (l.find? (fun e => some e.1 == (ps.head?).map (fun p => p.va / 128) && !e.2.2.isLog)).map (fun e => (e.1, ps, e.2.2)))

/-- The lines accepted: queued, or in the side log; the instruction is done (R258). DEDUCED: log 32. -/
def acceptLines (s : State) (c : Ctx) (x : StoreOp) (l : List (Nat × List Piece × StoreRes)) : State :=
  let first := s.nextId
  (storeEntries x l).foldl (fun s e =>
    let (id, s) := s.takeId
    let y := { x.entry s c id e.1 e.2.1 with run := if x.op = 4 then first else 0 }
    match e.2.2 with
    | .queue line pte cast =>
      let k := s.core y.core
      s.setCore y.core { k with stores := k.stores ++ [{ y with line := line, pte := pte, cast := cast }] }
    | .log reason fail => enterSideLog s { y with fail := fail } reason) s

/-- A cast store under host-assisted MODE.cast (R431): the region homes answer for every line in one event: its stores performed, or
the lanes that write a line whose list is full. DEDUCED: log 106. -/
def assistedCast (s : State) (c : Ctx) (x : StoreOp) (l : List (Nat × List Piece × StoreRes)) : State ⊕ Mask :=
  let g := s.groupOf c.wp
  let r := l.foldl (fun (acc : State × List Nat) e =>
    let d := x.lineData e.2.1
    let rs := regionsOn acc.1 g.asid (e.1 * 128) d.2
    let room := rs.all (fun n => (acc.1.region n).all (fun r => castRoom acc.1 r (castPoints r (e.1 * 128) d.2)))
    if room then (rs.foldl (fun s n => noteCast (castStoreLine s n (e.1 * 128) d.1 d.2) (coreOf c.wp) n) acc.1, acc.2) else (acc.1, acc.2 ++ [e.1])) (s, [])
  match r.2 with
  | [] => .inl r.1
  | full => .inr (maskOf (((l.filter (fun e => full.contains e.1)).map (fun e => e.2.1.map (fun p => p.lane))).flatten))

/-- FLASH_FULL of some lanes: TRAPINFO is the lowest one's address (R431). -/
def fullTrap (x : StoreOp) (lanes : Mask) : Eff :=
  .trap .flashFull (BitVec.ofNat 64 (((x.acc.find? (fun p => p.1 == lowest lanes)).map (fun p => p.2.1)).getD 0)) lanes

/-- May the cast lines of a host-assisted store be performed: their order allows it, and no host agent holds what they
write? A physical line that has to be recalled is named. -/
def assistedReady (s : State) (c : Ctx) (x : StoreOp) (l : List (Nat × List Piece × StoreRes)) : Bool × Option Nat :=
  let g := s.groupOf c.wp
  let free := l.all (fun e => match e.2.2 with
    | .queue line _ _ => !earlierOnLine s (coreOf c.wp) c.wp (s.nameOf c.wp) s.nextId line .virt
    | _ => true)
  let busy := l.findSome? (fun e =>
    let d := x.lineData e.2.1
    (regionsOn s g.asid (e.1 * 128) d.2).findSome? (fun n => (s.region n).bind (fun r =>
      (castPoints r (e.1 * 128) d.2).findSome? (castBusy s r))))
  (free && (!x.rel || releaseReady s c.wp s.nextId x.scope), busy)

/-- What a store instruction does at issue once every lane is known to be aligned or not (R195, R431): the trap of the misaligned lanes
at once, where no lower lane can meet another cause. A store meets another one only under host-assisted MODE.cast. -/
def oddStore (s : State) (x : StoreOp) (odd : List (Nat × Nat)) : Option Eff :=
  let first := ((x.acc.filter (fun p => !odd.any (fun q => q.1 == p.1))).head?).map (·.1)
  oddTrap odd (if hostAssisted s 4 && x.op != 4 then first.getD 128 else 128)

/-- The cause that a host-assisted store's lanes meet without their region homes: misaligned lanes, or lanes whose region was freed
while they waited for it (R195, R465). -/
def knownTrap (odd : List (Nat × Nat)) (freed : List (Nat × Nat × Bool × Bool)) : Option Eff :=
  match freed with
  | [] => oddTrap odd 128
  | y :: _ => (oddTrap odd y.1).or (some (.trap .permission (vaInfo y.2.1) (maskOf (freed.map Prod.fst))))

/-- The lowest lane that meets it, 128 where none does. -/
def knownLane (odd : List (Nat × Nat)) (freed : List (Nat × Nat × Bool × Bool)) : Nat :=
  min (((odd.head?).map (·.1)).getD 128) (((freed.head?).map (·.1)).getD 128)

/-- A store of virtual memory issues (R195, R241, R258 to R260, R421, R431). -/
def issueStore (s : State) (c : Ctx) (x : StoreOp) (aligned : Bool) : Eff :=
  let core := coreOf c.wp
  let g := s.groupOf c.wp
  let k := s.core core
  let odd := if aligned then misaligned (x.acc.map (fun p => (p.1, p.2.1))) x.n else []
  match oddStore s x odd with
  | some e => e
  | none =>
    let x := { x with acc := x.acc.filter (fun p => !odd.any (fun q => q.1 == p.1)) }
    if acquirePending k c.wp then .hold
    else
      let logged := (pieceLines x.pieces).filter (fun v => sideLogged k g.asid v)
      let lines := (pieceLines x.pieces).filter (fun v => hostAssisted s 4 || !logged.contains v)
      let (s, m) := translateLines s core g (if x.op = 4 then .update else .write) (fun _ => none) lines
      match busyLine m with
      | some line => .stay (recallHost s line)
      | none =>
        let l := storeLines s k g x m
        let logs := (l.filter (fun e => e.2.2.isLog)).length
        let cast := l.filter (fun e => e.2.2.isCast)
        let assisted := hostAssisted s 4 && x.op != 4 && x.pieces.any (onCast m)
        let freed := if assisted then (laneFaults s g.asid m false x.pieces).filter (fun y => faultCause (s.warp c.wp) y == some .permission) else []
        let low := knownLane odd freed
        let known := knownTrap odd freed
        if known.isSome && !(x.pieces.filter (onCast m)).any (fun p => decide (p.lane < low)) then known.getD .hold
        else if assisted && logged.any (fun v => onCast m { lane := 0, va := v * 128, pos := 0, n := 0 }) then .hold
        else if known.isNone && decide (256 < k.sidelog.length + logs) then
          let pages := ((l.filter (fun e => match e.2.2 with
            | .log r _ => decide (r ≤ 1)
            | _ => false)).map (fun e => e.1 * 128 / 2 ^ 16)).dedup
          let asked (page : Nat) : Bool := s.reqs.any (fun q => q.asker == .warp c.wp && q.va / 2 ^ 16 == page)
          .stay ((pages.filter (fun p => !asked p)).foldl (fun s p =>
            (askService s (.warp c.wp) g.asid g.root (p * 2 ^ 16) .write).1) s)
        else if known.isSome || (cast ≠ [] && hostAssisted s 4) then
          match waitingRegion s g.asid m x.pieces with
          | some y => .stay (waitRegion s c.wp y)
          | none =>
            match assistedReady s c x cast with
            | (false, _) => .hold
            | (true, some line) => .stay (claimLine s line)
            | (true, none) =>
              match assistedCast s c x cast with
              | .inr lanes => if lowest lanes < low then fullTrap x lanes else known.getD .hold
              | .inl t => known.getD (.done (acceptLines t c x (l.filter (fun e => !e.2.2.isCast))) none)
        else .done (acceptLines s c x l) none

/-- The lanes of a store, each with its address and data. -/
def storeAcc (w : Warp) (f : RWord) (lanes : List Nat) (off : Nat → Int) (data : Nat → Word) : List (Nat × Nat × Word) :=
  lanes.map (fun t => (t, eaAt w f (off t), data t))

/-- How a class 7 word issues: it reads its dst, and it resets the hang detector (R171). -/
def issueM (sh : Shape) (f : RWord) (regs : List Nat) (body : State → Ctx → Eff) (s : State) : Host.Outcome State Fault Refusal :=
  .next (issueWord sh f true true regs (fun _ _ => true) body s)

/-- A plain store form, per lane. -/
def storeLanes (s : State) (c : Ctx) (f : RWord) (op : Nat) (rel : Bool) (scope : Nat) : Eff :=
  let w := s.warp c.wp
  issueStore s c
    { acc := storeAcc w f (lanesOf c.act) (offsetA w f) (fun t => w.vsrc (memWide f) f.dst t)
      n := itypeSize (RWord.itypeA f), op := op, rel := rel, scope := scope } rel

/-- A uniform store form: one store, as the lowest acting lane. -/
def storeUniform (s : State) (c : Ctx) (f : RWord) (op : Nat) (rel : Bool) (scope : Nat) : Eff :=
  let w := s.warp c.wp
  issueStore s c
    { acc := storeAcc w f ((lanesOf c.act).take 1) (offsetA w f) (fun _ => w.uni f.dst)
      n := itypeSize (RWord.itypeA f), op := op, rel := rel, scope := scope } rel

/-- ST (R241). -/
def execSt (f : RWord) (s : State) := issueM (shSt f) f [] (fun s c => storeLanes s c f 0 false 0) s
/-- STU (R241). -/
def execStu (f : RWord) (s : State) := issueM (shStu f) f [] (fun s c => storeUniform s c f 1 false 0) s
/-- STRL (R241): a release. -/
def execStrl (f : RWord) (s : State) := issueM (shStrl f) f [] (fun s c =>
  if uniformForm f then storeUniform s c f 2 true f.scope else storeLanes s c f 2 true f.scope) s

/-- STV (R241). -/
def execStv (f : RWord) (s : State) := issueM (shSt f) f [] (fun s c =>
  let w := s.warp c.wp
  let g := s.groupOf c.wp
  let core := coreOf c.wp
  let n := itypeSize (RWord.itypeA f)
  let acc := storeAcc w f (lanesOf c.act) (offsetA w f) (fun t => w.vsrc (memWide f) f.dst t)
  let x : StoreOp := { acc := acc, n := n, op := 0 }
  match vaultTrap g (acc.map (fun p => (p.1, p.2.1))) n with
  | some e => e
  | none =>
    if acquirePending (s.core core) c.wp || acc.any (fun p => matWait (s.core core) c.wp true p.2.1 n true) then .hold
    else
      .done ((pieceLines x.pieces).foldl (fun s v =>
        let (id, s) := s.takeId
        let y := x.entry s c id v (x.pieces.filter (fun p => p.va / 128 == v))
        let k := s.core core
        s.setCore core { k with stores := k.stores ++ [{ y with space := .vault, line := v }] }) s) none) s

/-- POUR's receivers (R242). -/
def pourDest (w : Warp) (f : RWord) : List Nat :=
  let n := (f.c.extractLsb' 0 8).toNat
  match f.mod 2 1 with
  | 0 => [n]
  | 1 => ((List.range 8).map (fun i => ((w.s n).extractLsb' (8 * i) 8).toNat)).dedup
  | _ => (List.range 4).map (fun i => 4 * n + i)

/-- POUR (R242, R243, R246). -/
def execPour (f : RWord) (s : State) :=
  issueM (shPour f) f (if f.mod 2 1 = 1 then [0x100 + (f.c.extractLsb' 0 8).toNat] else []) (fun s c =>
    let w := s.warp c.wp
    let n := itypeSize (RWord.itypeA f)
    issueStore s c
      { acc := storeAcc w f (lanesOf c.act) (offsetP w f n) (fun t => w.vsrc (memWide f) f.dst t)
        n := n, op := 3, rel := f.mod 3 3 = 1, scope := f.scope, dest := pourDest w f } false) s

/-! ### Atomics (R247 to R249) -/

def aopOf (n : Nat) : AtomOp :=
  match n with
  | 0 => .add
  | 1 => .min
  | 2 => .max
  | 3 => .and
  | 4 => .or
  | 5 => .xor
  | 6 => .exch
  | _ => .fadd

/-- An atomic's operand at lane t: `.fadd` reads it as FP32 (R58, R247). -/
def atomOperand (w : Warp) (f : RWord) (t : Nat) : Word :=
  if aop f = 7 then BitVec.ofNat 64 (w.vsrcF f32 f.c t) else w.vsrc (atomWide f) f.c t

/-- An atomic with return issues. -/
def atomicLoad (s : State) (c : Ctx) (f : RWord) (op : AtomOp) : Eff :=
  let w := s.warp c.wp
  let t := f.mod 6 5
  let n := atomSize t
  let acc := (lanesOf c.act).map (fun i => (i, eaAt w f (offsetP w f n i)))
  issueLoad s c
    { id := 0, warp := c.wp, pc := c.sp.pc, form := .atomic, space := .virt, dst := f.dst, w := f.w, itype := t, addrs := acc, size := n
      acq := f.mod 0 0 = 1, rep := f.mod 1 1 = 1, scope := f.scope, todo := [], aop := op
      atoms := acc.map (fun p => { lane := p.1, addr := p.2, c := atomOperand w f p.1, cmp := w.vsrc (atomWide f) f.dst p.1 }) } true false

/-- ATOM (R247). -/
def execAtom (f : RWord) (s : State) : Host.Outcome State Fault Refusal :=
  .next (issueWord (shAtom f) f false true [] (fun _ _ => true) (fun s c => atomicLoad s c f (aopOf (aop f))) s)
/-- CAS (R248). -/
def execCas (f : RWord) (s : State) := issueM (shCas f) f [] (fun s c => atomicLoad s c f .cas) s

/-- ATOMN (R247, R249). DEDUCED: log 107. -/
def execAtomn (f : RWord) (s : State) := issueM (shAtomn f) f [] (fun s c =>
  let w := s.warp c.wp
  let n := atomSize (f.mod 6 5)
  issueStore s c
    { acc := storeAcc w f (lanesOf c.act) (offsetP w f n) (atomOperand w f)
      n := n, op := 4, rel := f.mod 1 1 = 1, scope := f.scope, aop := aopOf (aop f), atype := f.mod 6 5 } true) s

/-! ### Fences (R251) -/

/-- FENCE (R251). -/
def execFence (f : RWord) (s : State) := issueR (shFence f) f (fun s c =>
  let core := coreOf c.wp
  if releaseReady s c.wp s.nextId f.scope then .done (s.acquire core) none else .hold) s

/-! ### The return of a load (R231, R234, R238, R240) -/

/-- The bytes that a lane has read, as a number. -/
def Load.value (l : Load) (a : Nat) : Nat := natOfBytes ((List.range l.size).map (fun i => SMap.look 0 l.got (byteAt a i)))

/-- The old value that an atomic found for a lane. -/
def Load.old (l : Load) (t : Nat) : Nat := natOfBytes ((List.range l.size).map (fun i => SMap.look 0 l.got (t * 16 + i)))

/-- Byte q of the transposed image of eighth e (R238): element j of row i lies at n = 16j + i. -/
def Load.imageByte (l : Load) (e q : Nat) : Byte :=
  let sz := l.size / 4
  let n := q / sz
  match SMap.find l.addrs (16 * e + n % 16) with
  | some a => SMap.look 0 l.got (byteAt a (n / 16 * sz + q % sz))
  | none => 0

/-- What LDT writes to register r of its block in lane t. -/
def Load.transposed (l : Load) (r t : Nat) : Lane :=
  BitVec.ofNat 32 (natOfBytes ((List.range 4).map (fun i => l.imageByte (t / 16) (64 * r + 4 * (t % 16) + i))))

/-- The latch that a load was to fill. -/
def Warp.fillLatch (w : Warp) (id : Nat) (y : Latch) : Warp :=
  let up (o : Option Latch) : Option Latch := if o = some (.awaited id false) ∨ o = some (.awaited id true) then some y else o
  { w with y0 := up w.y0, y1 := up w.y1, y2 := up w.y2, y3 := up w.y3 }

/-- A vector result of a load, in its register or pair and in its latch, which holds the lanes loaded before a pre-emption too. -/
def returnVector (s : State) (l : Load) (wide : Bool) (val : Nat → Word) : State :=
  let old := s.warp l.warp
  let w := if l.w then old else old.setVec l.dst.toNat wide l.lanes val
  let (y, s) := vecLatch s (l.lanes ||| l.kept) wide (fun t => if l.kept.getLsbD t then old.vsrc wide l.dst t else val t)
  s.setWarp l.warp (w.fillLatch l.id y)

/-- A load's results are placed. -/
def returnLoad (s : State) (l : Load) : State :=
  match l.form with
  | .lanes =>
    returnVector s l (wideI l.itype) (fun t => extV l.itype (l.value (SMap.look 0 l.addrs t)))
  | .atomic => returnVector s l (decide (2 ≤ l.itype)) (fun t => BitVec.ofNat 64 (l.old t))
  | .uniform =>
    let x := extS l.itype (l.value (((l.addrs.head?).map Prod.snd).getD 0))
    let w := s.warp l.warp
    let w := if l.w then w else w.setS (l.dst.toNat - 0x100) x
    s.setWarp l.warp (w.fillLatch l.id (.uniform x))
  | .transpose =>
    let w := s.warp l.warp
    let w := if l.w then w
      else (List.range (l.size / 4)).foldl (fun w r => w.setV (l.dst.toNat + r) l.lanes (fun t => l.transposed r t)) w
    let (y, s) := vecLatch s l.lanes false (fun t => (l.transposed 0 t).setWidth 64)
    s.setWarp l.warp (w.fillLatch l.id y)
  | .pref _ => s
  | .counter _ => s

/-- The parts of a counter's read: its lines, translated; none when one of them faults or is a cast page, so that CWAIT has to
take the trap (R380). -/
def counterParts (s : State) (wp : Nat) (l : Load) : State × Option (List Part) :=
  let ps := pieces l.addrs 8
  let (s, m) := translateLines s (coreOf wp) (s.groupOf wp) .read (fun _ => none) (pieceLines ps)
  let ok := (pieceLines ps).all (fun v => match lineRes m v with
    | .at _ pte => !pteCast pte
    | _ => false)
  (s, if ok then some (loadParts s l m ps) else none)

/-- A load's latency, for the monitors (R208). -/
def noteLoad (s : State) (core : Nat) (l : Load) : State := s.note core l.level (s.cycle - l.start).toNat

/-- CWAIT's read has returned (R380): the split passes when the word has reached its target, with an acquire; otherwise the
word is read again, and where that read faults CWAIT re-executes. A split that no longer waits on it has ended the wait. -/
def returnCounter (s : State) (core : Nat) (l : Load) (target : Word) : State :=
  let w := s.warp l.warp
  let waits (x : Split) : Bool := x.wait == .cwait l.id
  let wake (w : Warp) (n : BitVec 32) : Warp :=
    ({ w with frontier := w.frontier.map (fun x => if waits x then { x with wait := .ready, pc := x.pc + n } else x) } : Warp).settle
  if !w.frontier.any waits then s
  else if w.pos = 0 ∧ target.toNat ≤ l.value (((l.addrs.head?).map Prod.snd).getD 0) then
    settleGroup ((s.setWarp l.warp (wake w 1)).acquire core) w.grp
  else
    match counterParts s l.warp l with
    | (s, some parts) =>
      let k := s.core core
      s.setCore core { k with loads := k.loads ++ [{ l with todo := parts, got := [], start := s.cycle, level := 0 }] }
    | (s, none) => if w.pos = 0 then s.setWarp l.warp (wake (s.warp l.warp) 0) else s.setCore core { s.core core with loads := (s.core core).loads ++ [l] }

/-- LOAD_RETURN (R234, R240): a load that has read all its lines writes its destination and latch, or faults its group; a group
that has ended holds its place until then (log 98). DEDUCED: log 7. -/
def execLoadReturn (core ix : Nat) (s : State) : Host.Outcome State Fault Refusal :=
  let k := s.core core
  match k.loads[ix]? with
  | none => .next s
  | some l =>
    if !l.todo.isEmpty then .next s
    else
      let s := s.setCore core { k with loads := k.loads.eraseIdx ix }
      match l.form, l.bad with
      | .pref _, _ => .next s
      | _, some a => .next (tryRelease (poisonFault s l.warp l.pc a) (s.warp l.warp).grp)
      | .counter target, none => .next (returnCounter (noteLoad s core l) core l target)
      | _, none => .next (tryRelease (returnLoad (noteLoad s core l) l) (s.warp l.warp).grp)

/-! ### HOME_STORE (R184, R288, R353) -/

/-- A queued store leaves for the side log, once that has a place for it (R11, R258). -/
def storeToLog (s : State) (x : Store) (reason : Nat) : State :=
  if 256 ≤ (s.core x.core).sidelog.length then s else enterSideLog (dropStore s x.core x.id) x reason

/-- HOME_STORE (R288): a queued store is performed at its home once its turn has come. The increments of exits are translated
here (R353). -/
def execHomeStore (core ix : Nat) (s : State) : Host.Outcome State Fault Refusal :=
  let k := s.core core
  match k.stores[ix]? with
  | none => .next s
  | some x =>
    if x.cast.isSome then .next s
    else if x.exits = 0 then .next (homeStore s x)
    else if !storeReady s x then .next s
    else if !x.holds && sideLogged k x.asid (x.va / 128) then .next (storeToLog s x 3)
    else
      match translate s core x.asid x.root x.va .update with
      | (s, .busy line) => .next (recallHost s line)
      | (s, .fault perm pte) =>
        if perm && pteCast pte then .next (storeToLog s { x with fail := true } 1) else .next (storeToLog s x (if perm then 1 else 0))
      | (s, .ok pa pte) =>
        if pteCast pte then .next (storeToLog s { x with fail := true } 1)
        else
          let y := { x with line := pa / 128, pte := pte }
          let k := s.core core
          .next (homeStore (s.setCore core { k with stores := k.stores.map (fun z => if z.id = y.id then y else z) }) y)

end Sys2Proof.Machine
end

