-- ==== Sys2Proof/Machine/SideLog.lean ====
section
/-! DEFINITION. The side log (R258 to R261): replays, failed replays, and the stores of cast regions (R429, R430). -/

namespace Sys2Proof.Machine

/-- A store with an id replaced in the side log. -/
def setSide (s : State) (x : Store) : State :=
  let k := s.core x.core
  s.setCore x.core { k with sidelog := k.sidelog.map (fun y => if y.id = x.id then x else y) }

/-- A store leaves the side log. -/
def dropSide (s : State) (x : Store) : State :=
  let k := s.core x.core
  s.setCore x.core { k with sidelog := k.sidelog.filter (fun y => y.id != x.id) }

/-- An entry leaves the side log, or what is left of it stays. -/
def leaveSide (s : State) (x : Store) (rest : Option Store) : State :=
  match rest with
  | some y => setSide s y
  | none => dropSide s x

/-- The resident group of a launch and number. -/
def findGroup (s : State) (launch gid : Nat) : Option (Nat × Group) :=
  SMap.findWhere s.groups (fun _ g => g.launch == launch && g.gid == gid)

/-- The warp that receives a failed replay's trap (R261): the entry's, if it is resident, else the lowest-numbered of its group. -/
def failWarp (s : State) (x : Store) : Option Nat :=
  (findGroup s x.launch x.group).bind (fun g =>
    let alive := g.2.warps.filter (fun wp => !(s.warp wp).frontier.isEmpty)
    match g.2.warps[x.index]? with
    | some wp => if alive.contains wp then some wp else if alive = [] then none else some (alive.foldl min (alive.headD 0))
    | none => none)

/-- Has the entry's warp exited? -/
def warpGone (s : State) (x : Store) : Bool :=
  match (findGroup s x.launch x.group).bind (fun g => g.2.warps[x.index]?) with
  | some wp => (s.warp wp).frontier.isEmpty
  | none => true

/-- Increments of the entry's lanes are withheld (R261): those of lanes that have exited, and those to come. -/
def withhold (s : State) (x : Store) : State :=
  let l := s.launch x.launch
  let s := faultLaunch (s.setLaunch x.launch { l with withheld := l.withheld ++ [(x.group, x.index, x.lanes)] }) x.launch
  let cut (y : Store) : Store :=
    if y.exits ≠ 0 ∧ y.launch = x.launch ∧ y.group = x.group ∧ y.index = x.index then
      let m := y.lanes &&& ~~~ x.lanes
      { y with lanes := m, exits := popcount m, atoms := y.atoms.filter (fun a => m.getLsbD a.lane) }
    else y
  let gone (y : Store) : Bool := y.op == 4 && y.atoms.isEmpty
  { s with cores := s.cores.map (fun k =>
    (k.1, { k.2 with stores := (k.2.stores.map cut).filter (fun y => !gone y), sidelog := (k.2.sidelog.map cut).filter (fun y => !gone y) })) }

/-- The replay of what an entry holds fails (R261): it goes, or what stays of it is `rest`; its lanes' increments are withheld, a record is
written, STORE_REPLAY_FAIL is raised. -/
def failPart (s : State) (x : Store) (rest : Option Store) : State :=
  let denied := x.reason != 0
  let info := (if denied then 2 ^ 38 else 0) + (if warpGone s x then 2 ^ 37 else 0) + slotOf x.warp * 2 ^ 32 + x.pc.toNat
  let who := failWarp s x
  let s := leaveSide s x rest
  let s := if x.exits ≠ 0 then faultLaunch s x.launch else withhold s x
  let s := s.record
    { cls := 0x02, sev := 1, die := x.core / 32, core := x.core % 32, launch := x.launch, group := x.group, warp := slotOf x.warp
      addr := x.va, pc := x.pc.toNat, info := x.op + x.reason * 256 }
  match who with
  | some wp =>
    let s := raise s wp { cause := .storeReplayFail, info := BitVec.ofNat 64 info } false
    tryRelease s (s.warp wp).grp
  | none => s

/-- A replay fails (R261). -/
def failReplay (s : State) (x : Store) : State := failPart s x none

/-! ### What an entry holds, lane by lane (R421) -/

/-- What an entry holds of some of its lanes, at some addresses. -/
def Store.only (x : Store) (lane byte : Nat → Bool) : Store :=
  let held (a : AtomLane) : List Nat := (List.range x.width).filter (fun i =>
    let b := byteAt a.addr i
    b / 128 == x.va / 128 && x.bmask.getLsbD (b % 128) && byte b)
  let acc := x.acc.filter (fun a => lane a.lane && held a != [])
  let put := acc.foldl (fun d a => (held a).foldl (fun (d : Line × Mask) i =>
    (lineSet d.1 (byteAt a.addr i % 128) (a.c.extractLsb' (8 * i) 8), d.2 ||| byteSpan (byteAt a.addr i % 128) 1)) d) ((0, 0) : Line × Mask)
  { x with acc := acc, data := put.1, bmask := put.2, lanes := maskOf (acc.map (·.lane)) }

/-- An entry as it stands in the log for what is still to be replayed of it. -/
def Store.left (x : Store) : Option Store :=
  if x.acc = [] then none
  else some { x with op := if x.op = 5 then x.was else x.op, reason := 3, ready := false, req := none, cast := none, tries := 0 }

/-- Is a page of an address space a cast page? -/
def castPage (s : State) (root asid va : Nat) : Bool :=
  match walk s root va asid with
  | .leaf _ _ pte => pteCast pte
  | _ => false

/-- The lanes of a translated entry whose access touches, in this line or the next, a byte of a cast page in no region: the whole access
of such a lane is not permitted (R421). -/
def strayOf (s : State) (x : Store) : List Nat :=
  (x.acc.filter (fun a => (List.range x.width).any (fun i =>
    let b := byteAt a.addr i
    (regionAt s x.asid b).isNone && (if b / 2 ^ 16 = x.va / 2 ^ 16 then pteCast x.pte else castPage s x.root x.asid b)))).map (·.lane)

/-! ### Stores of cast regions (R429, R430, R465) -/

/-- Do all the bytes of a line lie in regions? -/
def allInRegions (s : State) (asid va : Nat) (m : Mask) : Bool := (lanesOf m).all (fun j => (regionAt s asid (va + j)).isSome)

/-- Must a store wait for a region: one that builds, or that closed before it (R440, R465)? -/
def regionHolds (s : State) (x : Store) (n : Nat) : Bool :=
  (s.region n).any (fun r => r.st == .building || (r.st == .closing && decide (r.closeAt ≤ x.id)))

/-- A line that a host agent holds or shares, so that a store of the bytes of a line waits. -/
def castLineBusy (s : State) (va : Nat) (m : Mask) (rs : List Nat) : Option Nat :=
  rs.findSome? (fun n => (s.region n).bind (fun r => (castPoints r va m).findSome? (castBusy s r)))

/-- Has a region room for the bytes of a line (R429)? -/
def regionRoom (s : State) (va : Nat) (m : Mask) (n : Nat) : Bool := (s.region n).all (fun r => castRoom s r (castPoints r va m))

/-- What a store holds of some regions' bytes, `x`, reaches their home (R429): it is performed, or finds the list full (R430, R431), or the
region has been freed (R465). `all` is the whole store, `rest` what is left of it beside `x`; `logged` tells an entry of the side log.
DEDUCED: log 106. -/
def castTry (s : State) (all x : Store) (rest : Option Store) (logged : Bool) : State :=
  let rs := regionsOn s x.asid x.va x.bmask
  let out (s : State) : State := if logged then leaveSide s x rest else dropStore s x.core x.id
  let toLog (s : State) (y : Store) : State :=
    if logged then setSide s y
    else
      let s := dropStore s x.core x.id
      let k := s.core x.core
      s.setCore x.core { k with sidelog := k.sidelog ++ [y] }
  if !allInRegions s x.asid x.va x.bmask then toLog s { all with reason := 1, fail := true, ready := true }
  else if rs.any (regionHolds s x) then s
  else
    match castLineBusy s x.va x.bmask rs with
    | some line => claimLine s line
    | none =>
      match rs.find? (fun n => !regionRoom s x.va x.bmask n) with
      | none =>
        rs.foldl (fun s n =>
          let home := ((s.region n).map Region.home).getD 0
          (noteCast (castStoreLine (s.cross (x.core / 32) home) n x.va x.data x.bmask) x.core n).cross home (x.core / 32)) (out s)
      | some n =>
        let full : Store := { all with op := 5, was := if all.op = 5 then all.was else all.op, reason := 2, req := none, cast := some n }
        if logged && (decide (1 ≤ x.tries) || hostAssisted s 4 || (s.region n).any (fun r => r.st == .closing)) then
          failPart s { x with op := 5, reason := 2 } rest
        else if hostAssisted s 4 then toLog s { full with fail := true, ready := true }
        else
          match s.region n with
          | none => s
          | some r =>
            let running := r.recast.isSome || r.st == .closing
            let y := { full with ready := false, tries := if running then x.tries else 1 }
            if running then toLog s (if r.st = .closing then { y with ready := true } else y)
            else match areaBusy s r with
              | some line => claimLine s line
              | none => startRecast (toLog s y) n r none none true

/-- A queued line of a cast region reaches its home whole. -/
def castAttempt (s : State) (x : Store) (logged : Bool) : State := castTry s x x none logged

/-- The replay of an entry that lies on a cast page: as one access for each region (R421), those first that their homes can perform.
The order among them is the model's choice (log 106). -/
def replayCast (s : State) (x : Store) : State :=
  let rs := regionsOn s x.asid x.va x.bmask
  let inside (n b : Nat) : Bool := (s.region n).any (fun r => decide (r.base ≤ b) && decide (b < r.base + r.size))
  let part (n : Nat) : Store :=
    let y := x.only (fun _ => true) (inside n)
    { y with tries := if x.cast = some n then x.tries else 0 }
  let now (n : Nat) : Bool := !regionHolds s x n && (castLineBusy s x.va (part n).bmask [n]).isNone && regionRoom s x.va (part n).bmask n
  match rs with
  | _ :: _ :: _ =>
    match (rs.find? now).or (rs.find? (fun n => !regionHolds s x n)) with
    | some n => castTry s x (part n) (x.only (fun _ => true) (fun b => !inside n b)).left true
    | none => s
  | _ => castAttempt s x true

/-- CAST_STORE (R429, R430): a queued line of a cast region reaches its home, once its turn has come; where an earlier store of its line
has gone to the side log, it goes there behind it (R259, R271). -/
def execCastStore (core ix : Nat) (s : State) : Host.Outcome State Fault Refusal :=
  let k := s.core core
  match k.stores[ix]? with
  | none => .next s
  | some x =>
    let behind := k.stores.any (fun y => decide (y.id < x.id) && y.asid == x.asid && y.va == x.va)
    let logged := k.sidelog.any (fun y => decide (y.id < x.id) && y.asid == x.asid && y.va == x.va)
    if x.cast.isNone || behind || !storeReady s x || decide (256 ≤ k.sidelog.length) then .next s
    else if logged then .next (enterSideLog (dropStore s core x.id) x 3)
    else .next (castAttempt s x false)

/-! ### Replay (R259) -/

/-- Is an entry the first of its line, with nothing of its core's earlier stores to that line on the way? -/
def firstOfLine (k : Core) (x : Store) : Bool :=
  !k.sidelog.any (fun y => decide (y.id < x.id) && y.asid == x.asid && y.va == x.va)
    && !k.stores.any (fun y => decide (y.id < x.id) && y.asid == x.asid && y.va == x.va)

/-- Does a release among the entries still wait for earlier accesses (R241)? -/
def entryWaits (s : State) (x : Store) : Bool :=
  x.rel && x.exits == 0 && !releaseOk s x.core x.warp x.name x.id x.scope

/-- Does an entry stand behind an earlier one that is to be replayed, or to fail, before it (R259, R261): one whose time has come, or
one of its own page? A release that waits and a store that waits for a recast hold back no other line. DEDUCED: log 124. -/
def behindEntry (s : State) (x : Store) : Bool :=
  let k := s.core x.core
  k.sidelog.any (fun y => decide (y.id < x.id) && y.reason != 2 && !entryWaits s y
    && (y.fail || y.ready || (y.reason == 3 && firstOfLine k y) || (y.asid == x.asid && y.va / 2 ^ 16 == x.va / 2 ^ 16)))

/-- A translated entry is performed as the original instruction would have performed it: it goes to its home. -/
def sendEntry (s : State) (x : Store) (line : Nat) (pte : Word) : State :=
  let y := { x with line := line, pte := pte, holds := true, req := none }
  let s := dropSide s x
  let k := s.core x.core
  homeStore (s.setCore x.core { k with stores := k.stores ++ [y] }) y

/-- SIDE_LOG_REPLAY (R259, R261): the entry whose turn it is is replayed, once its page is mapped or its recast has ended, or
it fails. -/
def execSideLogReplay (core ix : Nat) (s : State) : Host.Outcome State Fault Refusal :=
  let k := s.core core
  match k.sidelog[ix]? with
  | none => .next s
  | some x =>
    if !firstOfLine k x || entryWaits s x || behindEntry s x then .next s
    else if x.fail then .next (failReplay s x)
    else if !x.ready && x.reason != 3 then .next s
    else
      match translate s core x.asid x.root x.va (if x.op = 4 then .update else .write) with
      | (s, .busy line) => .next (recallHost s line)
      | (s, .fault perm pte) =>
        if perm && pteCast pte && x.op == 4 then .next (failReplay s { x with reason := 1 })
        else
        let (s, req) := askService s (.side core x.id) x.asid x.root x.va .write
        .next (setSide s { x with reason := if perm then 1 else 0, ready := false, req := some req })
      | (s, .ok pa pte) =>
        let x := { x with line := pa / 128, pte := pte }
        if x.op = 4 then .next (if pteCast pte then failReplay s { x with reason := 1 } else sendEntry s x (pa / 128) pte)
        else
          let stray := strayOf s x
          if stray ≠ [] then
            .next (failPart s { x.only stray.contains (fun _ => true) with reason := 1 }
              (x.only (fun t => !stray.contains t) (fun _ => true)).left)
          else if !pteCast pte then .next (sendEntry s { x with op := if x.op = 5 then x.was else x.op } (pa / 128) pte)
          else .next (replayCast s x)

end Sys2Proof.Machine
end

