-- ==== Sys2Proof/Machine/System.lean ====
section
/-! DEFINITION. Class 5: traps, system registers, clocks, timers, monitors and duty modes (R188 to R209, R215), and the
events of the timers and the monitors. -/

namespace Sys2Proof.Machine

/-- TRAP (R201). -/
def execTrap (f : RWord) (s : State) := issueR shUni1 f (fun s c =>
  .trapAt .software ((s.warp c.wp).uni f.a) (c.sp.pc + 1)) s

/-- BKPT (R201): without TRAPVEC.dbg it only advances. -/
def execBkpt (f : RWord) (s : State) := issueR shUni1 f (fun s c =>
  let w := s.warp c.wp
  if w.trapvec.getLsbD 62 then .trapAt .breakpoint (w.uni f.a) (c.sp.pc + 1) else .done s none) s

/-- TRET (R199): splits are removed and one is added, so that the hang detector counts from 0 (R171). -/
def execTret (f : RWord) (s : State) : Host.Outcome State Fault Refusal :=
  .next (issueWord shTret f shTret.readsD true [] (fun _ _ => true) (fun s c =>
    let w := s.warp c.wp
    if w.inh then .moved (s.setWarp c.wp (trapReturn w))
    else .trap .illegalOperand (wordInfo w c.sp) c.sp.mask) s)

/-- SYSR (R202). -/
def execSysr (f : RWord) (s : State) := issueR (shSysr f) f (fun s c =>
  scalarDone s c f.dst f.w (sysRead s c.wp f.a.toNat)) s

/-- The effect of a SYSW to a writable register (R191). -/
def sysWrite (s : State) (wp n : Nat) (x : Word) : State :=
  let w := s.warp wp
  match n with
  | 0x00 => s.setWarp wp (writeStatus w x)
  | 0x09 => s.setWarp wp { w with trappc := x &&& trappcMask }
  | 0x0B => s.setWarp wp { w with trapvec := x &&& trapvecMask }
  | 0x0E => s.setWarp wp { w with hsave0 := x }
  | 0x0F => s.setWarp wp { w with hsave1 := x }
  | 0x13 => s.setWarp wp { w with vtcmp := x }
  | 0x14 => s.setWarp wp { w with deadline := x }
  | 0x15 => s.setWarp wp { w with agelim := agelimOf x }
  | 0x17 => s.setWarp wp (writeFpmode w x)
  | 0x18 => s.setCore (coreOf wp) { s.core (coreOf wp) with pushq := pushqOf x }
  | 0x1B => s.setWarp wp { w with trappxi := x }
  | _ => s

/-- A SYSW (R191). -/
def sysWriteForm (f : RWord) (s : State) : Host.Outcome State Fault Refusal := issueR (shSysw f) f (fun s c =>
  .done (sysWrite s c.wp f.dst.toNat ((s.warp c.wp).uni f.a)) none) s

/-- SYSW (R191). -/
def execSysw (f : RWord) (s : State) := sysWriteForm f s
/-- SYSW of FPMODE (R86). -/
def execSyswFpmode (f : RWord) (s : State) := sysWriteForm f s
/-- SYSW of AGELIM (R172). -/
def execSyswAgelim (f : RWord) (s : State) := sysWriteForm f s
/-- SYSW of VTCMP (R206). -/
def execSyswVtcmp (f : RWord) (s : State) := sysWriteForm f s
/-- SYSW of DEADLINE (R206). -/
def execSyswDeadline (f : RWord) (s : State) := sysWriteForm f s
/-- SYSW of PUSHQ (R245). -/
def execSyswPushq (f : RWord) (s : State) := sysWriteForm f s

/-- Has a warp an instruction that has not completed: a load in flight or an operation of the matrix unit (R203)? -/
def warpBusy (s : State) (wp : Nat) : Bool :=
  let k := s.core (coreOf wp)
  k.loads.any (fun l => l.warp == wp && !l.isCounter) || k.mq.any (fun j => j.warp == wp)

/-- CYC (R203): it waits for every earlier instruction of the warp. -/
def cycForm (f : RWord) (s : State) (vt : Bool) : Host.Outcome State Fault Refusal := issueR shCyc f (fun s c =>
  if warpBusy s c.wp then .hold
  else scalarDone s c f.dst f.w (if vt then (s.warp c.wp).vtime else s.cycle)) s

/-- CYC (R203). -/
def execCyc (f : RWord) (s : State) := cycForm f s false
/-- CYC `.vt` (R203). -/
def execCycVt (f : RWord) (s : State) := cycForm f s true

/-- TARM (R206). -/
def execTarm (f : RWord) (s : State) := issueR shTarm f (fun s c =>
  onWarp s c (fun w => ({ w with vtcmp := armedAt w.vtime (w.uni f.a) }, none))) s
/-- TARM `.dl` (R206). -/
def execTarmDl (f : RWord) (s : State) := issueR shTarm f (fun s c =>
  onWarp s c (fun w => ({ w with deadline := armedAt s.cycle (w.uni f.a) }, none))) s

/-! ### Monitors (R208, R209) -/

def State.monitor (s : State) (die m : Nat) : Monitor := SMap.look {} (s.die die).monitors m
def State.setMonitor (s : State) (die m : Nat) (x : Monitor) : State :=
  s.setDie die { s.die die with monitors := SMap.set m x (s.die die).monitors }

/-- A monitor cleared (R209). -/
def Monitor.clear (m : Monitor) : Monitor := { m with min := BitVec.allOnes 64, max := 0, count := 0, bins := [] }

/-- A source that R208 lists. -/
def monitorSource (n : Nat) : Bool := decide (n ≤ 0x0C)

/-- What PMON `.rd` reads (R209). -/
def Monitor.read (m : Monitor) (b : Nat) : Word :=
  if b = 0 then m.min
  else if b = 1 then m.max
  else if b = 2 then BitVec.ofNat 64 m.count
  else if b ≤ 34 then BitVec.ofNat 64 (SMap.look 0 m.bins (b - 3))
  else 0

/-- What a monitor has still to take is dropped: it is cleared (R209). -/
def State.dropSamples (s : State) (die m : Nat) : State :=
  { s with samples := s.samples.filter (fun x => !(x.die == die && x.mon == m)) }

/-- PMON `.rd` (R209). -/
def execPmonRd (f : RWord) (s : State) := issueR (shPmonRd f) f (fun s c =>
  let w := s.warp c.wp
  scalarDone s c f.dst f.w ((s.monitor (dieOf c.wp) (lowBits 4 (w.uni f.a))).read (w.uni f.b).toNat)) s

/-- PMON `.sel` (R209): an unlisted source disables the monitor. -/
def execPmonSel (f : RWord) (s : State) := issueR shPmonSel f (fun s c =>
  let w := s.warp c.wp
  let x := w.uni f.b
  let d := dieOf c.wp
  let m := lowBits 4 (w.uni f.a)
  let sel := { (s.monitor d m).clear with
    source := lowBits 5 x, enable := x.getLsbD 5 && monitorSource (lowBits 5 x)
    core := lowBits 8 (x >>> 8), queue := lowBits 16 (x >>> 16) }
  .done ((s.dropSamples d m).setMonitor d m sel) none) s

/-- PMON `.clr` (R209). -/
def execPmonClr (f : RWord) (s : State) := issueR shPmonClr f (fun s c =>
  let d := dieOf c.wp
  let m := lowBits 4 ((s.warp c.wp).uni f.a)
  .done ((s.dropSamples d m).setMonitor d m (s.monitor d m).clear) none) s

/-- The bin of a value (R208). -/
def monitorBin (v : Nat) : Nat := if v = 0 then 0 else min (v.log2 + 1) 31

/-- A monitor after some samples of v (R208). -/
def Monitor.sample (m : Monitor) (v times : Nat) : Monitor :=
  let sat (n : Nat) : Nat := Nat.min (n + times) (2 ^ 32 - 1)
  let b := monitorBin v
  { m with
    min := if v < m.min.toNat then BitVec.ofNat 64 v else m.min
    max := if m.max.toNat < v then BitVec.ofNat 64 v else m.max
    count := sat m.count
    bins := SMap.set b (sat (SMap.look 0 m.bins b)) m.bins }

/-- A monitor takes what a sample holds (R208). -/
def State.takeSample (s : State) (x : Sample) : State := s.setMonitor x.die x.mon ((s.monitor x.die x.mon).sample x.value x.times)

/-- MONITOR_SAMPLE (R208): a monitor takes the first sample of a value that has been made for it. -/
def execMonitorSample (die mon value : Nat) (s : State) : Host.Outcome State Fault Refusal :=
  match s.samples.findIdx? (fun x => x.die == die && x.mon == mon && x.value == value) with
  | none => .next s
  | some i => .next (match s.samples[i]? with
    | some x => ({ s with samples := s.samples.eraseIdx i } : State).takeSample x
    | none => s)

/-- Every sample that has been made is taken (R208). -/
def takeSamples (s : State) : State := s.samples.foldl State.takeSample { s with samples := [] }

/-- What the monitors of a die sample as microseconds go by, of each core that they name: a queue's depth, a core's refused pushes in the
microsecond that has ended, its side log's occupancy (R208). Source 0x09 names a queue of the monitor's own die by A[23:16].
DESIGN CHOICE: log 35. -/
def noteMicros (s : State) (n die : Nat) : State :=
  let put (s : State) (mon v times : Nat) : State :=
    if times = 0 then s else { s with samples := s.samples ++ [{ die := die, mon := mon, value := v, times := times }] }
  (s.die die).monitors.foldl (fun s p =>
    let m := p.2
    let cores := (List.range 32).filter (fun c => m.core == 0xFF || m.core == c)
    if !m.enable then s
    else if m.source = 0x09 then put s p.1 (s.queue die (m.queue % 256)).entries.length n
    else if m.source = 0x0A then cores.foldl (fun s c => put (put s p.1 (s.core (die * 32 + c)).refusals 1) p.1 0 (n - 1)) s
    else if m.source = 0x0B then cores.foldl (fun s c => put s p.1 (s.core (die * 32 + c)).sidelog.length n) s
    else s) s

/-- The microseconds that a turn ends have been sampled (R208). -/
def microsecond (s : State) (n : Nat) : State :=
  if n = 0 then s
  else
    let s := (List.range 8).foldl (fun s d => noteMicros s n d) s
    { s with cores := s.cores.map (fun k => (k.1, { k.2 with refusals := 0 })) }

/-! ### Modes (R215) -/

/-- The modes of all duties as MODE returns them. -/
def modeWord (s : State) : Word := s.mode.setWidth 64

/-- The modes with duty n set. -/
def modeSet (m : BitVec 7) (n : Nat) (host : Bool) : BitVec 7 :=
  if host then m ||| (1#7 <<< n) else m &&& ~~~ (1#7 <<< n)

/-- MODE (R215). -/
def execMode (f : RWord) (s : State) := issueR (shMode f) f (fun s c =>
  let x := (s.warp c.wp).uni f.a
  scalarDone { s with mode := modeSet s.mode (f.mod 2 0) (x.getLsbD 0) } c f.dst f.w (modeWord s)) s
/-- MODE `.rd` (R215). -/
def execModeRd (f : RWord) (s : State) := issueR (shModeRd f) f (fun s c => scalarDone s c f.dst f.w (modeWord s)) s

/-! ### Events of a warp between its words -/

/-- TRAP_DELIVERY (R198): the oldest waiting trap is delivered at a chain head. -/
def execTrapDelivery (wp : Nat) (s : State) : Host.Outcome State Fault Refusal :=
  let w := s.warp wp
  if trapDue w then .next (s.setWarp wp (deliver w)) else .next s

/-- May SPINW's wait end by time (R183)? With a count of 0 it may, after one cycle, while no other split is ready. -/
def spinOver (s : State) (w : Warp) (i : Nat) (x : Split) : Bool :=
  match x.wait with
  | .spin start n =>
    if n = 0 then decide (start < s.arith) && !((w.frontier.eraseIdx i).any Split.canIssue)
    else decide (start + n ≤ s.arith)
  | _ => false

/-- SPINW_EXPIRY (R183). -/
def execSpinwExpiry (wp sp : Nat) (s : State) : Host.Outcome State Fault Refusal :=
  let w := s.warp wp
  match w.frontier[sp]? with
  | none => .next s
  | some x =>
    if spinOver s w sp x && !x.held then
      .next (s.setWarp wp (Warp.settle { w with frontier := w.frontier.modify sp (fun y => { y with wait := .ready }) }))
    else .next s

/-- YIELD_EXPIRY (R182): a yield turn runs out. R163's step after each slot has counted its slots already, so the split
stands with a count of 0 and nothing is left to change. -/
def execYieldExpiry (wp sp : Nat) (s : State) : Host.Outcome State Fault Refusal :=
  let w := s.warp wp
  if SMap.has s.warps wp && (w.frontier[sp]?).any (fun x => x.yield == 0) then
    .next (s.setWarp wp { w with frontier := w.frontier.modify sp (fun x => { x with yield := 0 }) })
  else .next s

/-- FORCED_TURN (R169): a forced turn begins for a ready split that has reached the ageing limit. -/
def execForcedTurn (wp : Nat) (s : State) : Host.Outcome State Fault Refusal :=
  let w := s.warp wp
  match (if w.pos = 0 then forcedDue w else none) with
  | none => .next s
  | some i => .next (s.setWarp wp { w with frontier := w.frontier.modify i (fun x => { x with turn := some 0 }) })

/-- The pcs that a HANG record holds (R456). -/
def hangPcs (w : Warp) : Nat :=
  natOfBytes ((List.range 8).map (fun j => bytesOfNat 4 (((w.frontier[j]?).map (fun x => x.pc.toNat)).getD 0xFFFFFFFF))).flatten

/-- HANG (R171): at 2^20 the detector writes its record and counts from 0. The record's bytes 0x18 to 0x37 are the pcs. -/
def execHang (wp : Nat) (s : State) : Host.Outcome State Fault Refusal :=
  let w := s.warp wp
  if w.hang < 2 ^ 20 then .next s
  else
    let g := s.group w.grp
    let pcs := hangPcs w
    let s := s.record
      { cls := 0x0B, sev := 0, die := dieOf wp, core := coreOf wp % 32, launch := g.launch, group := g.gid, warp := slotOf wp,
        addr := pcs % 2 ^ 128, pc := pcs / 2 ^ 128 % 2 ^ 32, info := pcs / 2 ^ 160 }
    .next (s.setWarp wp { w with hang := 0 })

/-- A timer fires (R206): armed is cleared, and TIMER is raised, late when it passed while the context was saved (R207). It has no lanes.
DESIGN CHOICE: log 129. -/
def fireTimer (s : State) (wp : Nat) (deadline late : Bool) : State :=
  let w := s.warp wp
  let w := if deadline then { w with deadline := w.deadline &&& 0x7FFFFFFFFFFFFFFF } else { w with vtcmp := w.vtcmp &&& 0x7FFFFFFFFFFFFFFF }
  tryRelease (raise (s.setWarp wp w) wp { cause := .timer, late := late, info := if deadline then 1 else 0 } false) w.grp

/-- VTIME_TIMER_FIRE (R206), at a chain head. -/
def execVtimeTimerFire (wp : Nat) (s : State) : Host.Outcome State Fault Refusal :=
  let w := s.warp wp
  if w.pos == 0 && timerDue w.vtcmp w.vtime && !w.frontier.isEmpty then .next (fireTimer s wp false false) else .next s

/-- DEADLINE_FIRE (R206), at a chain head. -/
def execDeadlineFire (wp : Nat) (s : State) : Host.Outcome State Fault Refusal :=
  let w := s.warp wp
  if w.pos == 0 && timerDue w.deadline s.cycle && !w.frontier.isEmpty then .next (fireTimer s wp true false) else .next s

end Sys2Proof.Machine
end

