-- ==== Sys2Proof/Machine/Maintain.lean ====
section
/-! DEFINITION. Class 5's cache, translation and power instructions (R210 to R214), and the gating of a core (R461). -/

namespace Sys2Proof.Machine

/-! ### Ranges of lines (R210, R212) -/

/-- The number of lines of a range. -/
def rangeLines (a len : Nat) : Nat := if len = 0 then 0 else (a % 128 + len - 1) / 128 + 1

/-- The line at which CWB or CINV works from PXI (R212): none where it traps. DEDUCED: log 99. -/
def rangeStart (pxi : Word) (kind n : Nat) : Option Nat :=
  if pxi = 0 then some 0
  else
    let count := pxi.toNat % 2 ^ 32
    if pxi = BitVec.ofNat 64 (kind * 2 ^ 60 + count) ∧ count < n then some count else none

/-- What a line of a range gives: the state in which it is done, or one in which the warp tries again. -/
inductive LineStep where
  | done (s : State)
  | again (s : State)
  deriving Repr

/-- CWB and CINV: one line in each turn, with PXI counting them (R212). -/
def rangeForm (sh : Shape) (f : RWord) (kind : Nat) (onLine : State → Ctx → Nat → LineStep) (s : State) :
    Host.Outcome State Fault Refusal := issueR sh f (fun s c =>
  let w := s.warp c.wp
  let a := (w.areg f.a).toNat
  let n := rangeLines a (lowBits 32 (w.uni f.b))
  match rangeStart w.pxi kind n with
  | none => .trap .illegalOperand (wordInfo w c.sp) c.sp.mask
  | some i =>
    if n ≤ i then .done s none
    else
      match onLine s c ((a / 128 + i) % 2 ^ 73) with
      | .again s => .stay s
      | .done s =>
        let w := s.warp c.wp
        if i + 1 = n then .done (s.setWarp c.wp { w with pxi := 0 }) none
        else .stay (s.setWarp c.wp { w with pxi := BitVec.ofNat 64 (kind * 2 ^ 60 + (i + 1)) })) s

/-- What a die that owns a line has written comes to the home; the die keeps the line, clean (R210). -/
def cleanOwner (s : State) (line asid : Nat) (pte : Word) : State :=
  match ownerDie s line with
  | none => s
  | some d =>
    let home := homeDie line
    let (x, bad) := sysLine s line asid 0x800
    let s := s.meet home d
    let (s, l) := homeFill s line asid pte 0
    let t := ((s.l2At d line).map (·.wts)).getD 0
    let s := s.setL2 home line { l with data := x, poison := bad, dirty := true, wts := max l.wts t, rts := max l.rts t }
    let s := match s.l2At d line with
      | some p => s.setL2 d line { p with data := x, poison := bad }
      | none => s
    { s with
      windows := s.windows.map (fun y => if y.line = line then { y with bmask := 0 } else y)
      dir := SMap.set line { s.dirAt line with hi := .E, lo := .E } s.dir }

/-- The modified copies of a physical line written to its memory; the copies stay, clean (R210). -/
def writeBackLine (s : State) (line asid : Nat) (pte : Word) : State :=
  if hostLine line then s
  else
    let s := cleanOwner (endHomeWindows s line none) line asid pte
    match s.l2At (homeDie line) line with
    | some l => if l.dirty then (blockWrite s line l).setL2 (homeDie line) line { l with dirty := false } else s
    | none => s

/-- Does a transaction of the line run, so that it cannot be worked on yet? -/
def inTransit (s : State) (line : Nat) : Bool := (s.dirAt line).serving.isSome || s.msgs.any (fun m => m.line == line)

/-- A mapped line of a range is worked on once the warp's earlier accesses to it are performed; unmapped and cast pages are
skipped (R210). -/
def onMapped (s : State) (c : Ctx) (v : Nat) (f : State → Nat → Word → Nat → State) : LineStep :=
  let g := s.groupOf c.wp
  let s := walkReady s (v * 128) g.asid 5 g.root
  match walk s g.root (v * 128) g.asid with
  | .busy line => .again (recallHost s line)
  | .stop _ _ _ => .done s
  | .denied _ _ => .done s
  | .leaf level _ pte =>
    let line := (pteFrame pte + v * 128 % 2 ^ levelShift level) / 128
    if pteCast pte || unpopulated (line * 128) then .done s
    else if inTransit s line || earlierOnLine s (coreOf c.wp) c.wp (s.nameOf c.wp) s.nextId line .virt then .again s
    else .done (f s line pte g.asid)

/-- CWB (R210). DEDUCED: log 103. -/
def execCwb (f : RWord) (s : State) := rangeForm shCwb f 5 (fun s c v => onMapped s c v (fun s line pte asid => writeBackLine s line asid pte)) s

/-- L1 copies go, and the windows whose bytes they hold end first (R211, R250). -/
def dropCopies (s : State) (p : Nat → Nat → Bool) : State :=
  let s := (s.windows.filter (fun x => p x.key x.line)).foldl (fun s x => endWindow s x false) s
  s.dropL1 (fun k x => p k x.line)

/-- CINV `.l1` (R211): the issuing core's copies. -/
def execCinvL1 (f : RWord) (s : State) := rangeForm shCinvL1 f 6 (fun s c v =>
  .done (dropCopies s (fun k _ => k == l1Key (coreOf c.wp) (s.groupOf c.wp).asid v))) s

/-- A block of a protected page rewritten under the page's key, modified or not (R267). -/
def protectLine (s : State) (line : Nat) (pte : Word) (asid : Nat) : State :=
  if hostLine line || !pteProt pte || (keyOf s asid (pteKix pte)).isNone then s
  else
    let (s, l) := homeFill s line asid pte 0
    blockWrite s line { l with cmp := pteCmp pte, prot := true, kix := pteKix pte, asid := asid }

/-- CINV `.l2` (R211, R267): the line is written back and every copy in the device is dropped. -/
def execCinvL2 (f : RWord) (s : State) := rangeForm shCinvL2 f 6 (fun s c v =>
  onMapped s c v (fun s line pte asid =>
    let s := (gather (dropCopies s (fun _ l => l == line)) line asid pte).1
    let s := protectLine (writeBackLine s line asid pte) line pte asid
    (List.range 8).foldl (fun s d => s.dropL2 d line) s)) s

/-! ### TLBI (R213) -/

/-- The clusters of a scope around a core. -/
def scopeClusters (core scope : Nat) : List Nat :=
  if scope = 2 then [core / 4] else if scope = 3 then (List.range 8).map (fun i => core / 32 * 8 + i) else List.range 64

/-- Drop the translations of some pages in a unit, and the L1 lines of some lines in its cores. -/
def tlbDrop (s : State) (cluster : Nat) (p : TlbEntry → Bool) (lines : Nat → Bool) : State :=
  let s := dropCopies s (fun k _ => l1Core k / 4 == cluster && lines k)
  { s with tlb := SMap.put [] cluster ((SMap.look [] s.tlb cluster).filter (fun e => !p e)) s.tlb }

/-- A TLBI over its scope. -/
def tlbiForm (s : State) (c : Ctx) (f : RWord) (one : State → Nat → State) : Eff :=
  let l := scopeClusters (coreOf c.wp) (f.mod 2 0)
  .done (l.foldl one ((l.map (· / 8)).dedup.foldl (fun s d => s.meet (dieOf c.wp) d) s)) none

/-- TLBI `.va` (R213): the unit's own page, or the 64 KiB page. -/
def execTlbiVa (f : RWord) (s : State) := issueR (shTlbiVa f) f (fun s c =>
  let w := s.warp c.wp
  let va := (w.areg f.a).toNat
  let asid := lowBits 16 (w.uni f.b)
  tlbiForm s c f (fun s cl =>
    match tlbFind s cl asid va with
    | some e => tlbDrop s cl (fun x => x == e) (inPage asid e.shift e.page)
    | none => tlbDrop s cl (fun _ => false) (inPage asid 16 (va / 2 ^ 16)))) s

/-- TLBI `.asid` (R213). -/
def execTlbiAsid (f : RWord) (s : State) := issueR (shTlbiAsid f) f (fun s c =>
  let asid := lowBits 16 ((s.warp c.wp).uni f.b)
  tlbiForm s c f (fun s cl => tlbDrop s cl (fun x => x.asid == asid) (fun k => l1Asid k == asid))) s

/-- TLBI `.all` (R213). -/
def execTlbiAll (f : RWord) (s : State) := issueR (shTlbiAll f) f (fun s c =>
  tlbiForm s c f (fun s cl => tlbDrop s cl (fun _ => true) (fun _ => true))) s

/-! ### Gating (R214, R461) -/

/-- PGATE's outcome for a core reaches the warps that wait for it, and their dies (R288). -/
def gateAnswer (s : State) (core : Nat) (x : Word) : State :=
  let told := s.warps.filter (fun p => match p.2.block with
    | .gate k _ => k == core
    | _ => false)
  let s := told.foldl (fun s p => s.cross (core / 32) (dieOf p.1)) s
  { s with warps := s.warps.map (fun p => match p.2.block with
    | .gate k dst => if k = core then (p.1, { p.2.setS dst x with block := .free }) else p
    | _ => p) }

/-- A wake of a core (R461). -/
def wakeCore (s : State) (core : Nat) : State :=
  let k := s.core core
  match k.power with
  | .on => s
  | .prep => gateAnswer (s.setCore core { k with power := .on }) core 1
  | _ => s.setCore core { k with wake := true }

/-- WAKE (R214). -/
def execWake (f : RWord) (s : State) := issueR shWake f (fun s c =>
  let core := lowBits 8 ((s.warp c.wp).uni f.a)
  .done (wakeCore (s.meet (dieOf c.wp) (core / 32)) core) none) s

/-- Does a core refuse to be gated (R214)? -/
def gateRefuses (s : State) (issuer core : Nat) : Bool :=
  let k := s.core core
  issuer == core || s.groups.any (fun g => coreOf g.1 == core) || !k.cmds.isEmpty || !k.sidelog.isEmpty

/-- PGATE (R214, R461): refused, or begun; the warp holds until the outcome is known. DEDUCED: log 27. -/
def execPgate (f : RWord) (s : State) := issueR shPgate f (fun s c =>
  let w := s.warp c.wp
  let core := lowBits 8 (w.uni f.a)
  let n := f.dst.toNat - 0x100
  let s := s.meet (dieOf c.wp) (core / 32)
  if gateRefuses s (coreOf c.wp) core then .done (s.setWarp c.wp (w.setS n 2)) none
  else
    match (s.core core).power with
    | .commit => .done (s.setWarp c.wp (w.setS n 0)) none
    | .off => .done (s.setWarp c.wp (w.setS n 0)) none
    | .prep => .done (s.setWarp c.wp { w with block := .gate core n }) none
    | .on =>
      let s := endCoreWindows s core
      let s := s.dropL1 (fun k _ => l1Core k == core)
      let s := s.setCore core { s.core core with power := .prep }
      .done (s.setWarp c.wp { s.warp c.wp with block := .gate core n }) none) s

/-- GATE_PREP_COMPLETE (R461): the preparation ends at the commit point; then the core powers down and PGATE returns 0. -/
def execGatePrepComplete (core : Nat) (s : State) : Host.Outcome State Fault Refusal :=
  let k := s.core core
  match k.power with
  | .prep => .next (s.setCore core { k with power := .commit })
  | .commit => .next (gateAnswer (s.setCore core { k with power := .off }) core 0)
  | _ => .next s

/-- GATE_POWER_UP (R461): a latched wake powers the core up. -/
def execGatePowerUp (core : Nat) (s : State) : Host.Outcome State Fault Refusal :=
  let k := s.core core
  if k.power == .off && k.wake then .next (s.setCore core { k with power := .on, wake := false }) else .next s

end Sys2Proof.Machine
end

