-- ==== Sys2Proof/Machine/Records.lean ====
section
/-! DEFINITION. Shape records (R387 to R390), packed tile areas (R327, R328), the operands that records name (R389, R394,
R395), and the accumulation of products (R103 to R105). -/

namespace Sys2Proof.Machine

/-! ### Exact values -/

/-- An exact product; 0 × ∞ is a NaN (R105). -/
def FV.times (a b : FV) : FV :=
  match a, b with
  | .nan n _ f k, _ => .nan n true f k
  | _, .nan n _ f k => .nan n true f k
  | .inf n1, .inf n2 => .inf (n1 != n2)
  | .inf n1, .fin n2 m _ => if m = 0 then .nan false true 0 1 else .inf (n1 != n2)
  | .fin n1 m _, .inf n2 => if m = 0 then .nan false true 0 1 else .inf (n1 != n2)
  | .fin n1 m1 e1, .fin n2 m2 e2 => .fin (n1 != n2) (m1 * m2) (e1 + e2)

/-- An exact sum. -/
def FV.plus (a b : FV) : FV :=
  match a, b with
  | .nan n _ f k, _ => .nan n true f k
  | _, .nan n _ f k => .nan n true f k
  | .inf n1, .inf n2 => if n1 == n2 then .inf n1 else .nan false true 0 1
  | .inf n1, _ => .inf n1
  | _, .inf n2 => .inf n2
  | .fin n1 m1 e1, .fin n2 m2 e2 =>
    let x := exactSum n1 m1 e1 n2 m2 e2
    .fin x.1 x.2.1 x.2.2

def FV.minus (a : FV) : FV :=
  match a with
  | .nan n q f k => .nan n q f k
  | .inf n => .inf (!n)
  | .fin n m e => .fin (!n) m e

def FV.isZero (a : FV) : Bool :=
  match a with
  | .fin _ m _ => m == 0
  | _ => false

/-- An A96 code of an exact sum, rounded once; an exact zero is +0 (R104). -/
def a96Sum (v : FV) : Nat := if v.isZero then 0 else a96.exact v

/-! ### Accumulation (R103 to R105) -/

/-- One group of products added to an accumulator element. -/
def accGroup (acc : Nat) (ps : List FV) : Nat :=
  let inf (n : Bool) : Bool := ps.any (fun p => p == .inf n)
  if ps.any FV.isNan || (inf true && inf false) then (a96.add rne false acc a96.defaultNan).1
  else if inf true || inf false then (a96.add rne false acc (a96.infinity (inf true))).1
  else
    match a96.read acc with
    | .nan n _ f k => a96.nanOf n f k
    | .inf n => a96.infinity n
    | .fin na ma ea =>
      let nz := ps.filterMap (fun p => match p with
        | .fin n m e => if m = 0 then none else some (n, m, e)
        | _ => none)
      match nz with
      | [] => if ma = 0 then 0 else acc
      | (_, m0, e0) :: _ =>
        let top := nz.foldl (fun t x => max t ((x.2.1.log2 : Int) + x.2.2)) ((m0.log2 : Int) + e0)
        let lo := top - 119
        let cut (x : Bool × Nat × Int) : Nat × Bool :=
          let d := x.2.2 - lo
          if 0 ≤ d then (x.2.1 * 2 ^ d.toNat, false) else (x.2.1 / 2 ^ (-d).toNat, x.2.1 % 2 ^ (-d).toNat != 0)
        let v : Int := nz.foldl (fun acc x => if x.1 then acc - (cut x).1 else acc + (cut x).1) 0
        let sigma := nz.any (fun x => (cut x).2)
        let (neg, m, e) := exactSum na ma ea (decide (v < 0)) v.natAbs lo
        if m = 0 then 0 else (a96.round rne false neg m e sigma).1

/-- A list cut into pieces of n, at most k of them. -/
def chunks {α : Type} (n : Nat) : Nat → List α → List (List α)
  | 0, _ => []
  | k + 1, l =>
    match l with
    | [] => []
    | x :: r => (x :: r).take n :: chunks n k ((x :: r).drop n)

/-- An accumulator element after the products of one row and one column, in ascending groups of gs (R103, R399). -/
def accElement (gs acc : Nat) (row col : List FV) : Nat :=
  (chunks gs row.length (List.zipWith FV.times row col)).foldl accGroup acc

/-! ### Shape records (R387 to R390) -/

/-- A record's fields (R387). -/
structure MRec where
  space : Nat
  fmt : Nat
  pcode : Nat
  col : Bool
  packed : Bool
  scaled : Bool
  rows : Nat
  cols : Nat
  stride : Nat
  base : Nat
  sofs : Int
  bstep : Int
  sstep : Int
  /-- CPYT: its 6-bit elements lie in 8-bit containers (R331) -/
  boxed : Bool := false
  deriving DecidableEq, Repr

def readRec (x : BitVec 128) : MRec :=
  { space := (x.extractLsb' 126 2).toNat, fmt := (x.extractLsb' 122 4).toNat, pcode := (x.extractLsb' 119 3).toNat
    col := x.getLsbD 118, packed := x.getLsbD 117, scaled := x.getLsbD 116
    rows := (x.extractLsb' 107 9).toNat + 1, cols := (x.extractLsb' 98 9).toNat + 1, stride := (x.extractLsb' 82 16).toNat
    base := (x.extractLsb' 49 33).toNat, sofs := (x.extractLsb' 24 25).toInt, bstep := (x.extractLsb' 12 12).toInt
    sstep := (x.extractLsb' 0 12).toInt }

/-- The number of planes of a bit-plane record. -/
def MRec.planes (r : MRec) : Nat := if r.pcode = 0 then 8 else r.pcode
/-- The bits of an element (R388). -/
def fmtWidth (fmt : Nat) : Nat :=
  match fmt with
  | 0 | 1 => 16
  | 4 | 5 => 6
  | 6 => 4
  | 10 => 32
  | 11 => 96
  | _ => 8
def MRec.width (r : MRec) : Nat := if r.boxed then 8 else fmtWidth r.fmt
/-- Major and minor lines (R389). -/
def MRec.major (r : MRec) : Nat := if r.col then r.cols else r.rows
def MRec.minor (r : MRec) : Nat := if r.col then r.rows else r.cols
/-- The bytes of a line, and from one line to the next. -/
def MRec.len (r : MRec) : Nat := r.minor * r.width / 8
def MRec.pitch (r : MRec) : Nat := if r.stride = 0 then r.len else r.stride
/-- The elements of a scale block, 0 without scales; the bytes of a scale; the blocks of a line (R389). -/
def MRec.block (r : MRec) : Nat := if r.fmt = 8 then 128 else if r.scaled then 32 else 0
def MRec.scaleSize (r : MRec) : Nat := if r.fmt = 8 then 2 else if r.scaled then 1 else 0
def MRec.blocks (r : MRec) : Nat := if r.block = 0 then 0 else r.minor / r.block
/-- Where the operand and its scales lie at a step (R400): the base, the scale array, the packed tile. -/
def MRec.start (r : MRec) (st : Nat) : Int := if r.packed then r.base else r.base + st * r.bstep * 16
def MRec.scaleAt (r : MRec) (st : Nat) : Int := r.base + r.sofs + st * r.sstep
def MRec.tileAt (r : MRec) (st : Nat) : Int := r.stride + st * r.bstep

/-- The registered packed area at an offset: T and S (R329). -/
def packedArea (g : Group) (off : Nat) : Option (Nat × Nat) := (g.packed.find? (fun p => p.1 == off)).map Prod.snd

/-- A packed record's own check (code 7), over the n steps it serves. DEDUCED: log 49. -/
def packedOk (g : Group) (r : MRec) (n : Nat) : Bool :=
  r.major == 64 && r.len == 128 && r.space == 0 &&
    (match packedArea g r.base with
      | none => false
      | some (t, _) => [0, n - 1].all (fun st => decide (0 ≤ r.tileAt st) && decide (r.tileAt st < t)))

/-- R390's check of one record: the cause and SHAPE's code. `tile`: a tile record is taken; `wide`: FP32 and A96 are. DEDUCED: log 50. -/
def checkRec (g : Group) (r : MRec) (tile wide : Bool) (n : Nat) : Option (Cause × Nat) :=
  if 12 ≤ r.fmt ∨ r.space = 3 ∨ (if r.fmt = 8 then r.pcode = 1 else r.pcode ≠ 0) then some (.illegalOperand, 0)
  else if r.space = 2 then
    if !tile || !(r.fmt = 0 || r.fmt = 9) || r.packed || r.scaled || decide (r.stride ≠ 0) || decide (r.sofs ≠ 0)
        || decide (r.bstep ≠ 0) || decide (r.sstep ≠ 0) || decide (4 ≤ r.base) then some (.illegalOperand, 0)
    else none
  else if r.fmt = 9 ∨ (10 ≤ r.fmt ∧ !wide) ∨ (r.space = 0 ∧ 2 ^ 20 ≤ r.base)
      ∨ (r.scaled ∧ (r.fmt ≤ 1 ∨ 10 ≤ r.fmt)) then some (.illegalOperand, 0)
  else if r.minor * r.width % 8 ≠ 0 then some (.shape, 4)
  else if r.block ≠ 0 ∧ r.minor % r.block ≠ 0 then some (.shape, 5)
  else if r.packed then (if packedOk g r n then none else some (.shape, 7))
  else if r.stride ≠ 0 ∧ r.stride < r.len then some (.shape, 8)
  else none

/-! ### Memory that records name (R389, R392) -/

/-- A place of a record's space as State numbers it. -/
def recPlace (core : Nat) (g : Group) (space : Nat) (off : Nat) : Nat :=
  if space = 0 then core * 2 ^ 20 + g.lsBase + off else off

/-- The bytes at a place of the local stores, or of the vaults. -/
def recBytes (s : State) (space a n : Nat) : List Byte := Memory.bytes (if space = 0 then s.ls else s.vault) a n
/-- Is the granule of each of these bytes poisoned (R98)? -/
def recBad (s : State) (space a n : Nat) : List Bool :=
  (List.range n).map (fun i => SMap.look false (if space = 0 then s.lsBad else s.vaultBad) ((a + i) / 128))

/-- The ranges of a step, as offset and length: the operand's span, of a packed tile its table and its slot (R323), and its
scales'. -/
def MRec.spans (g : Group) (r : MRec) (st : Nat) : List (Int × Nat) :=
  if r.space = 2 then []
  else
    (if r.packed then
      match packedArea g r.base with
      | some (t, sz) => [(r.base + 128 + 256 * r.tileAt st, 256), (r.base + 128 + 256 * t + sz * r.tileAt st, sz)]
      | none => []
      else [(r.start st, (r.major - 1) * r.pitch + r.len)])
    ++ (if r.block = 0 then [] else [(r.scaleAt st, r.major * r.blocks * r.scaleSize)])

/-- The trap of a local-store range: the first offset outside `localsize` (R226, R392). -/
def lsRangeTrap (g : Group) (off : Int) (n : Nat) : Option (Cause × Word) :=
  if off < 0 then some (.permission, BitVec.ofInt 64 off)
  else if (g.lsSize : Int) < off + n then some (.permission, BitVec.ofInt 64 (max off g.lsSize))
  else none

/-- The trap of a vault range (R227, R392). -/
def vaultRangeTrap (g : Group) (off : Int) (n : Nat) : Option (Cause × Word) :=
  let ea := (off % 2 ^ 80).toNat
  if vaultRefuses g.grant ea n then some (.vaultGrant, vaultInfo ea) else none

/-- The first trap among a record's ranges over n steps (R392). -/
def MRec.rangeTrap (g : Group) (r : MRec) (n : Nat) : Option (Cause × Word) :=
  (List.range n).findSome? (fun st => (r.spans g st).findSome? (fun x =>
    if r.space = 0 then lsRangeTrap g x.1 x.2 else vaultRangeTrap g x.1 x.2))

/-- The ranges of a record over its steps, as State numbers them. -/
def MRec.ranges (core : Nat) (g : Group) (r : MRec) (write : Bool) (n : Nat) : List MatRange :=
  ((List.range n).map (fun st => (r.spans g st).map (fun x =>
    { vault := decide (r.space = 1), lo := recPlace core g r.space x.1.toNat, n := x.2, write := write }))).flatten.dedup

/-! ### Packed rows (R328) -/

/-- The bytes of a sector by its tag. -/
def tagSize (tag : Nat) : Nat := if tag = 0 then 0 else if tag = 2 then 4 else 32

/-- The sectors of a row, from its data on. -/
def expandRow : List Nat → List Byte → List Byte
  | [], _ => []
  | tag :: r, l =>
    (if tag = 0 then List.replicate 32 0
      else if tag = 2 then (List.replicate 8 (l.take 4)).flatten
      else l.take 32) ++ expandRow r (l.drop (tagSize tag))

/-- Row a of tile i of an area of T tiles with slots of S bytes, expanded; the bytes with their poison. DEDUCED: log 64. -/
def packedRow (s : State) (core : Nat) (g : Group) (off t sz i a : Nat) : List Byte × List Bool :=
  let place (x : Nat) : Nat := recPlace core g 0 (off + x)
  let e := natOfBytes (recBytes s 0 (place (128 + 256 * i + 4 * a)) 4)
  let tags := (List.range 4).map (fun k => e / 4 ^ k % 4)
  let o := e / 256 % 65536
  let n := (tags.map tagSize).foldl (· + ·) 0
  if tags.contains 3 ∨ sz < o + n then (List.replicate 128 0, List.replicate 128 true)
  else
    let d := place (128 + 256 * t + sz * i + o)
    let bad := (recBad s 0 (place (128 + 256 * i + 4 * a)) 4 ++ recBad s 0 d n).contains true
    (expandRow tags (recBytes s 0 d n), List.replicate 128 bad)

/-! ### Reading an operand (R389, R394, R395) -/

/-- Line a of a record at a step, each byte with its poison. -/
def MRec.line (s : State) (core : Nat) (g : Group) (r : MRec) (st a : Nat) : List Byte × List Bool :=
  if r.packed then
    match packedArea g r.base with
    | some (t, sz) => packedRow s core g r.base t sz (r.tileAt st).toNat a
    | none => ([], [])
  else
    let p := recPlace core g r.space ((r.start st).toNat + a * r.pitch)
    (recBytes s r.space p r.len, recBad s r.space p r.len)

/-- The scales of line a, each byte with its poison. -/
def MRec.scales (s : State) (core : Nat) (g : Group) (r : MRec) (st a : Nat) : List Byte × List Bool :=
  let n := r.blocks * r.scaleSize
  let p := recPlace core g r.space ((r.scaleAt st).toNat + a * n)
  (recBytes s r.space p n, recBad s r.space p n)

/-- Element b of a line of bytes, before its scale: its code (R94). DEDUCED: log 58. -/
def codeIn (w x b : Nat) : Nat := x / 2 ^ (w * b) % 2 ^ w

/-- The value of a code of a memory format. -/
def codeValue (fmt x : Nat) : FV :=
  match fmt with
  | 0 => bf16.read x
  | 1 => f16.read x
  | 10 => f32.read x
  | 11 => a96.read x
  | _ => narrowValue (fmt - 2) x

/-- The value of element b of a line (R94, R96, R101). -/
def MRec.value (r : MRec) (bytes : List Byte) (x : Nat) (scales : List Byte) (b : Nat) : FV :=
  if r.fmt = 8 then
    let u := b / 128
    let q := planeValue (fun i => ((bytes[128 * u + i]?).getD 0).toNat) r.planes (b % 128)
    (bf16.read (field scales (2 * u) 2)).times (FV.ofInt (planeMid r.planes q) 0)
  else
    let v := codeValue r.fmt (codeIn r.width x b)
    if r.scaled then v.scale ((field scales (b / 32) 1 : Int) - 127) else v

/-- Is element b of a line poisoned: a granule of its bytes, or of its scale's? -/
def MRec.elemBad (r : MRec) (bad scaleBad : List Bool) (b : Nat) : Bool :=
  let part (l : List Bool) (lo hi : Nat) : Bool := ((l.drop lo).take (hi - lo)).contains true
  (if r.fmt = 8 then part bad (128 * (b / 128)) (128 * (b / 128) + 128)
    else part bad (r.width * b / 8) ((r.width * b + r.width + 7) / 8))
  || (r.block != 0 && part scaleBad (b / r.block * r.scaleSize) (b / r.block * r.scaleSize + r.scaleSize))

/-- Rows and columns of a list of lines exchanged; the lines have n elements. -/
def transposeLines {α : Type} (n : Nat) (l : List (List α)) : List (List α) :=
  (List.range n).map (fun j => l.filterMap (fun r => r[j]?))

/-- The values of a record in memory at a step, row by row, and its poisoned rows. -/
def MRec.read (s : State) (core : Nat) (g : Group) (r : MRec) (st : Nat) : List (List FV) × List Bool :=
  let lines := (List.range r.major).map (fun a =>
    let d := r.line s core g st a
    let sc := r.scales s core g st a
    let x := natOfBytes d.1
    ((List.range r.minor).map (fun b => r.value d.1 x sc.1 b), (List.range r.minor).map (fun b => r.elemBad d.2 sc.2 b)))
  let v := lines.map Prod.fst
  let b := lines.map Prod.snd
  if r.col then (transposeLines r.minor v, (transposeLines r.minor b).map (fun l => l.contains true))
  else (v, b.map (fun l => l.contains true))

/-! ### Tiles (R385, R404) -/

def Tile.at (t : Tile) (i j : Nat) : Nat := (SMap.look 0 t.el (64 * i + j)).toNat

/-- A tile with its top-left region replaced; the elements outside it stay (R385). -/
def Tile.put (t : Tile) (rows cols : Nat) (f : Nat → Nat → Nat) : Tile :=
  { t with el := (List.range 4096).filterMap (fun k =>
      let v := if k / 64 < rows ∧ k % 64 < cols then BitVec.ofNat 96 (f (k / 64) (k % 64)) else SMap.look 0 t.el k
      if v = 0 then none else some (k, v)) }

/-- The codes of a tile's region, row by row; of the transpose when `tr`. -/
def Tile.rows (t : Tile) (rows cols : Nat) (tr : Bool) : List (List Nat) :=
  (List.range rows).map (fun i => (List.range cols).map (fun j => if tr then t.at j i else t.at i j))

/-- The poisoned rows of an operand read from a tile (R395): a row of the transpose draws on every row it reads. -/
def Tile.badRows (t : Tile) (rows cols : Nat) (tr : Bool) : List Bool :=
  if tr then List.replicate rows ((List.range cols).any (fun j => t.poison.getLsbD j))
  else (List.range rows).map (fun i => t.poison.getLsbD i)

/-- Feedback of a code (R404): F in BF16, or hi and lo. -/
def feedbackHi (ff : Bool) (x : Nat) : FV :=
  if !ff then bf16.read (a96.convert bf16 rne false x).1
  else
    let f := (a96.convert f32 rne false x).1
    let hi := (f32.convert bf16 rne false f).1
    match f32.read f, bf16.read hi with
    | .fin n _ _, .inf _ => bf16.read (bf16.largest n)
    | _, h => h
def feedbackLo (x : Nat) : FV :=
  let f := f32.read (a96.convert f32 rne false x).1
  match f with
  | .fin _ _ _ => bf16.read (bf16.exact (f.plus (feedbackHi true x).minus))
  | _ => .fin false 0 0

/-- The parts of a captured tile operand: one under BF16, hi and lo under F32X3. -/
def feedbackParts (ff : Bool) (l : List (List Nat)) : List (List (List FV)) :=
  let hi := l.map (fun r => r.map (feedbackHi ff))
  if ff then [hi, l.map (fun r => r.map feedbackLo)] else [hi]

/-- The passes of a product in their order (R399). -/
def passesOf (a b : List (List (List FV))) : List (List (List FV) × List (List FV)) :=
  match a, b with
  | [ah, al], [bh, bl] => [(ah, bh), (ah, bl), (al, bh)]
  | _, _ => (a.map (fun x => b.map (fun y => (x, y)))).flatten

/-- The group size of a format (R103). -/
def groupSize (fmt : Nat) : Nat :=
  match fmt with
  | 0 | 1 | 9 => 16
  | 6 => 64
  | 8 => 128
  | _ => 32

/-- A product accumulated into the M × N region of a tile, pass by pass; the rows' poison (R395, R399). -/
def Tile.accumulate (t : Tile) (m n gs : Nat) (passes : List (List (List FV) × List (List FV))) (leftBad : List Bool)
    (rightBad : Bool) : Tile :=
  let ps := passes.map (fun p => (p.1, transposeLines n p.2))
  let els := (List.range m).map (fun i => (List.range n).map (fun j =>
    ps.foldl (fun acc p => accElement gs acc ((p.1[i]?).getD []) ((p.2[j]?).getD [])) (t.at i j)))
  let t := t.put m n (fun i j => (((els[i]?).getD [])[j]?).getD 0)
  { t with poison := (List.range m).foldl (fun x i =>
      if rightBad || (leftBad[i]?).getD false then x ||| (1#64 <<< i) else x) t.poison }

end Sys2Proof.Machine
end

