-- ==== Sys2Proof/Machine/Mat.lean ====
section
/-! DEFINITION. Class 10: the matrix unit, its queue and its twelve instructions (R383 to R415), and the event
MATRIX_OP_PERFORM. -/

namespace Sys2Proof.Machine

/-! ### Tiles and the queue (R383, R384) -/

def Core.tile (k : Core) (n : Nat) : Tile := SMap.look {} k.tiles n
def Core.setTile (k : Core) (n : Nat) (t : Tile) : Core := { k with tiles := SMap.set n t k.tiles }

/-- Does another resident group own one of some tiles (R384)? -/
def tilesTaken (k : Core) (g : Nat) (l : List Nat) : Bool := l.any (fun n => (k.tile n).owner.any (fun o => o != g))

/-- The tiles of a list that no group owns are claimed: cleared, with their poison and status (R384). -/
def claimTiles (k : Core) (g : Nat) (l : List Nat) : Core :=
  l.foldl (fun k n => if (k.tile n).owner.isNone then k.setTile n { owner := some g } else k) k

/-- The tile that a record names, if its space is a tile. -/
def MRec.tiles (r : MRec) : List Nat := if r.space = 2 then [r.base % 4] else []

/-- An issued operation takes its place in the unit's queue, with its tiles claimed (R383, R384). -/
def matQueue (s : State) (c : Ctx) (op : MatOp) (tiles : List Nat) (ranges : List MatRange) : State :=
  let core := coreOf c.wp
  let grp := (s.warp c.wp).grp
  let (id, s) := s.takeId
  let k := claimTiles (s.core core) grp tiles
  s.setCore core { k with mq := k.mq ++ [{ id := id, op := op, warp := c.wp, grp := grp, pc := c.sp.pc, ranges := ranges }] }

/-- Must an operation that reads or writes memory wait for an acquire of its warp whose value is not bound (R273)? -/
def matAwaits (s : State) (wp : Nat) (ranges : List MatRange) : Bool := !ranges.isEmpty && acquirePending (s.core (coreOf wp)) wp

/-- An operation that its warp issues and leaves to the unit (R383). -/
def matIssue (s : State) (c : Ctx) (op : MatOp) (tiles : List Nat) (ranges : List MatRange) : Eff :=
  if matAwaits s c.wp ranges then .hold else .done (matQueue s c op tiles ranges) none

/-- An operation that holds its warp (R383), with PXI's value as it starts (R408). -/
def matHoldAt (s : State) (c : Ctx) (pxi : Word) (op : MatOp) (tiles : List Nat) (ranges : List MatRange) : Eff :=
  if matAwaits s c.wp ranges then .hold
  else
    let s := matQueue s c op tiles ranges
    .stay (s.setWarp c.wp { s.warp c.wp with block := .matrix, pxi := pxi })

/-- An operation without progress that holds its warp (R383). -/
def matHold (s : State) (c : Ctx) (op : MatOp) (tiles : List Nat) (ranges : List MatRange) : Eff :=
  matHoldAt s c (s.warp c.wp).pxi op tiles ranges

/-- ILLEGAL_OPERAND of a class 10 word. -/
def matIll (s : State) (c : Ctx) : Eff := .trap .illegalOperand (wordInfo (s.warp c.wp) c.sp) c.sp.mask

/-- A trap of a class 10 word, SHAPE with its code and the record numbers (R390). DEDUCED: log 51. -/
def matTrap (s : State) (c : Ctx) (x : Cause × Nat) (na nb : Nat) : Eff :=
  if x.1 = .shape then .trap .shape (BitVec.ofNat 64 (x.2 + 256 * na + 4096 * nb)) c.sp.mask else matIll s c

/-- How a class 10 word ends: with kmask = 0 it acts once for the warp (R386). DEDUCED: log 53. -/
def issueX (sh : Shape) (f : RWord) (body : State → Ctx → Eff) (s : State) : Host.Outcome State Fault Refusal :=
  issueR sh f (fun s c => if c.act = 0 then .done s none else body s c) s

/-! ### Progress (R408, R409) -/

/-- The point from which MLOOP, MPOLY or MITER works: PXI of its kind with its other bits clear, or 0; none where it traps. -/
def matStart (pxi : Word) (kind : Nat) (ok : Nat → Bool) : Option Nat :=
  if pxi = 0 then some 0
  else if pxi.toNat / 2 ^ 60 = kind ∧ pxi.toNat % 2 ^ 60 < 2 ^ 16 ∧ ok (pxi.toNat % 2 ^ 16) then some (pxi.toNat % 2 ^ 16)
  else none

def pxiOf (kind prog : Nat) : Word := BitVec.ofNat 64 (kind * 2 ^ 60 + prog)

/-! ### The instructions at issue -/

/-- MDESC `.set` (R397). -/
def execMdesc (f : RWord) (s : State) := issueX shMdesc f (fun s c =>
  onWarp s c (fun w => (w.setD f.dst.toNat (w.uni f.b ++ w.uni f.a), none))) s
/-- MDESC `.get` (R397). -/
def execMdescGet (f : RWord) (s : State) := issueX shMdescGet f (fun s c =>
  onWarp s c (fun w =>
    let d := w.d f.a.toNat
    let x : Word := if f.mod 1 1 = 1 then d.extractLsb' 64 64 else d.extractLsb' 0 64
    (if f.w then w else w.setS (f.dst.toNat - 0x100) x, some (.uniform x)))) s

/-- MZERO (R398). -/
def execMzero (f : RWord) (s : State) := issueX shMzero f (fun s c =>
  let n := f.dst.toNat
  if tilesTaken (s.core (coreOf c.wp)) (s.warp c.wp).grp [n] then matIll s c
  else matIssue s c (.mzero n) [n] []) s

/-- The checks of a product's two records (R390, R394). DEDUCED: log 52. -/
def pairCheck (g : Group) (a b : MRec) (n : Nat) : Option (Cause × Nat) :=
  match checkRec g a true false n with
  | some x => some x
  | none =>
    match checkRec g b true false n with
    | some x => some x
    | none =>
      if a.cols ≠ b.rows ∨ (a.fmt = 8) ≠ (b.fmt = 8) then some (.shape, 1)
      else if 64 < a.rows ∨ 64 < b.cols then some (.shape, 2)
      else if 64 < a.cols ∧ (a.space = 2 ∨ b.space = 2) then some (.shape, 3)
      else if (a.block ≠ 0 ∧ a.col) ∨ (b.block ≠ 0 ∧ !b.col) then some (.shape, 6)
      else none

/-- The issue checks of MMA and MLOOP over n steps (R392); none when they pass. -/
def productTrap (s : State) (c : Ctx) (f : RWord) (a b : MRec) (n : Nat) : Option Eff :=
  let g := s.groupOf c.wp
  match pairCheck g a b n with
  | some x => some (matTrap s c x f.a.toNat f.b.toNat)
  | none =>
    if tilesTaken (s.core (coreOf c.wp)) (s.warp c.wp).grp (a.tiles ++ b.tiles ++ [f.dst.toNat]) then some (matIll s c)
    else
      match (a.rangeTrap g n).or (b.rangeTrap g n) with
      | some x => some (.trap x.1 x.2 c.sp.mask)
      | none => none

/-- The ranges of a product's operands. -/
def productRanges (s : State) (wp : Nat) (a b : MRec) (n : Nat) : List MatRange :=
  a.ranges (coreOf wp) (s.groupOf wp) false n ++ b.ranges (coreOf wp) (s.groupOf wp) false n

/-- MMA (R399). -/
def execMma (f : RWord) (s : State) := issueX shMma f (fun s c =>
  let w := s.warp c.wp
  let a := readRec (w.d f.a.toNat)
  let b := readRec (w.d f.b.toNat)
  match productTrap s c f a b 1 with
  | some e => e
  | none =>
    matIssue s c (.mma f.dst.toNat (w.d f.a.toNat) (w.d f.b.toNat) (f.mod 0 0 = 1)) (a.tiles ++ b.tiles ++ [f.dst.toNat])
      (productRanges s c.wp a b 1)) s

/-- MLOOP (R400): its steps, and every range of every step, are checked at issue. One of no steps makes no progress that PXI could hold. -/
def execMloop (f : RWord) (s : State) := issueX shMloop f (fun s c =>
  let w := s.warp c.wp
  let a := readRec (w.d f.a.toNat)
  let b := readRec (w.d f.b.toNat)
  let n := (w.uni f.c).toNat
  if 2 ^ 16 ≤ n then matIll s c
  else
    match matStart w.pxi 2 (fun p => decide (p < n)) with
    | none => matIll s c
    | some p =>
      match productTrap s c f a b n with
      | some e => e
      | none =>
        matHoldAt s c (if n = 0 then 0 else pxiOf 2 p) (.mloop f.dst.toNat (w.d f.a.toNat) (w.d f.b.toNat) (f.mod 0 0 = 1) n)
          (a.tiles ++ b.tiles ++ [f.dst.toNat]) (productRanges s c.wp a b n)) s

/-- Is a number a size of a region, 1 to 64? -/
def sizeOk (n : Nat) : Bool := decide (1 ≤ n) && decide (n ≤ 64)

/-- MPOLY (R410). -/
def execMpoly (f : RWord) (s : State) := issueX shMpoly f (fun s c =>
  let w := s.warp c.wp
  let d := f.dst.toNat
  let x := f.a.toNat
  let n := (w.uni f.b).toNat
  let m := f.mod 3 0
  if d = x || !sizeOk n then matIll s c
  else
    match matStart w.pxi 3 (fun p => decide (p ≤ m)) with
    | none => matIll s c
    | some p =>
      if tilesTaken (s.core (coreOf c.wp)) w.grp [d, x] then matIll s c
      else matHoldAt s c (pxiOf 3 p) (.mpoly d x n m (f.mod 4 4 = 1) ((List.range (m + 1)).map w.q)) [d, x] []) s

/-- MITER (R411). -/
def execMiter (f : RWord) (s : State) := issueX shMiter f (fun s c =>
  let w := s.warp c.wp
  let x := f.dst.toNat
  let a := (w.uni f.a).toNat
  let m := a % 128
  let n := a / 256 % 128
  let cap := f.mod 7 0
  if x = 1 || x = 2 || decide (cap = 0) || a != m + 256 * n || !sizeOk m || !sizeOk n then matIll s c
  else
    match matStart w.pxi 4 (fun p => decide (p % 256 ≤ cap) && decide (p / 256 % 8 ≤ 4) && decide (p < 2 ^ 12)) with
    | none => matIll s c
    | some p =>
      if tilesTaken (s.core (coreOf c.wp)) w.grp [x, 1, 2] then matIll s c
      else
        matHoldAt s c (pxiOf 4 p) (.miter x m n cap (f.b.toNat = 1) (f.mod 8 8 = 1) (f.mod 9 9 = 1) [w.q 0, w.q 1, w.q 2, w.q 14, w.q 15] (w.pxi = 0))
          [x, 1, 2] []) s

/-- The checks of MLDC's or MSTC's record, and of its region's size (R390, R401, R402). -/
def regionTrap (s : State) (c : Ctx) (r : MRec) (num tile : Nat) : Option Eff :=
  let g := s.groupOf c.wp
  match checkRec g r false true 1 with
  | some x => some (matTrap s c x num 0)
  | none =>
    if 64 < r.rows ∨ 64 < r.cols then some (matTrap s c (.shape, 2) num 0)
    else if tilesTaken (s.core (coreOf c.wp)) (s.warp c.wp).grp [tile] then some (matIll s c)
    else (r.rangeTrap g 1).map (fun x => .trap x.1 x.2 c.sp.mask)

/-- MLDC (R401). -/
def execMldc (f : RWord) (s : State) := issueX shMldc f (fun s c =>
  let d := (s.warp c.wp).d f.a.toNat
  let r := readRec d
  match regionTrap s c r f.a.toNat f.dst.toNat with
  | some e => e
  | none =>
    matIssue s c (.mldc f.dst.toNat d) [f.dst.toNat] (r.ranges (coreOf c.wp) (s.groupOf c.wp) false 1)) s

/-- MSTC (R402). -/
def execMstc (f : RWord) (s : State) := issueX (shMstc f) f (fun s c =>
  let d := (s.warp c.wp).d f.dst.toNat
  let r := readRec d
  if 1 < r.space ∨ r.packed ∨ r.scaled ∨ r.fmt = 8 then matIll s c
  else
    match regionTrap s c r f.dst.toNat f.a.toNat with
    | some e => e
    | none =>
      matIssue s c (.mstc d f.a.toNat f.rnd) [f.a.toNat] (r.ranges (coreOf c.wp) (s.groupOf c.wp) true 1)) s

/-- MMOV (R405). -/
def execMmov (f : RWord) (s : State) := issueX (shMmov f) f (fun s c =>
  let w := s.warp c.wp
  let l := [f.dst.toNat, f.a.toNat]
  if tilesTaken (s.core (coreOf c.wp)) w.grp l then matIll s c
  else
    matIssue s c (.mmov f.dst.toNat f.a.toNat (f.mod 0 0 = 1) (if f.mod 1 1 = 1 then some (w.q f.b.toNat) else none)) l []) s

/-- MNRM (R406). A size above 64 is ILLEGAL_OPERAND, as its own rule says, and not R390's SHAPE. DEDUCED: log 146. -/
def execMnrm (f : RWord) (s : State) := issueX (shMnrm f) f (fun s c =>
  let w := s.warp c.wp
  let a := (w.uni f.b).toNat
  let m := a % 128
  let n := a / 256 % 128
  if a ≠ m + 256 * n || !sizeOk m || !sizeOk n then matIll s c
  else if f.mod 1 0 = 1 ∧ m ≠ n then matTrap s c (.shape, 9) 0 0
  else if tilesTaken (s.core (coreOf c.wp)) w.grp [f.a.toNat] then matIll s c
  else matHold s c (.mnrm (f.dst.toNat - 0x100) f.a.toNat m n (f.mod 1 0)) [f.a.toNat] []) s

/-- MQLD `.one` (R407). -/
def execMqldOne (f : RWord) (s : State) := issueX (shMqldOne f) f (fun s c =>
  matHold s c (.mqldOne f.dst.toNat (((s.warp c.wp).uni f.a).setWidth 32)) [] []) s

/-- MQLD of 16 coefficients, from the local store or a vault (R407). -/
def mqldMem (space : Space) (bits : Nat) (f : RWord) (s : State) := issueX shMqldMem f (fun s c =>
  let g := s.groupOf c.wp
  let a := ((s.warp c.wp).uni f.a).toNat
  if a % 4 ≠ 0 ∨ 2 ^ bits ≤ a then matIll s c
  else
    match (if space = .ls then lsRangeTrap g a 64 else vaultRangeTrap g a 64) with
    | some x => .trap x.1 x.2 c.sp.mask
    | none =>
      matHold s c (.mqld { space := space, addr := a }) []
        [{ vault := space == .vault, lo := recPlace (coreOf c.wp) g (if space = .ls then 0 else 1) a, n := 64, write := false }]) s

/-- MQLD `.ls` (R407). -/
def execMqldLs (f : RWord) (s : State) := mqldMem .ls 20 f s
/-- MQLD `.vt` (R407). -/
def execMqldVt (f : RWord) (s : State) := mqldMem .vault 33 f s

/-- MSTAT (R403). -/
def execMstat (f : RWord) (s : State) := issueX (shMstat f) f (fun s c =>
  let w := s.warp c.wp
  let d := f.dst.toNat - 0x100
  if f.mod 2 0 = 5 then matHold s c (.mstatQ d (w.q f.a.toNat)) [] []
  else if tilesTaken (s.core (coreOf c.wp)) w.grp [f.a.toNat] then matIll s c
  else matHold s c (.mstat d f.a.toNat (f.mod 2 0)) [f.a.toNat] []) s

/-! ### Order against other accesses (R324, R393) -/

/-- May the operation read and write its ranges: earlier engine commands of its core, and its warp's earlier vault accesses, on whatever
core it made them, that conflict have been performed? -/
def matReady (s : State) (core : Nat) (j : MatJob) : Bool :=
  let k := s.core core
  let n := s.nameOf j.warp
  j.ranges.all (fun x =>
    if x.vault then
      !(x.write && k.loads.any (fun l => l.warp == j.warp && decide (l.id < j.id) && l.space == .vault
          && l.todo.any (fun p => x.touches true (p.line * 128) 128)))
        && !s.cores.any (fun c => c.2.stores.any (fun y =>
            y.name == n && decide (y.id < j.id) && y.space == .vault && x.touches true (y.line * 128) 128))
    else
      !k.board.any (fun r => decide (r.seq < j.id) && (r.write || x.write)
        && x.touches false (core * 2 ^ 20 + r.lo * 128) ((r.hi - r.lo + 1) * 128)))

/-! ### Performing (R383) -/

/-- An operand captured for a product: its parts and its poisoned rows (R395, R404). -/
def matOperand (s : State) (core : Nat) (g : Group) (r : MRec) (st : Nat) : List (List (List FV)) × List Bool :=
  if r.space = 2 then
    let t := (s.core core).tile (r.base % 4)
    (feedbackParts (r.fmt == 9) (t.rows r.rows r.cols r.col), t.badRows r.rows r.cols r.col)
  else
    let v := r.read s core g st
    ([v.1], v.2)

/-- One step of MMA or MLOOP (R399). -/
def productStep (s : State) (core : Nat) (g : Group) (c : Nat) (ra rb : BitVec 128) (z : Bool) (st : Nat) : State :=
  let a := readRec ra
  let b := readRec rb
  let x := matOperand s core g a st
  let y := matOperand s core g b st
  let k := s.core core
  let t := k.tile c
  let t := if z then t.put a.rows b.cols (fun _ _ => 0) else t
  s.setCore core (k.setTile c (t.accumulate a.rows b.cols (min (groupSize a.fmt) (groupSize b.fmt)) (passesOf x.1 y.1) x.2 (y.2.contains true)))

/-- A tile times a tile under feedback, M × K by K × N, into a tile that is set beforehand (R410, R411). -/
def tileProduct (k : Core) (dst a b m kk n : Nat) (ff tr : Bool) (base : Tile) : Core :=
  let x := (k.tile a).rows m kk false
  let y := (k.tile b).rows kk n tr
  k.setTile dst (base.accumulate m n 16 (passesOf (feedbackParts ff x) (feedbackParts ff y)) ((k.tile a).badRows m kk false)
    (((k.tile b).badRows kk n tr).contains true))

/-- A wholly cleared tile: elements and poison; its owner and status stay (R398, R411). -/
def Tile.cleared (t : Tile) : Tile := { t with el := [], poison := 0 }

/-- The FP32 code of a value rounded once, to nearest even. -/
def fp32Of (v : FV) : Nat := f32.exact v
/-- The value of an FP32 coefficient. -/
def coef (x : Lane) : FV := f32.read x.toNat

/-- The norms of R406 over values in row-major order. -/
def normFro (l : List FV) : Nat := (f32.sqrt rne false (l.foldl (fun s v => (f32.fma rne false (fp32Of v) (fp32Of v) s).1) 0)).1
/-- DEDUCED: log 54. -/
def normMax (l : List FV) : Nat :=
  l.foldl (fun s v =>
    let e := fp32Of v % 2 ^ 31
    if (f32.read s).isNan then s else if (f32.read e).isNan then e else max s e) 0

/-- The region of a tile as values, less the identity for `.fid`. -/
def tileValues (t : Tile) (m n : Nat) (fid : Bool) : List FV :=
  ((List.range m).map (fun i => (List.range n).map (fun j =>
    let v := a96.read (t.at i j)
    if fid && i == j then v.plus (.fin true 1 0) else v))).flatten

/-- One sub-step of MPOLY (R410). -/
def polyStep (k : Core) (d x n m : Nat) (ff : Bool) (q : List Lane) (t : Nat) : Core :=
  let diag (i j : Nat) : Nat := if i = j then a96.exact (coef ((q[m - t]?).getD 0)) else 0
  let base := (k.tile d).put n n diag
  if t = 0 then k.setTile d { base with poison := base.poison &&& ~~~ (BitVec.ofNat 64 (2 ^ n - 1)) }
  else tileProduct k d d x n n n ff false base

/-- S3 of MITER (R411): the new X, and in step mode the residual. -/
def iterUpdate (k : Core) (x m n : Nat) (q : List Lane) (quintic : Bool) : Core × Nat :=
  let t := k.tile x
  let c (i : Nat) : FV := coef ((q[i]?).getD 0)
  let sum (i j : Nat) : FV :=
    let v := ((c 0).times (a96.read (t.at i j))).plus ((c 1).times (a96.read ((k.tile 2).at i j)))
    if quintic then v.plus ((c 2).times (a96.read ((k.tile 1).at i j))) else v
  let new := t.put m n (fun i j => a96Sum (sum i j))
  let diff := ((List.range m).map (fun i => (List.range n).map (fun j =>
    (a96.read (new.at i j)).plus (a96.read (t.at i j)).minus))).flatten
  let rows : Word := BitVec.ofNat 64 (2 ^ m - 1)
  let bad := ((k.tile 2).poison ||| (if quintic then (k.tile 1).poison else 0)) &&& rows
  (k.setTile x { new with poison := t.poison ||| bad }, normFro diff)

/-- What a step of a held operation gives its warp. -/
inductive MatEnd where
  /-- more steps follow: PXI's new value -/
  | more (pxi : Word)
  /-- it completes; `cap` sets STATUS.itercap -/
  | finish (cap : Bool)
  | trap (cause : Cause) (pxi info : Word)
  deriving DecidableEq, Repr

/-- The tests after MITER's residual (R412): the tile's status and what follows; `it` counts this iteration. -/
def iterTests (status : BitVec 128) (it dc cap : Nat) (step ctrap : Bool) (q14 q15 : FV) (r : Nat) : BitVec 128 × MatEnd :=
  let rp := (status.extractLsb' 0 32).toNat
  let flags := (status.extractLsb' 72 3).toNat
  let word (fl : Nat) : BitVec 128 := BitVec.ofNat 128 ((flags ||| fl) * 2 ^ 72 + it * 2 ^ 64 + rp * 2 ^ 32 + r)
  let v := f32.read r
  let pxi (dc : Nat) : Word := pxiOf 4 (dc * 2048 + (if step then 0 else 256) + it)
  let info (odd : Nat) : Word := BitVec.ofNat 64 (odd * 2 ^ 40 + it * 2 ^ 32 + r)
  match v with
  | .fin _ _ _ =>
    if v.lt q14 || v.same q14 then (word 1, .finish false)
    else
      let grew := decide (2 ≤ it) && (q15.times (f32.read rp)).lt v
      let dc := if grew then dc + 1 else 0
      if dc = 2 then (word 4, .trap .iterDiverge (pxi 0) (info 0))
      else if it = cap then
        if ctrap then (word 2, .trap .iterCap (pxi dc) (info 0)) else (word 2, .finish true)
      else (word 0, .more (pxi dc))
  | _ => (word 4, .trap .iterDiverge (pxi dc) (info 1))

/-- The status of MITER's tile at a fresh start (R412). -/
def Core.fresh (k : Core) (x : Nat) : Core := k.setTile x { k.tile x with status := 0 }

/-- One sub-step of MITER from its progress (R411, R412). A recorded point at a sub-step that the form leaves out is passed over: S2 of a
cubic form, and S4 in step mode, whose iteration ends without a residual. DEDUCED: log 150. -/
def iterStep (k : Core) (x m n cap : Nat) (ff step ctrap : Bool) (q : List Lane) (pxi : Word) : Core × MatEnd :=
  let p := pxi.toNat % 2 ^ 16
  let it := p % 256
  let sub := p / 256 % 8
  let dc := p / 2048 % 2
  let c (i : Nat) : FV := coef ((q[i]?).getD 0)
  let quintic := !(c 2).isZero
  let next (sub : Nat) : MatEnd := .more (pxiOf 4 (dc * 2048 + sub * 256 + it))
  let gram : Core := tileProduct k 1 x x m n m ff true (k.tile 1).cleared
  let tests (k : Core) (r : Nat) : Core × MatEnd :=
    let t := iterTests (k.tile x).status (it + 1) dc cap step ctrap (c 3) (c 4) r
    (k.setTile x { k.tile x with status := t.1 }, t.2)
  if it = cap then (k, .finish false)
  else
    match sub with
    | 0 => (gram, next 1)
    | 1 => (tileProduct k 2 1 x m m n ff false (k.tile 2).cleared, next (if quintic then 2 else 3))
    | 2 => (if quintic then tileProduct k 1 1 2 m m n ff false (k.tile 1).cleared else k, next 3)
    | 3 =>
      let u := iterUpdate k x m n q quintic
      if step then tests u.1 u.2 else (u.1, next 4)
    | _ =>
      if step then (k, .more (pxiOf 4 (dc * 2048 + it + 1)))
      else tests gram (normFro (tileValues (gram.tile 1) m m true))

/-- MLDC performed (R401). -/
def loadTile (s : State) (core : Nat) (g : Group) (c : Nat) (ra : BitVec 128) : State :=
  let r := readRec ra
  let v := r.read s core g 0
  let k := s.core core
  let t := k.tile c
  let code (v : FV) (x : Nat) : Nat := if r.fmt = 11 then x else a96.exact v
  let raw (i j : Nat) : Nat :=
    let d := r.line s core g 0 (if r.col then j else i)
    codeIn 96 (natOfBytes d.1) (if r.col then i else j)
  let new := t.put r.rows r.cols (fun i j =>
    code ((((v.1[i]?).getD [])[j]?).getD (.fin false 0 0)) (if r.fmt = 11 then raw i j else 0))
  let poison := (List.range r.rows).foldl (fun (x : Word) i =>
    if (v.2[i]?).getD false then x ||| (1#64 <<< i) else if r.cols = 64 then x &&& ~~~ (1#64 <<< i) else x) t.poison
  s.setCore core (k.setTile c { new with poison := poison })

/-- The code of an element that MSTC stores, and whether it poisons its granule (R402). -/
def storeCode (fmt rnd x : Nat) : Nat × Bool :=
  let r : Rnd := { mode := rnd }
  match fmt with
  | 0 => ((a96.convert bf16 r false x).1, false)
  | 1 => ((a96.convert f16 r false x).1, false)
  | 10 => ((a96.convert f32 r false x).1, false)
  | 11 => (x, false)
  | _ =>
    let c := convertNarrow (fmt - 2) r (a96.read x)
    (c.1, c.2 &&& fNanz != 0)

/-- Bytes written at a place of the local stores or of the vaults. -/
def recPut (s : State) (space a : Nat) (l : List Byte) : State :=
  if space = 0 then { s with ls := Memory.storeBytes s.ls a l } else { s with vault := Memory.storeBytes s.vault a l }

/-- The poison of granules after one write of some runs of bytes (R98): `bad` lists those that receive poison; a granule wholly
written with sound data is no longer poisoned. -/
def recPoison (s : State) (space : Nat) (runs : List (Nat × Nat)) (bad : List Nat) : State :=
  let granules := ((runs.map (fun x => (List.range (if x.2 = 0 then 0 else (x.1 % 128 + x.2 - 1) / 128 + 1)).map (fun i => x.1 / 128 + i))).flatten).dedup
  let whole (n : Nat) : Bool := (List.range 128).all (fun i => runs.any (fun x => decide (x.1 ≤ n * 128 + i) && decide (n * 128 + i < x.1 + x.2)))
  let upd (m : SMap Bool) : SMap Bool := granules.foldl (fun m n =>
    if bad.contains n then SMap.put false n true m else if whole n then SMap.erase n m else m) m
  if space = 0 then { s with lsBad := upd s.lsBad } else { s with vaultBad := upd s.vaultBad }

/-- MSTC performed (R402): whole lines of elements are written. -/
def storeTile (s : State) (core : Nat) (g : Group) (rd : BitVec 128) (c rnd : Nat) : State :=
  let r := readRec rd
  let t := (s.core core).tile c
  let lines := (List.range r.major).map (fun a =>
    let codes := (List.range r.minor).map (fun b =>
      let i := if r.col then b else a
      let x := storeCode r.fmt rnd (if r.col then t.at b a else t.at a b)
      (x.1, x.2 || t.poison.getLsbD i))
    let p := recPlace core g r.space ((r.start 0).toNat + a * r.pitch)
    (p, codes))
  let bytes (l : List (Nat × Bool)) : List Byte :=
    bytesOfNat r.len (l.zipIdx.foldl (fun acc x => acc + x.1.1 % 2 ^ r.width * 2 ^ (r.width * x.2)) 0)
  let bad := (lines.map (fun l => (l.2.zipIdx.filter (fun x => x.1.2)).map (fun x =>
    [(l.1 + r.width * x.2 / 8) / 128, (l.1 + (r.width * x.2 + r.width - 1) / 8) / 128]))).flatten.flatten
  let s := lines.foldl (fun s l => recPut s r.space l.1 (bytes l.2)) s
  recPoison s r.space (lines.map (fun l => (l.1, r.len))) bad

/-- MMOV performed (R405). -/
def moveTile (k : Core) (d a : Nat) (tr : Bool) (q : Option Lane) : Core :=
  let t := k.tile a
  let val (i j : Nat) : Nat :=
    let x := if tr then t.at j i else t.at i j
    match q with
    | none => x
    | some q => a96.exact ((coef q).times (a96.read x))
  let new := (k.tile d).put 64 64 val
  k.setTile d { new with poison := if tr then (if t.poison = 0 then 0 else BitVec.allOnes 64) else t.poison }

/-- MSTAT's field of a tile (R403). -/
def tileField (t : Tile) (n : Nat) : Word :=
  match n with
  | 0 => (t.status.extractLsb' 0 32).setWidth 64
  | 1 => (t.status.extractLsb' 32 32).setWidth 64
  | 2 => (t.status.extractLsb' 64 8).setWidth 64
  | 3 => (t.status.extractLsb' 72 3).setWidth 64
  | _ => t.poison

/-! ### The warp that an operation held -/

/-- A held warp as its word sees it once the operation has been performed: the state before its slot, and its context. -/
def matContext (s : State) (wp : Nat) : State × Ctx :=
  let w : Warp := { s.warp wp with block := .free }
  let sp := (w.frontier[w.cur]?).getD { pc := 0, prio := 0, depth := 0, mask := 0 }
  (s.setWarp wp w, { wp := wp, i := w.cur, sp := sp, act := sp.mask })

/-- The held instruction completes (R383). -/
def matFinish (s : State) (wp : Nat) (f : Warp → Warp) (y : Option Latch) : State :=
  let (old, c) := matContext s wp
  conclude old c false false false (.done (old.setWarp wp (f (slotWarp (old.warp wp) c.i c.sp))) y)

/-- The held instruction traps, with PXI as it stands (R412). -/
def matFail (s : State) (wp : Nat) (cause : Cause) (pxi info : Word) : State :=
  let (old, c) := matContext s wp
  conclude (old.setWarp wp { old.warp wp with pxi := pxi }) c false false false (.trap cause info c.sp.mask)

/-- A result of a held instruction: an s register and the latch. -/
def matResult (s : State) (wp dst : Nat) (x : Word) : State := matFinish s wp (fun w => w.setS dst x) (some (.uniform x))

/-- The operation leaves the queue. -/
def matDrop (s : State) (core id : Nat) : State :=
  let k := s.core core
  s.setCore core { k with mq := k.mq.filter (fun j => j.id != id) }

/-- What a step of a held operation makes of its warp and of the queue; PXI is 0 once it completes (R408). -/
def matEnd (s : State) (core : Nat) (j : MatJob) (e : MatEnd) : State :=
  match e with
  | .more pxi => s.setWarp j.warp { s.warp j.warp with pxi := pxi }
  | .finish cap => matFinish (matDrop s core j.id) j.warp (fun w => { w with itercap := w.itercap || cap, pxi := 0 }) none
  | .trap cause pxi info => matFail (matDrop s core j.id) j.warp cause pxi info

/-- One operation, or one step of a loop, performed (R383). -/
def matPerform (s : State) (core : Nat) (j : MatJob) : State :=
  let g := s.group j.grp
  let k := s.core core
  let pxi := (s.warp j.warp).pxi
  let prog := pxi.toNat % 2 ^ 16
  let poison (s : State) (a : Nat) : State := poisonFault s j.warp j.pc a
  match j.op with
  | .mzero c => matDrop (s.setCore core (k.setTile c (k.tile c).cleared)) core j.id
  | .mma c ra rb z => matDrop (productStep s core g c ra rb z 0) core j.id
  | .mldc c ra => matDrop (loadTile s core g c ra) core j.id
  | .mstc rd c rnd => matDrop (storeTile s core g rd c rnd) core j.id
  | .mmov d a t q => matDrop (s.setCore core (moveTile k d a t q)) core j.id
  | .mloop c ra rb z n =>
    if n ≤ prog then matEnd s core j (.finish false)
    else
      let s := productStep s core g c ra rb (z && prog == 0) prog
      matEnd s core j (if prog + 1 = n then .finish false else .more (pxiOf 2 (prog + 1)))
  | .mpoly d x n m ff q =>
    if m < prog then matEnd s core j (.finish false)
    else
      let s := s.setCore core (polyStep k d x n m ff q prog)
      matEnd s core j (if prog = m then .finish false else .more (pxiOf 3 (prog + 1)))
  | .miter x m n cap ff step ctrap q fresh =>
    let r := iterStep (if fresh && prog == 0 then k.fresh x else k) x m n cap ff step ctrap q pxi
    matEnd (s.setCore core r.1) core j r.2
  | .mnrm dst c rows cols kind =>
    let t := k.tile c
    let s := matDrop s core j.id
    if (List.range rows).any (fun i => t.poison.getLsbD i) then poison s 0
    else
      let l := tileValues t rows cols (kind == 1)
      matResult s j.warp dst (BitVec.ofNat 64 (if kind = 2 then normMax l else normFro l))
  | .mqldOne n x => matFinish (matDrop s core j.id) j.warp (fun w => w.setQ n x) none
  | .mqld a =>
    let space := if a.space = .ls then 0 else 1
    let p := recPlace core g space a.addr
    let s := matDrop s core j.id
    match (recBad s space p 64).findIdx? id with
    | some i => poison s ((a.addr + i) / 128 * 128)
    | none =>
      let b := recBytes s space p 64
      matFinish s j.warp (fun w => (List.range 16).foldl (fun w i => w.setQ i (BitVec.ofNat 32 (field b (4 * i) 4))) w) none
  | .mstat dst c n => matResult (matDrop s core j.id) j.warp dst (tileField (k.tile c) n)
  | .mstatQ dst x => matResult (matDrop s core j.id) j.warp dst (x.setWidth 64)

/-- The operation that the unit performs next: the oldest; while a group saves itself its own operations overtake another
group's held loop (R414). -/
def matNext (s : State) (core : Nat) : Option MatJob :=
  let k := s.core core
  match k.mq with
  | [] => none
  | j :: rest =>
    let loop := match j.op with
      | .mloop .. | .mpoly .. | .miter .. => true
      | _ => false
    if loop && k.saving && !(s.group j.grp).saving then
      match rest.find? (fun x => (s.group x.grp).saving) with
      | some x => some x
      | none => some j
    else some j

/-- An operation's reads and writes of vaults cross to the dies of those vaults and back (R288). -/
def crossRanges (s : State) (core : Nat) (j : MatJob) : State :=
  (j.ranges.filter (fun x => x.vault)).foldl (fun s x => s.crossVault core (x.lo / 128)) s

/-- MATRIX_OP_PERFORM (R383): the unit performs its next operation, or a step of it, once what it conflicts with has been
performed. -/
def execMatrixOpPerform (core : Nat) (s : State) : Host.Outcome State Fault Refusal :=
  match matNext s core with
  | none => .next s
  | some j =>
    if !matReady s core j then .next s else .next (tryRelease (matPerform (crossRanges s core j) core j) j.grp)

/-- An uncorrectable storage error that the unit meets at an address of an operand of its next operation (R413): the granule is
poisoned, a record names it, and MATRIX_STORAGE is due. -/
def storageError (s : State) (core : Nat) (vault : Bool) (a : Nat) : State :=
  match matNext s core with
  | none => s
  | some j =>
    if !j.ranges.any (fun x => !x.write && x.touches vault a 1) then s
    else
      let g := s.group j.grp
      let addr := if vault then a else a - (core * 2 ^ 20 + g.lsBase)
      let tile : Option Nat := match j.op with
        | .mma c .. => some c
        | .mloop c .. => some c
        | .mldc c _ => some c
        | _ => none
      let s := if vault then { s with vaultBad := SMap.set (a / 128) true s.vaultBad } else { s with lsBad := SMap.set (a / 128) true s.lsBad }
      let s := s.record { cls := 8, sev := 1, die := core / 32, core := core % 32, launch := g.launch, group := g.gid,
                          warp := slotOf j.warp, addr := addr, pc := j.pc.toNat }
      match tile with
      | none => s
      | some c =>
        let bits : Word := (1#64 <<< c) ||| (if vault then 0x20 else 0x10)
        let due : Word × Nat := match g.msDue with
          | some (x, wp) => (x ||| bits, wp)
          | none => (bits ||| BitVec.ofNat 64 (addr * 256), j.warp)
        s.setGroup j.grp { g with msDue := some due }

end Sys2Proof.Machine
end

