-- ==== Sys2Proof/Machine/Engines.lean ====
section
/-! DEFINITION. Class 8: work commands, their tokens and scoreboard, CPY, CPYT and packed areas, sluices, the skimmer and
binning (R316 to R348), and the events COPY_UNIT_LAND and ENGINE_COMMAND_COMPLETE. -/

namespace Sys2Proof.Machine

/-! ### Commands and their slots (R316, R319, R323) -/

def Core.cmd (k : Core) (n : Nat) : Option Cmd := SMap.find k.cmds n
def setCmd (s : State) (core n : Nat) (m : Cmd) : State :=
  let k := s.core core
  s.setCore core { k with cmds := SMap.set n m k.cmds }

/-- A range of the core's local store that a command reads or writes: its first byte on the core, its bytes. -/
structure Span where
  lo : Nat
  n : Nat
  write : Bool
  deriving DecidableEq, Repr

/-- The scoreboard's entries for some ranges, in whole granules (R323). -/
def spanEntries (l : List Span) (slot seq : Nat) : List Range :=
  (l.filter (fun x => x.n != 0)).map (fun x => { lo := x.lo / 128, hi := (x.lo + x.n - 1) / 128, write := x.write, cmd := slot, seq := seq })

/-- A free command slot that a group may take (R316). -/
def freeSlot (k : Core) (g : Nat) : Option Nat :=
  if 16 ≤ (k.cmds.filter (fun p => p.2.grp == g)).length then none else (List.range 32).find? (fun n => !SMap.has k.cmds n)

/-- A command takes its slot: its token becomes pending, and its ranges enter the scoreboard unless it is held (R316, R319,
R323). -/
def placeCmd (s : State) (slot : Nat) (m : Cmd) (spans : List Span) : State :=
  let core := coreOf m.warp
  let (id, s) := s.takeId
  let k := s.core core
  let m := { m with seq := id }
  let s := s.setCore core
    { k with cmds := SMap.set slot m k.cmds, board := if m.held then k.board else k.board ++ spanEntries spans slot id }
  let w := s.warp m.warp
  s.setWarp m.warp { w with tokPend := w.tokPend ||| (1#64 <<< m.token) }

/-- A work command issues, or its warp waits for a slot or for entries (R316, R323). `claim` is what it takes for its group. -/
def startCmd (s : State) (m : Cmd) (spans : List Span) (claim : Core → Core) : Eff :=
  let core := coreOf m.warp
  let k := s.core core
  match freeSlot k m.grp with
  | none => .hold
  | some slot =>
    if !m.held && decide (32 < k.board.length + (spanEntries spans 0 0).length) then .hold
    else
      let s := placeCmd s slot m spans
      .done (s.setCore core (claim (s.core core))) none

/-- A class 8 word acts once for the warp (R316). -/
def issueE (sh : Shape) (f : RWord) (body : State → Ctx → Eff) (s : State) : Host.Outcome State Fault Refusal :=
  issueR sh f (fun s c => if c.act = 0 then .done s none else body s c) s

/-- As `issueE`, for the work commands, whose issue sets the hang detector back (R171, R316). DEDUCED: log 127. -/
def issueC (sh : Shape) (f : RWord) (body : State → Ctx → Eff) (s : State) : Host.Outcome State Fault Refusal :=
  .next (issueWord sh f sh.readsD true [] (fun _ _ => true) (fun s c => if c.act = 0 then .done s none else body s c) s)

/-- The command that a word starts, its token and scope. -/
def cmdOf (s : State) (c : Ctx) (f : RWord) (kind : CmdKind) : Cmd :=
  { kind := kind, warp := c.wp, grp := (s.warp c.wp).grp, launch := (s.groupOf c.wp).launch, token := f.dst.toNat - 0x100, scope := f.scope, seq := 0 }

/-- A trap of an issue check. -/
def engTrap (c : Ctx) (x : Cause × Word) : Eff := .trap x.1 x.2 c.sp.mask

/-! ### Sluices (R333 to R340) -/

def Core.sluice (k : Core) (n : Nat) : Sluice := SMap.look {} k.sluices n
/-- The gate of a code (R334). -/
def Core.gate (k : Core) (code : Nat) : Word := if code / 64 = 0 then (k.sluice (code % 64)).fill else (k.sluice (code % 64)).drain
def Core.setGate (k : Core) (code : Nat) (x : Word) : Core :=
  let y := k.sluice (code % 64)
  { k with sluices := SMap.set (code % 64) (if code / 64 = 0 then { y with fill := x } else { y with drain := x }) k.sluices }

def gateGot (x : Word) : Nat := (x.extractLsb' 56 7).toNat
def gateNeed (x : Word) : Nat := (x.extractLsb' 49 7).toNat
def gateBal (x : Word) : BitVec 25 := x.extractLsb' 24 25
def gateDue (x : Word) : Nat := (x.extractLsb' 1 23).toNat

/-- A gate from its fields (R333). -/
def gateWord (phase : Bool) (got need : Nat) (bal : BitVec 25) (due : Nat) : Word :=
  BitVec.ofNat 64 ((if phase then 2 ^ 63 else 0) + got % 128 * 2 ^ 56 + need % 128 * 2 ^ 49 + bal.toNat * 2 ^ 24 + due % 2 ^ 23 * 2)

/-- One event of a gate: an arrival that announces n bytes, or n bytes landed (R335). -/
def gateStep (x : Word) (arrival : Bool) (n : Nat) : Word :=
  let got := if arrival then gateGot x + 1 else gateGot x
  let bal := if arrival then gateBal x + BitVec.ofNat 25 n else gateBal x - BitVec.ofNat 25 n
  if got = gateNeed x ∧ bal.toInt ≤ 0 then gateWord (!x.getLsbD 63) 0 (gateNeed x) (bal + BitVec.ofNat 25 (gateDue x)) (gateDue x)
  else gateWord (x.getLsbD 63) got (gateNeed x) bal (gateDue x)

/-- An event of a gate applied on a core. -/
def gateEvent (s : State) (core code : Nat) (arrival : Bool) (n : Nat) : State :=
  let k := s.core core
  s.setCore core (k.setGate code (gateStep (k.gate code) arrival n))

/-- May an event of a rank reach a gate in this cycle: an SLARR first, then the units in the order of their commands, and nothing once an
SLWAIT has passed on the gate, which is seen under its code + 256 (R416)? -/
def gateTurn (k : Core) (code rank : Nat) : Bool :=
  !k.gateSeen.any (fun x => (x.1 == code && decide (rank < x.2)) || x.1 == code + 256)

/-- An event has reached a gate in this cycle. -/
def gateSaw (s : State) (core code rank : Nat) : State :=
  let k := s.core core
  s.setCore core { k with gateSeen := (code, rank) :: k.gateSeen }

/-- Does a gate operand name a gate of the group's (R334, R336)? -/
def gateOk (k : Core) (g : Nat) (x : Word) : Bool := decide (x.toNat < 128) && (k.sluice (x.toNat % 64)).owner == some g

/-- Does a command in a slot name a gate of a sluice (R337)? -/
def gateUsed (k : Core) (n : Nat) : Bool := k.cmds.any (fun p => p.2.gate.any (fun c => c % 64 == n))

/-- SLINIT (R337). DEDUCED: log 61. -/
def execSlinit (f : RWord) (s : State) := issueE shSlinit f (fun s c =>
  let w := s.warp c.wp
  let core := coreOf c.wp
  let k := s.core core
  let a := (w.uni f.a).toNat
  let x := (w.uni f.b).toNat
  let y := (w.uni f.c).toNat
  let bad (v : Nat) : Bool := v % 128 == 0 || decide (2 ^ 30 ≤ v)
  if 64 ≤ a || bad x || bad y || (k.sluice a).owner.any (fun o => o != w.grp) then matIll s c
  else if gateUsed k a then .hold
  else
    let gate (v : Nat) : Word := gateWord false 0 (v % 128) (BitVec.ofNat 25 (v / 128)) (v / 128)
    .done (s.setCore core { k with sluices := SMap.set a { owner := some w.grp, fill := gate x, drain := gate y } k.sluices }) none) s

/-- SLARR (R338): a release at `.gp`, then one arrival. -/
def execSlarr (f : RWord) (s : State) := issueE shUni2 f (fun s c =>
  let w := s.warp c.wp
  let core := coreOf c.wp
  let k := s.core core
  let x := w.uni f.a
  let b := (w.uni f.b).toNat
  let full := gateGot (k.gate x.toNat) == gateNeed (k.gate x.toNat)
  if !gateOk k w.grp x || decide (2 ^ 23 ≤ b) || full then matIll s c
  else if releaseReady s c.wp s.nextId 1 && gateTurn k x.toNat 0 then .done (gateSaw (gateEvent s core x.toNat true b) core x.toNat 0) none
  else .hold) s

/-- SLWAIT (R339): it passes once the phase differs, as an acquire. -/
def execSlwait (f : RWord) (s : State) := issueE shUni2 f (fun s c =>
  let w := s.warp c.wp
  let core := coreOf c.wp
  let k := s.core core
  let x := w.uni f.a
  let p := (w.uni f.b).toNat
  if !gateOk k w.grp x || decide (2 ≤ p) then matIll s c
  else if (k.gate x.toNat).getLsbD 63 != (p == 1) then .done (gateSaw (s.acquire core) core (x.toNat + 256) 0) none
  else .hold) s

/-! ### CPY at issue (R325, R326) -/

/-- An operand of CPY in its space; none when its high bits are not 0 (R325). -/
def cpyAddr (w : Warp) (space : Nat) (code : BitVec 9) : Option EngAddr :=
  match space with
  | 0 => some { space := .virt, addr := (w.areg code).toNat }
  | 1 => if (w.uni code).toNat < 2 ^ 20 then some { space := .ls, addr := (w.uni code).toNat } else none
  | _ => if (w.uni code).toNat < 2 ^ 33 then some { space := .vault, addr := (w.uni code).toNat } else none

/-- The trap of a range in a space (R318). -/
def engRange (g : Group) (x : EngAddr) (n : Nat) : Option (Cause × Word) :=
  if n = 0 then none
  else
    match x.space with
    | .virt => none
    | .ls => lsRangeTrap g x.addr n
    | .vault => vaultRangeTrap g x.addr n

/-- Does an operand reach a packed area, which only CPYT and class 10 may (R329)? DEDUCED: log 147. -/
def engPacked (g : Group) (x : EngAddr) (n : Nat) : Bool := x.space == .ls && n != 0 && touchesPacked g x.addr n

/-- The scoreboard's range of an operand, if it lies in the local store. -/
def engSpan (g : Group) (x : EngAddr) (n : Nat) (write : Bool) : List Span :=
  if x.space = .ls then [{ lo := g.lsBase + x.addr, n := n, write := write }] else []

/-- CPY's length operand: the length and the gate; none where it traps (R325). -/
def cpyLength (w : Warp) (k : Core) (code : BitVec 9) : Option (Nat × Option Nat) :=
  if isInline code then (if inlineInt code < 0 then none else some ((inlineInt code).toNat, none))
  else
    let x := (w.uni code).toNat
    let gate := x / 2 ^ 32 % 128
    if 2 ^ 40 ≤ x then none
    else if x / 2 ^ 39 = 0 then some (x % 2 ^ 32, none)
    else if gateOk k w.grp (BitVec.ofNat 64 gate) then some (x % 2 ^ 32, some gate) else none

/-- CPY (R325, R326). -/
def execCpy (f : RWord) (s : State) := issueC (shCpy f) f (fun s c =>
  let w := s.warp c.wp
  let g := s.groupOf c.wp
  match cpyAddr w (f.mod 6 5) f.a, cpyAddr w (f.mod 4 3) f.b, cpyLength w (s.core (coreOf c.wp)) f.c with
  | some d, some a, some (n, gate) =>
    match (engRange g d n).or (engRange g a n) with
    | some x => engTrap c x
    | none =>
      if engPacked g d n || engPacked g a n then matIll s c
      else startCmd s { cmdOf s c f .cpy with held := f.mod 2 2 = 1, src := a, dst := d, len := n, gate := gate }
        (engSpan g d n true ++ engSpan g a n false) id
  | _, _, _ => matIll s c) s

/-! ### CPYT at issue (R329 to R332) -/

/-- The bytes of a packed area. DEDUCED: log 59. -/
def areaBytes (t sz : Nat) : Nat := 128 + 256 * t + sz * t

/-- CPYT `.pinit` (R329): the registration is made at issue, the header and the tables are written by the command. DEDUCED: log 63. -/
def execCpytPinit (f : RWord) (s : State) := issueC (shCpytPinit f) f (fun s c =>
  let w := s.warp c.wp
  let g := s.groupOf c.wp
  let o := (w.uni f.a).toNat
  let x := (w.uni f.b).toNat
  let t := x % 256
  let sz := x / 256
  let bad := decide (4 ≤ g.packed.length) || decide (t < 1) || decide (128 < t) || decide (sz < 128) || decide (8192 < sz)
    || sz % 128 != 0 || decide (g.lsSize < o + areaBytes t sz)
    || g.packed.any (fun p => decide (p.1 < o + areaBytes t sz) && decide (o < p.1 + areaBytes p.2.1 p.2.2))
  if bad then matIll s c
  else
    match startCmd s { cmdOf s c f .pinit with dst := { space := .ls, addr := o }, len := t, ctl := BitVec.ofNat 64 sz }
        [{ lo := g.lsBase + o, n := 128 + 256 * t, write := true }] id with
    | .done s y => .done (s.setGroup w.grp { g with packed := g.packed ++ [(o, t, sz)] }) y
    | e => e) s

/-- A side of CPYT: its record, with its 6-bit containers, its virtual base, its packed tiles (R330, R331). Space 4 stands for
virtual memory. -/
def cpytSide (rec : BitVec 128) (boxed : Bool) (x : EngAddr) (ptile : Nat) : MRec :=
  let r := readRec rec
  let r := { r with boxed := boxed && (r.fmt == 4 || r.fmt == 5) }
  let r := if x.space = .virt then { r with space := 4, base := x.addr } else r
  if r.packed then { r with stride := ptile, bstep := 1 } else r

def Cmd.dstSide (m : Cmd) : MRec := cpytSide m.recD (m.kindBits / 8 % 2 = 1) m.dst (m.ctl.toNat / 2 ^ 16 % 256)
def Cmd.srcSide (m : Cmd) : MRec := cpytSide m.recS (m.kindBits / 4 % 2 = 1) m.src (m.ctl.toNat / 2 ^ 16 % 256)

/-- A side's own check (R390, R332) over n tiles. -/
def sideCheck (g : Group) (r : MRec) (dst : Bool) (n : Nat) : Option (Cause × Nat) :=
  let plain := if r.space = 4 then { r with space := 1, base := 0 } else r
  match checkRec g { plain with packed := false, stride := if r.packed then 0 else r.stride } false false 1 with
  | some x => some x
  | none =>
    if r.packed && !(packedOk g r (max n 1) || (decide (n = 0) && r.major == 64 && r.len == 128)) then
      some (if dst then .illegalOperand else .shape, 7)
    else none

/-- Do the two shapes of CPYT agree: elements, formats, layouts, scales (R331)? -/
def sidesAgree (d a : MRec) : Bool :=
  d.rows == a.rows && d.cols == a.cols && d.col == a.col && (d.fmt == a.fmt || (a.fmt == 8 && d.fmt == 7))
    && (if a.fmt = 8 then d.fmt == 8 || !d.scaled else d.scaled == a.scaled)

/-- Are the scales copied: both shapes name a scale base? -/
def copiesScales (d a : MRec) : Bool := d.block != 0 && d.block == a.block

/-- The issue checks of a CPYT of n tiles (R318, R330 to R332): its first trap. DESIGN CHOICE: log 42. -/
def cpytTrap (g : Group) (m : Cmd) (na nb n : Nat) : Option (Cause × Word) :=
  let d := m.dstSide
  let a := m.srcSide
  let num (code : Nat) : Word := BitVec.ofNat 64 (code + 256 * na + 4096 * nb)
  match (sideCheck g d true n).or (sideCheck g a false n) with
  | some x => some (x.1, if x.1 = .shape then num x.2 else 0)
  | none =>
    if !sidesAgree d a then some (.shape, num (Config.mismatchCode m.recD m.recS % 256))
    else
      let range (r : MRec) : Option (Cause × Word) := if r.space = 4 then none else r.rangeTrap g n
      (range d).or (range a)

/-- The least and the greatest place of some ranges of a record, as one range of the scoreboard. DEDUCED: log 56. -/
def hull (g : Group) (write : Bool) (l : List (Int × Nat)) : List Span :=
  match l with
  | [] => []
  | x :: r =>
    let lo : Int := r.foldl (fun a y => min a y.1) x.1
    let hi : Int := r.foldl (fun a y => max a (y.1 + (y.2 : Int))) (x.1 + (x.2 : Int))
    [{ lo := g.lsBase + lo.toNat, n := (hi - lo).toNat, write := write }]

/-- The scoreboard's ranges of a side of n tiles: each span's hull over the tiles. -/
def sideSpans (g : Group) (r : MRec) (write : Bool) (n : Nat) : List Span :=
  if r.space ≠ 0 ∨ n = 0 then []
  else
    let per := (List.range n).map (r.spans g)
    ((List.range 3).map (fun i => hull g write (per.filterMap (fun l => l[i]?)))).flatten

def cpytSpans (g : Group) (m : Cmd) (n : Nat) : List Span := sideSpans g m.dstSide true n ++ sideSpans g m.srcSide false n

/-- The ranges of a tile's lines and of its scales (R389, R400). -/
def sideRuns (r : MRec) (st : Nat) : List (Nat × Nat) :=
  (List.range r.major).map (fun a => (((r.start st + a * r.pitch) % 2 ^ 80).toNat, r.len))
def scaleRuns (r : MRec) (st : Nat) : List (Nat × Nat) :=
  let n := r.blocks * r.scaleSize
  (List.range r.major).map (fun a => (((r.scaleAt st + a * n) % 2 ^ 80).toNat, n))

/-- The ranges of virtual memory that a CPYT writes from tile i on (R279). -/
def cpytHolds (m : Cmd) (i : Nat) : List (Nat × Nat) :=
  let d := m.dstSide
  if d.space ≠ 4 then []
  else ((List.range m.len).drop i).map (fun t => sideRuns d t ++ (if copiesScales d m.srcSide then scaleRuns d t else [])) |>.flatten

/-- CPYT (R330). -/
def execCpyt (f : RWord) (s : State) := issueC (shCpyt f) f (fun s c =>
  let w := s.warp c.wp
  let g := s.groupOf c.wp
  let k := s.core (coreOf c.wp)
  let x := w.uni f.c
  let kind := f.mod 4 3
  let areg := x.toNat / 2 ^ 32 % 16
  let gate := x.toNat / 2 ^ 24 % 128
  let gen := x.getLsbD 31
  let n := x.toNat % 2 ^ 16
  let va : EngAddr := { space := .virt, addr := (w.a areg).toNat }
  let m : Cmd := { cmdOf s c f .cpyt with
    recD := w.d f.a.toNat, recS := w.d f.b.toNat, ctl := x, kindBits := kind + 4 * f.mod 5 5 + 8 * f.mod 6 6, len := n
    src := if kind = 1 then va else {}, dst := if kind = 2 then va else {}, gate := if gen then some gate else none }
  if 2 ^ 36 ≤ x.toNat || (kind == 0 && areg != 0) || (gen && !gateOk k w.grp (BitVec.ofNat 64 gate)) then matIll s c
  else
    match cpytTrap g m f.a.toNat f.b.toNat n with
    | some y => if y.1 = .illegalOperand then matIll s c else engTrap c y
    | none => startCmd s { m with holds := cpytHolds m 0 } (cpytSpans g m n) id) s

/-! ### SKIM, DROSS and BIN at issue (R341 to R344) -/

def Core.slotDross (k : Core) (q : Nat) : Dross := SMap.look {} k.dross q

/-- SKIM (R341). DEDUCED: log 60. -/
def execSkim (f : RWord) (s : State) := issueC (shSkim f) f (fun s c =>
  let w := s.warp c.wp
  let g := s.groupOf c.wp
  let kk := s.core (coreOf c.wp)
  let x := w.uni f.c
  let k := x.toNat % 128
  let q := x.toNat / 256 % 4
  let xfmt := x.toNat / 2 ^ 11 % 4
  let gate := x.toNat / 2 ^ 13 % 128
  let gen := x.getLsbD 20
  let owner := (kk.slotDross q).owner
  if decide (2 ^ 21 ≤ x.toNat) || x.getLsbD 7 || decide (1 < xfmt) || !sizeOk k || owner.any (fun o => o != w.grp)
      || (gen && !gateOk kk w.grp (BitVec.ofNat 64 gate)) then matIll s c
  else
    let n := if xfmt = 0 then 1024 else 512
    let o := if x.getLsbD 10 then 8 * k else 4 * k
    match (lsRangeTrap g (w.uni f.a).toNat n).or (lsRangeTrap g (w.uni f.b).toNat o) with
    | some y => engTrap c y
    | none =>
      if touchesPacked g (w.uni f.a).toNat n || touchesPacked g (w.uni f.b).toNat o then matIll s c
      else startCmd s { cmdOf s c f .skim with
          src := { addr := (w.uni f.a).toNat }, dst := { addr := (w.uni f.b).toNat }, ctl := x, len := n
          gate := if gen then some gate else none }
        [{ lo := g.lsBase + (w.uni f.a).toNat, n := n, write := false }, { lo := g.lsBase + (w.uni f.b).toNat, n := o, write := true }]
        (fun k => if owner.isNone then { k with dross := SMap.set q { owner := some w.grp } k.dross } else k)) s

/-- DROSS `.rd` (R343). -/
def execDrossRd (f : RWord) (s : State) := issueC (shDrossRd f) f (fun s c =>
  let w := s.warp c.wp
  let g := s.groupOf c.wp
  let q := (w.uni f.a).toNat
  let o := (w.uni f.b).toNat
  if 4 ≤ q || ((s.core (coreOf c.wp)).slotDross q).owner != some w.grp then matIll s c
  else
    match lsRangeTrap g o 1024 with
    | some y => engTrap c y
    | none =>
      if touchesPacked g o 1024 then matIll s c
      else startCmd s { cmdOf s c f .drossRd with dst := { addr := o }, ctl := BitVec.ofNat 64 (256 * q) }
        [{ lo := g.lsBase + o, n := 1024, write := true }] id) s

/-- DROSS `.clr` (R343). DEDUCED: log 62. -/
def execDrossClr (f : RWord) (s : State) := issueC (shDrossClr f) f (fun s c =>
  let w := s.warp c.wp
  let q := (w.uni f.a).toNat
  if 4 ≤ q || ((s.core (coreOf c.wp)).slotDross q).owner != some w.grp then matIll s c
  else startCmd s { cmdOf s c f .drossClr with ctl := BitVec.ofNat 64 (256 * q) } [] id) s

/-- BIN (R344). -/
def execBin (f : RWord) (s : State) := issueC (shSkim f) f (fun s c =>
  let w := s.warp c.wp
  let g := s.groupOf c.wp
  let x := (w.uni f.c).toNat
  let n := x % 2 ^ 32
  let nb := x / 2 ^ 32 % 1024 + 1
  let a := (w.uni f.a).toNat
  let o := (w.uni f.b).toNat
  if 2 ^ 48 ≤ x || 2 ^ 18 < n then matIll s c
  else
    match (engRange g { addr := a } (4 * n)).or (lsRangeTrap g o (4 * nb)) with
    | some y => engTrap c y
    | none =>
      if engPacked g { addr := a } (4 * n) || touchesPacked g o (4 * nb) then matIll s c
      else startCmd s { cmdOf s c f .bin with src := { addr := a }, dst := { addr := o }, ctl := w.uni f.c, len := n }
        ([{ lo := g.lsBase + a, n := 4 * n, write := false }, { lo := g.lsBase + o, n := 4 * nb, write := true }]
          ++ (if x / 2 ^ 47 = 1 then [{ lo := g.lsBase + o, n := 4 * nb, write := false }] else [])) id) s

/-! ### Held commands (R345, R346) -/

/-- The held command of a warp that a token register names. DEDUCED: log 109. -/
def heldCmd (k : Core) (wp token : Nat) : Option (Nat × Cmd) :=
  SMap.findWhere k.cmds (fun _ m => m.held && m.warp == wp && m.token == token)

/-- BPATCH (R345): it reads the number of the token's register, not its value, which is pending. -/
def execBpatch (f : RWord) (s : State) : Host.Outcome State Fault Refusal :=
  .next (issueWord { shBpatch with a := .unused } { f with a := 0 } false false [] (fun w g =>
      isS f.a && regOk w g.sregs f.a.toNat) (fun s c =>
    if c.act = 0 then .done s none
    else
      let w := s.warp c.wp
      let core := coreOf c.wp
      let k := s.core core
      let o := (w.uni f.b).toNat
      let mul := (w.uni f.c).toNat
      let used := (k.cmds.filter (fun p => p.2.grp == w.grp && p.2.patch.isSome)).length
      match heldCmd k c.wp (f.a.toNat - 0x100) with
      | none => matIll s c
      | some (n, m) =>
        if (decide (32 ≤ used) && m.patch.isNone) || o % 4 != 0 || decide (2 ^ 32 ≤ mul) then matIll s c
        else
          match lsRangeTrap (s.groupOf c.wp) o 4 with
          | some y => engTrap c y
          | none => .done (setCmd s core n { m with patch := some (o, mul) }) none) s)

/-! ### What a command needs before it starts (R279, R324, R342) -/

/-- Do two entries of the scoreboard order against each other (R324)? -/
def boardConflict (x y : Range) : Bool := (x.write || y.write) && decide (x.lo ≤ y.hi) && decide (y.lo ≤ x.hi)

/-- The dross slot a command works on. -/
def Cmd.slotOf? (m : Cmd) : Option Nat :=
  if m.kind = .skim ∨ m.kind = .drossRd ∨ m.kind = .drossClr then some (m.ctl.toNat / 256 % 4) else none

/-- May a command's accesses be performed: the warp's earlier ones are, and every earlier conflicting entry, operation of the
matrix unit and command on its dross slot? -/
def cmdReady (s : State) (core n : Nat) (m : Cmd) : Bool :=
  let k := s.core core
  let mine := k.board.filter (fun r => r.cmd == n && r.seq == m.seq)
  !m.held && m.req.isNone && m.err.isNone && releaseReady s m.warp m.seq m.scope
    && mine.all (fun r => !k.board.any (fun y => decide (y.seq < m.seq) && boardConflict r y))
    && mine.all (fun r => !k.mq.any (fun j => decide (j.id < m.seq) && j.ranges.any (fun x =>
        (r.write || x.write) && x.touches false (core * 2 ^ 20 + r.lo * 128) ((r.hi - r.lo + 1) * 128))))
    && (match m.slotOf? with
      | none => true
      | some q => !k.cmds.any (fun p => decide (p.2.seq < m.seq) && p.2.slotOf? == some q))

/-- A command has finished its accesses: its entries retire (R323). -/
def retire (s : State) (core n : Nat) : State :=
  let k := s.core core
  s.setCore core { k with board := k.board.filter (fun r => r.cmd != n) }

/-- The token is written and the slot is free (R316, R319, R320); a stop writes a record with the whole address. -/
def endCmd (s : State) (core n : Nat) (m : Cmd) : State :=
  let s := retire s core n
  let k := s.core core
  let s := s.setCore core { k with cmds := SMap.erase n k.cmds }
  let g := s.group m.grp
  let (s, x) := match m.err with
    | some (reason, va) =>
      (s.record { cls := 0x0C, sev := 1, die := core / 32, core := core % 32, launch := g.launch, group := g.gid, warp := slotOf m.warp,
                  addr := va, info := reason }, tokenError reason va)
    | none => (s, tokenDone m.amount)
  tryRelease (tokenWrite s m.warp m.token x) m.grp

/-! ### The engines' accesses (R279, R320, R326) -/

/-- What an access gives: its data, or a state in which the command tries again. -/
inductive EngRes (α : Type) where
  | ok (s : State) (x : α)
  | again (s : State)
  deriving Repr

/-- A byte with the poison of its granule. -/
abbrev Datum := Byte × Bool

/-- The pieces of a range line by line: address and bytes, addresses modulo 2^80. -/
def linePieces (a n : Nat) : List (Nat × Nat) :=
  if n = 0 then []
  else
    (List.range ((a % 128 + n - 1) / 128 + 1)).map (fun i =>
      let lo := max a ((a / 128 + i) * 128)
      let hi := min (a + n) ((a / 128 + i + 1) * 128)
      (lo % 2 ^ 80, hi - lo))

/-- The page-fault service is asked for a command, which waits (R256, R320). -/
def engAsk (s : State) (core n : Nat) (m : Cmd) (va : Nat) (need : Need) : State :=
  let g := s.group m.grp
  let (s, id) := askService s (.cmd core n) g.asid g.root va need
  setCmd s core n { m with req := some id }

/-- What a unit's piece of virtual memory meets: nothing, an entry that a host agent holds, a cast region that waits, or a page that
stops it, after the page-fault service has been asked or at once (R320, R326, R465). -/
inductive EngSight where
  | clear
  | busy (line : Nat)
  | waits
  | fault (ask : Bool)
  deriving DecidableEq, Repr

/-- Is a store of a line, issued before a command by its warp, still in a side log, so that the command's access of that line comes after
its replay (R279)? -/
def behindLogged (s : State) (m : Cmd) (asid va : Nat) : Bool :=
  s.cores.any (fun k => k.2.sidelog.any (fun x => x.name == s.nameOf m.warp && decide (x.id < m.seq) && x.asid == asid && x.va / 128 == va / 128))

/-- What a piece meets. A source byte in no region of a cast page, and a destination on a cast page, are not permitted (R326, R421, R465). -/
def engSee (s : State) (core : Nat) (m : Cmd) (va k : Nat) (need : Need) : State × EngSight :=
  let g := s.group m.grp
  match translate s core g.asid g.root va need with
  | (s, .busy line) => (s, .busy line)
  | (s, .fault _ _) => (s, .fault true)
  | (s, .ok _ pte) =>
    if !pteCast pte then (s, .clear)
    else if need = .write then (s, .fault false)
    else
      let at_ := (List.range k).map (fun i => regionAt s g.asid (va + i))
      if at_.contains none then (s, .fault false)
      else if at_.any (fun r => r.any (fun x => x.2.st.waits)) then (s, .waits) else (s, .clear)

/-- The pieces of a unit that it reads, and those that it writes, seen beforehand: of those that fault, the lowest decides (R320). All
come after the stores of the warp that are still to be replayed (R279). -/
def engCheck (s : State) (core n : Nat) (m : Cmd) (l : List (Nat × Nat × Need)) : EngRes Unit :=
  if l.any (fun p => behindLogged s m (s.group m.grp).asid p.1) then .again s
  else
  let (s, seen) := l.foldl (fun (acc : State × List (Nat × Need × EngSight)) p =>
    let r := engSee acc.1 core m p.1 p.2.1 p.2.2
    (r.1, acc.2 ++ [(p.1, p.2.2, r.2)])) (s, [])
  let faults := seen.filterMap (fun x => match x.2.2 with
    | .fault ask => some (x.1, x.2.1, ask)
    | _ => none)
  match seen.findSome? (fun x => match x.2.2 with
    | .busy line => some line
    | _ => none), faults with
  | some line, _ => .again (recallHost s line)
  | none, x :: r =>
    let low := r.foldl (fun b y => if y.1 < b.1 then y else b) x
    .again (if low.2.2 then engAsk s core n m low.1 low.2.1 else setCmd s core n { m with err := some (1, low.1) })
  | none, [] => if seen.any (fun x => x.2.2 == .waits) then .again s else .ok s ()

/-- The pieces of some ranges of a space, as `engCheck` takes them. -/
def engPieces (space : Nat) (need : Need) (runs : List (Nat × Nat)) : List (Nat × Nat × Need) :=
  if space = 4 then ((runs.map (fun r => linePieces r.1 r.2)).flatten).map (fun p => (p.1, p.2, need)) else []

/-- A piece of a line of virtual memory translated for a command, whose pieces have been checked: the physical line and its entry. -/
def engLine (s : State) (core n : Nat) (m : Cmd) (va k : Nat) (need : Need) : EngRes (Nat × Word) :=
  let g := s.group m.grp
  match translate s core g.asid g.root va need with
  | (s, .busy line) => .again (recallHost s line)
  | (s, .fault _ _) => .again (engAsk s core n m va need)
  | (s, .ok pa pte) => match unitLine s core (pa / 128) g.asid pte need (halvesAt (pa % 128) k) with
    | (s, true) => .ok s (pa / 128, pte)
    | (s, false) => .again s

/-- The bytes of one piece of virtual memory; on a cast page each element is evaluated as a load is (R326, R427). -/
def engPiece (s : State) (core n : Nat) (m : Cmd) (va k : Nat) : EngRes (List Datum) :=
  let g := s.group m.grp
  match engLine s core n m va k .read with
  | .again s => .again s
  | .ok s (line, pte) =>
    if pteCast pte then
      .ok s ((List.range k).map (fun i => match regionAt s g.asid (va + i) with
        | some (_, r) => castByte s r (va + i)
        | none => (0, false)))
    else
      let x := sysLine s line g.asid pte
      .ok s ((List.range k).map (fun i => (lineByte x.1 ((va + i) % 128), x.2)))

/-- An access of an engine to a vault crosses to the vault's die and back (R288). -/
def crossSpace (s : State) (core space place : Nat) : State := if space = 1 then s.crossVault core (place / 128) else s

/-- A range read in a space. -/
def engRead (s : State) (core n : Nat) (m : Cmd) (space a k : Nat) : EngRes (List Datum) :=
  if space = 4 then
    (linePieces a k).foldl (fun acc p => match acc with
      | .again s => .again s
      | .ok s l => match engPiece s core n m p.1 p.2 with
        | .again s => .again s
        | .ok s x => .ok s (l ++ x)) (.ok s [])
  else
    let p := recPlace core (s.group m.grp) space a
    .ok (crossSpace s core space p) (List.zip (recBytes s space p k) (recBad s space p k))

/-- The destination lines of some ranges made ready to be written. -/
def engProbe (s : State) (core n : Nat) (m : Cmd) (space : Nat) (runs : List (Nat × Nat)) : EngRes Unit :=
  if space ≠ 4 then .ok s ()
  else
    ((runs.map (fun r => linePieces r.1 r.2)).flatten).foldl (fun acc p => match acc with
      | .again s => .again s
      | .ok s _ => match engLine s core n m p.1 p.2 .write with
        | .again s => .again s
        | .ok s _ => .ok s ()) (.ok s ())

/-- Runs of virtual memory as they lie in lines: the line, with the place in it, of each byte. -/
def runBytes (runs : List (Nat × List Datum)) : List (Nat × Nat × Datum) :=
  (runs.map (fun r => r.2.zipIdx.map (fun d =>
    let a := (r.1 + d.2) % 2 ^ 80
    (a / 128, a % 128, d.1)))).flatten

/-- Runs written in a space as one write (R98): lines of virtual memory are translated, and each is written once (R326, R279). Poisoned
data poisons its granules (R99). -/
def engWrites (s : State) (core : Nat) (m : Cmd) (space : Nat) (runs : List (Nat × List Datum)) : State :=
  let g := s.group m.grp
  if space = 4 then
    let bytes := runBytes runs
    ((bytes.map Prod.fst).dedup).foldl (fun s vline =>
      match translate s core g.asid g.root (vline * 128) .write with
      | (s, .ok pa pte) =>
        let part := (bytes.filter (fun x => x.1 == vline)).map Prod.snd
        let data := part.foldl (fun (x : Line) d => lineSet x d.1 d.2.1) 0
        sysStore s (pa / 128) data (maskOf (part.map Prod.fst)) (part.any (fun d => d.2.2)) g.asid pte (some core)
      | (s, _) => s) s
  else
    let at_ := runs.map (fun r => (recPlace core g space r.1, r.2))
    let s := at_.foldl (fun s r => recPut (crossSpace s core space r.1) space r.1 (r.2.map Prod.fst)) s
    let bad := (at_.map (fun r => (r.2.zipIdx.filter (fun d => d.1.2)).map (fun d => (r.1 + d.2) / 128))).flatten
    recPoison s space (at_.map (fun r => (r.1, r.2.length))) bad.dedup

/-- A range written in a space. -/
def engWrite (s : State) (core : Nat) (m : Cmd) (space a : Nat) (l : List Datum) : State := engWrites s core m space [(a, l)]

def spaceCode (x : Space) : Nat :=
  match x with
  | .ls => 0
  | .vault => 1
  | .virt => 4

/-! ### COPY_UNIT_LAND (R326, R330, R335) -/

/-- Bytes reported to a command's gate (R335). DEDUCED: log 67. -/
def report (s : State) (core : Nat) (m : Cmd) (n : Nat) : State :=
  match m.gate with
  | some code => gateSaw (gateEvent s core code false n) core code (m.seq + 1)
  | none => s

/-- May a command report to its gate in this cycle (R416)? -/
def reportTurn (k : Core) (m : Cmd) : Bool :=
  match m.gate with
  | some code => gateTurn k code (m.seq + 1)
  | none => true

/-- One unit of CPY: at most one aligned line of the destination (R326). -/
def cpyUnit (s : State) (core n : Nat) (m : Cmd) : State :=
  let d := (m.dst.addr + m.done) % 2 ^ 80
  let a := (m.src.addr + m.done) % 2 ^ 80
  let k := min (m.len - m.done) (128 - d % 128)
  let space := spaceCode m.dst.space
  match engCheck s core n m (engPieces (spaceCode m.src.space) .read [(a, k)] ++ engPieces space .write [(d, k)]) with
  | .again s => s
  | .ok s _ =>
    match engRead s core n m (spaceCode m.src.space) a k with
    | .again s => s
    | .ok s l =>
      match engProbe s core n m space [(d, k)] with
      | .again s => s
      | .ok s _ =>
        let s := engWrite s core m space d l
        let s := report s core m k
        let m := { m with done := m.done + k, amount := m.amount + k, finished := decide (m.done + k = m.len) }
        let s := setCmd s core n m
        if m.finished then retire s core n else s

/-- The place of an element's codes in a line, with poison: its code and whether a granule of it is poisoned. -/
def sideCodes (r : MRec) (l : List Datum) : List (Nat × Bool) :=
  let bytes := l.map Prod.fst
  let bad := l.map Prod.snd
  let x := natOfBytes bytes
  (List.range r.minor).map (fun b =>
    let code :=
      if r.fmt = 8 then planeValue (fun i => ((bytes[128 * (b / 128) + i]?).getD 0).toNat) 8 (b % 128)
      else codeIn r.width x b % 2 ^ fmtWidth r.fmt
    (code, ({ r with scaled := false } : MRec).elemBad bad (List.replicate (2 * r.blocks) false) b))

/-- What CPYT makes of an element's code (R331). -/
def cpytCode (a : MRec) (x : Nat) : Nat := if a.fmt = 8 then wrapTo 8 (planeMid a.planes x) else x

/-- The bytes of a line of codes, each byte with the poison of the elements it holds. -/
def sideLine (r : MRec) (l : List (Nat × Bool)) : List Datum :=
  if r.fmt = 8 then
    ((List.range (r.minor / 128)).map (fun u =>
      let q (i : Nat) : Nat := ((l[128 * u + i]?).getD (0, false)).1
      let bad := ((l.drop (128 * u)).take 128).any Prod.snd
      (List.range 128).map (fun b => (BitVec.ofNat 8 (planeByte q b), bad)))).flatten
  else
    let w := r.width
    let bytes := bytesOfNat r.len (l.zipIdx.foldl (fun acc x => acc + x.1.1 % 2 ^ w * 2 ^ (w * x.2)) 0)
    bytes.zipIdx.map (fun b => (b.1, (List.range r.minor).any (fun i =>
      decide (w * i < 8 * b.2 + 8) && decide (8 * b.2 < w * i + w) && ((l[i]?).getD (0, false)).2)))

/-- Several ranges read. -/
def engReads (s : State) (core n : Nat) (m : Cmd) (space : Nat) (runs : List (Nat × Nat)) : EngRes (List (List Datum)) :=
  runs.foldl (fun acc p => match acc with
    | .again s => .again s
    | .ok s l => match engRead s core n m space p.1 p.2 with
      | .again s => .again s
      | .ok s x => .ok s (l ++ [x])) (.ok s [])

/-- A packed row: the tags of its sectors and its data (R328, R332). -/
def packRow (l : List Byte) : Nat × List Byte :=
  (List.range 4).foldl (fun acc i =>
    let sector := (l.drop (32 * i)).take 32
    let word := sector.take 4
    let tag := if sector.all (fun b => b == 0) then 0 else if sector == (List.replicate 8 word).flatten then 2 else 1
    (acc.1 + tag * 4 ^ i, acc.2 ++ (if tag = 0 then [] else if tag = 2 then word else sector))) (0, [])

/-- A tile written into a packed area: its rows, then its table; none when the rows do not fit the slot (R332). -/
def packTile (s : State) (core : Nat) (m : Cmd) (r : MRec) (st : Nat) (lines : List (List Datum)) : Option (State × Nat) :=
  match packedArea (s.group m.grp) r.base with
  | none => none
  | some (t, sz) =>
    let i := (r.tileAt st).toNat
    let rows := lines.map (fun l => (packRow (l.map Prod.fst), l.any Prod.snd))
    let data := (rows.map (fun x => x.1.2.map (fun b => (b, x.2)))).flatten
    let entries := (rows.foldl (fun (acc : Nat × List Datum) x =>
      (acc.1 + x.1.2.length, acc.2 ++ (bytesOfNat 4 (acc.1 * 256 + x.1.1)).map (fun b => (b, x.2)))) (0, [])).2
    if sz < data.length then none
    else
      let s := engWrite s core m 0 (r.base + 128 + 256 * t + sz * i) data
      some (engWrite s core m 0 (r.base + 128 + 256 * i) entries, data.length + 256)

/-- One tile of CPYT, whose pieces have been checked (R330 to R332): its lines and its scales are one write. -/
def cpytTile (s : State) (core n : Nat) (m : Cmd) : State :=
  let d := m.dstSide
  let a := m.srcSide
  let i := m.done
  let scales := copiesScales d a
  let src : EngRes (List (List Datum)) :=
    if a.packed then
      match packedArea (s.group m.grp) a.base with
      | some (t, sz) => .ok s ((List.range 64).map (fun row =>
          let x := packedRow s core (s.group m.grp) a.base t sz (a.tileAt i).toNat row
          List.zip x.1 x.2))
      | none => .ok s []
    else engReads s core n m a.space (sideRuns a i)
  match src with
  | .again s => s
  | .ok s lines =>
    match (if scales then engReads s core n m a.space (scaleRuns a i) else .ok s []) with
    | .again s => s
    | .ok s sc =>
      let out := lines.map (fun l => sideLine d ((sideCodes a l).map (fun x => (cpytCode a x.1, x.2))))
      let runs := (if d.packed then [] else sideRuns d i) ++ (if scales then scaleRuns d i else [])
      match engProbe s core n m d.space runs with
      | .again s => s
      | .ok s _ =>
        let done (s : State) (bytes : Nat) : State :=
          let s := engWrites s core m d.space
            ((if d.packed then [] else (List.zip (sideRuns d i) out).map (fun x => (x.1.1, x.2)))
              ++ (if scales then (List.zip (scaleRuns d i) sc).map (fun x => (x.1.1, x.2)) else []))
          let bytes := bytes + (if scales then d.major * d.blocks * d.scaleSize else 0)
          let s := report s core m bytes
          let m := { m with done := i + 1, amount := m.amount + bytes, finished := decide (i + 1 = m.len), holds := cpytHolds m (i + 1) }
          let s := setCmd s core n m
          if m.finished then retire s core n else s
        if d.packed then
          match packTile s core m d i out with
          | none => setCmd s core n { m with err := some (2, 0) }
          | some (s, bytes) => done s bytes
        else done s (d.major * d.len)

/-- One tile of CPYT (R330 to R332). -/
def cpytUnit (s : State) (core n : Nat) (m : Cmd) : State :=
  let d := m.dstSide
  let a := m.srcSide
  let runs (r : MRec) : List (Nat × Nat) :=
    (if r.packed then [] else sideRuns r m.done) ++ (if copiesScales d a then scaleRuns r m.done else [])
  match engCheck s core n m (engPieces a.space .read (runs a) ++ engPieces d.space .write (runs d)) with
  | .again s => s
  | .ok s _ => cpytTile s core n m

/-- COPY_UNIT_LAND (R326, R335): one unit of a CPY, or one tile of a CPYT, is read and written, and reports to its gate. -/
def execCopyUnitLand (core cmd : Nat) (s : State) : Host.Outcome State Fault Refusal :=
  match (s.core core).cmd cmd with
  | none => .next s
  | some m =>
    if !cmdReady s core cmd m || m.finished || decide (m.len ≤ m.done) || !reportTurn (s.core core) m then .next s
    else if m.kind = .cpy then .next (cpyUnit s core cmd m)
    else if m.kind = .cpyt then .next (cpytUnit s core cmd m)
    else .next s

/-! ### ENGINE_COMMAND_COMPLETE (R319, R341 to R344) -/

/-- The first k of the indices of a list of keys by size, the larger first, ties to the lower index. -/
def topIndices : Nat → List (Nat × Nat) → List Nat
  | 0, _ => []
  | _, [] => []
  | k + 1, x :: r =>
    let best := r.foldl (fun b y => if b.1 < y.1 then y else b) x
    best.2 :: topIndices k ((x :: r).filter (fun y => y.2 != best.2))

/-- SKIM performed (R341, R342). What it keeps in a dross slot carries no poison. DESIGN CHOICE: log 135. -/
def skimBody (s : State) (core : Nat) (m : Cmd) : State × Nat :=
  let g := s.group m.grp
  let k := s.core core
  let ctl := m.ctl.toNat
  let q := ctl / 256 % 4
  let cnt := ctl % 128
  let wide := m.ctl.getLsbD 10
  let sz := if m.len = 1024 then 4 else 2
  let p := recPlace core g 0 m.src.addr
  let raw := recBytes s 0 p m.len
  let bad := (recBad s 0 p m.len).contains true
  let slot := k.slotDross q
  let v := (List.range 256).map (fun i =>
    let x := field raw (sz * i) sz
    (f32.add rne false (if sz = 2 then x * 2 ^ 16 else x) (SMap.look 0 slot.val i).toNat).1)
  let kept := topIndices cnt (v.zipIdx.map (fun x => (min (x.1 % 2 ^ 31) 0x7F800001, x.2)))
  let val (i : Nat) : Nat := (v[i]?).getD 0
  let out := (kept.map (fun i =>
    if wide then bytesOfNat 8 (i + val i * 2 ^ 32) else bytesOfNat 4 (i + (f32.convert bf16 rne false (val i)).1 * 2 ^ 16))).flatten
  let left := (List.range 256).filterMap (fun i =>
    let x := if kept.contains i then 0 else BitVec.ofNat 32 (val i)
    if x = 0 then none else some (i, x))
  let s := s.setCore core { k with dross := SMap.set q { owner := some m.grp, val := left } k.dross }
  let s := engWrite s core m 0 m.dst.addr (out.map (fun b => (b, bad)))
  (report s core m out.length, cnt)

/-- BIN performed (R344). -/
def binBody (s : State) (core : Nat) (m : Cmd) : State × Nat :=
  let g := s.group m.grp
  let ctl := m.ctl.toNat
  let nb := ctl / 2 ^ 32 % 1024 + 1
  let shift := ctl / 2 ^ 42 % 32
  let acc := decide (ctl / 2 ^ 47 % 2 = 1)
  let p := recPlace core g 0 m.src.addr
  let o := recPlace core g 0 m.dst.addr
  let keys := recBytes s 0 p (4 * m.len)
  let bad := (recBad s 0 p (4 * m.len)).contains true
  let old := recBytes s 0 o (4 * nb)
  let oldBad := recBad s 0 o (4 * nb)
  let start := (List.range nb).map (fun j => if acc then field old (4 * j) 4 else 0)
  let cnt := (List.range m.len).foldl (fun (l : List Nat) i => l.modify (field keys (4 * i) 4 / 2 ^ shift % nb) (· + 1)) start
  let out := (cnt.map (fun x => bytesOfNat 4 x)).flatten
  (engWrite s core m 0 m.dst.addr (out.zipIdx.map (fun b => (b.1, bad || (acc && (oldBad[b.2]?).getD false)))), m.len)

/-- The body of a command that is performed as one event, and its amount. -/
def cmdBody (s : State) (core n : Nat) (m : Cmd) : State × Nat :=
  let k := s.core core
  let q := m.ctl.toNat / 256 % 4
  match m.kind with
  | .skim => skimBody s core m
  | .bin => binBody s core m
  | .drossRd =>
    let out := ((List.range 256).map (fun i => bytesOfNat 4 (SMap.look 0 (k.slotDross q).val i).toNat)).flatten
    (engWrite s core m 0 m.dst.addr (out.map (fun b => (b, false))), 1024)
  | .drossClr =>
    let later := k.cmds.any (fun p => p.1 != n && p.2.grp == m.grp && p.2.slotOf? == some q)
    (s.setCore core { k with dross := if later then SMap.set q { owner := some m.grp } k.dross else SMap.erase q k.dross }, 0)
  | .pinit =>
    let out := bytesOfNat 4 m.len ++ bytesOfNat 4 m.ctl.toNat ++ List.replicate (120 + 256 * m.len) 0
    (engWrite s core m 0 m.dst.addr (out.map (fun b => (b, false))), out.length)
  | _ => (s, 0)

/-- ENGINE_COMMAND_COMPLETE (R319): a command that has stopped, or whose copy is done, writes its token; the others are performed
first. -/
def execEngineCommandComplete (core cmd : Nat) (s : State) : Host.Outcome State Fault Refusal :=
  match (s.core core).cmd cmd with
  | none => .next s
  | some m =>
    if m.held ∨ (m.kind = .launch ∧ m.err.isNone ∧ !m.finished) then .next s
    else if m.err.isSome || m.kind == .launch then .next (endCmd s core cmd m)
    else if m.kind = .cpy ∨ m.kind = .cpyt then
      if m.finished || (decide (m.len ≤ m.done) && cmdReady s core cmd m) then .next (endCmd s core cmd m) else .next s
    else if !cmdReady s core cmd m || !reportTurn (s.core core) m then .next s
    else
      let r := cmdBody s core cmd m
      .next (endCmd r.1 core cmd { m with amount := r.2 })

end Sys2Proof.Machine
end

