-- ==== Sys2Proof/Machine/Queues.lean ====
section
/-! DEFINITION. Launch packets, launches and the hardware task queues (R349 to R356). -/

namespace Sys2Proof.Machine

/-! ### Packets (R349, R350) -/

/-- A packet's fields. DEDUCED: log 65. -/
def readPacket (b : List Byte) : Packet :=
  { entryPc := field b 0x00 4, entryPrio := field b 0x04 1, warps := field b 0x05 1, threads := field b 0x06 1, stages := field b 0x07 1
    stagemap := (List.range 8).map (fun i => field b (0x08 + i) 1)
    gx := field b 0x10 4 + 1, gy := field b 0x14 4 + 1, gz := field b 0x18 4 + 1
    regs := field b 0x1C 2, sregs := field b 0x1E 1, flags := field b 0x1F 1, localsize := field b 0x20 4, agelim := field b 0x24 2 + 1
    vslots := field b 0x26 2, carryV := (List.range 16).map (fun i => field b (0x28 + i) 1), carryS := field b 0x38 8
    clsOff := field b 0x40 4, clsSize := field b 0x44 4, grant := field b 0x48 32
    codeBase := field b 0x68 16, dataBase := field b 0x78 16, args := field b 0x88 16
    counter := field b 0x98 16, root := field b 0xA8 8, asid := field b 0xB0 2
    trapvec := field b 0xB8 8, regen := field b 0xC0 16, save := field b 0xD0 16 }

def Packet.groups (p : Packet) : Nat := p.gx * p.gy * p.gz
def Packet.fair (p : Packet) : Bool := p.flags % 2 = 1
def Packet.priv (p : Packet) : Bool := p.flags / 2 % 2 = 1

/-- Are the reserved bytes of a packet 0: the unnamed ones, and those above each VA's 80 bits? DEDUCED: log 73. -/
def packetReserved (b : List Byte) : Bool :=
  ([(0xB2, 6), (0xE0, 32), (0x72, 6), (0x82, 6), (0x92, 6), (0xA2, 6), (0xCA, 6), (0xDA, 6)] : List (Nat × Nat)).all
    (fun x => field b x.1 x.2 == 0)

/-- Does a packet keep to R350? -/
def packetOk (b : List Byte) : Bool :=
  let p := readPacket b
  let used := p.stagemap.take p.stages
  decide (1 ≤ p.warps) && decide (p.warps ≤ 16) && decide (1 ≤ p.threads) && decide (p.threads ≤ 128)
    && decide (1 ≤ p.stages) && decide (p.stages ≤ 8)
    && decide (used.foldl (· + ·) 0 = p.warps) && (p.stagemap.drop p.stages).all (fun c => c == 0)
    && decide (p.groups ≤ 2 ^ 32) && p.regs % 8 == 0 && decide (8 ≤ p.regs) && decide (p.regs ≤ 256)
    && decide (8 ≤ p.sregs) && decide (p.sregs ≤ 64) && decide (p.flags < 8)
    && decide (p.localsize ≤ 2 ^ 20) && p.localsize % 128 == 0 && decide (p.vslots ≤ 256)
    && p.carryV.all (fun v => v == 255 || decide (v < p.regs))
    && decide (popcount (BitVec.ofNat 64 p.carryS) ≤ 8) && decide (p.carryS < 2 ^ p.sregs)
    && p.clsOff % 128 == 0 && p.clsSize % 128 == 0 && decide (p.clsSize ≤ 65536) && decide (p.clsOff + p.clsSize ≤ p.localsize)
    && decide (p.vslots ≤ popcount (BitVec.ofNat 256 p.grant)) && decide (p.warps * p.regs ≤ 1024) && packetReserved b

/-! ### Queues (R354, R355) -/

/-- How many ordinary and reserve entries a queue holds. -/
def Queue.ordinary (q : Queue) : Nat := (q.entries.filter (fun e => !e.reserve)).length
def Queue.reserved (q : Queue) : Nat := (q.entries.filter (fun e => e.reserve)).length

/-- Has a queue a free ordinary entry; any free entry? -/
def Queue.room (q : Queue) : Bool := decide (q.ordinary < 64)
def Queue.anyRoom (q : Queue) : Bool := q.room || decide (q.reserved < 16)

/-- An entry takes its pool: an ordinary one when one is free, else a reserve one (R354). -/
def Queue.pooled (q : Queue) (e : QEntry) : QEntry := { e with reserve := !q.room }

/-- An entry appended to a queue; put at its head. -/
def appendEntry (s : State) (d q : Nat) (e : QEntry) : State :=
  let x := s.queue d q
  s.setQueue d q (x.write (x.entries ++ [{ x.pooled e with since := s.cycle }]))
def prependEntry (s : State) (d q : Nat) (e : QEntry) : State :=
  let x := s.queue d q
  s.setQueue d q (x.write ({ x.pooled e with since := s.cycle } :: x.entries))

/-! ### Launches (R351) -/

/-- A LAUNCHID that a die gives: a sequence number that no live launch of the die holds. -/
def freshLaunch (s : State) (d : Nat) : Nat :=
  let at_ (k : Nat) : Nat := d * 2 ^ 29 + ((s.die d).seq + k) % 2 ^ 29
  at_ (((List.range (s.launches.length + 1)).find? (fun k => !SMap.has s.launches (at_ k))).getD 0)

/-- A launch accepted: its packet is copied, and its entry joins its queue (R350, R351, R354). -/
def acceptLaunch (s : State) (d q : Nat) (bytes : List Byte) (mk : Launch → Launch) (node : Option Nat) : State × Nat :=
  let id := freshLaunch s d
  let die := s.die d
  let p := readPacket bytes
  let s := s.setDie d { die with seq := (id % 2 ^ 29 + 1) % 2 ^ 29 }
  let s := s.setLaunch id (mk { bytes := bytes, qdie := d, queue := q })
  (appendEntry s d q { kind := 1, priv := p.priv, graph := node.isSome, originQ := q, originDie := d, launch := id, node := node.getD 0 }, id)

/-- A live launch's packet. -/
def packetOf (s : State) (l : Nat) : Packet := readPacket (s.launch l).bytes

/-- Has a launch still groups or phases that are not finished (R353): not dispatched, resident, or saved? -/
def launchBusy (s : State) (l : Nat) : Bool :=
  s.groups.any (fun g => g.2.launch == l)
    || s.queues.any (fun q => q.2.entries.any (fun e => decide (1 ≤ e.kind) && decide (e.kind ≤ 3) && e.launch == l))
    || s.dies.any (fun d => d.2.phases.any (fun e => e.launch == l))

/-- Has a launch stores that are not performed (R353, R378)? -/
def launchStores (s : State) (l : Nat) : Bool :=
  s.cores.any (fun k => k.2.sidelog.any (fun x => x.launch == l) || k.2.stores.any (fun x => x.launch == l))

end Sys2Proof.Machine
end

