-- ==== Sys2Proof/Machine/Tasks.lean ====
section
/-! DEFINITION. Class 9: barriers, phases, carry sets, register blocks, enqueue and launch, condition words, counter waits,
migrations and bind records (R361 to R382); and ERLS, which starts held commands (R346). -/

namespace Sys2Proof.Machine

/-- A class 9 word acts once for the warp (R361). -/
def issueT (sh : Shape) (f : RWord) (body : State → Ctx → Eff) (s : State) : Host.Outcome State Fault Refusal :=
  issueR sh f (fun s c => if c.act = 0 then .done s none else body s c) s

/-- The result of ENQ, MIGR and BIND: an s register and the latch. -/
def taskResult (s : State) (c : Ctx) (f : RWord) (x : Word) : Eff :=
  let w := s.warp c.wp
  .done (s.setWarp c.wp (if f.w then w else w.setS (f.dst.toNat - 0x100) x)) (some (.uniform x))

/-! ### Barriers and phases (R363, R364, R368) -/

/-- A split waits at a barrier of its group. -/
def waitBar (s : State) (c : Ctx) (b count : Nat) : Eff := waitAt s c (.bar b count) c.sp.pc

/-- BAR (R363). -/
def execBar (f : RWord) (s : State) := issueT shUni2 f (fun s c =>
  let w := s.warp c.wp
  let a := (w.uni f.a).toNat
  let n := (w.uni f.b).toNat % 32
  let l := arrivals s w.grp a
  if 16 ≤ a || 16 < n || (joinedCount s w.grp a l.length l).any (· != n) then matIll s c
  else waitBar s c a n) s

/-- Does a warp hold a held command (R364)? -/
def holdsCmd (k : Core) (wp : Nat) : Bool := k.cmds.any (fun p => p.2.held && p.2.warp == wp)

/-- Is a warp's carry set inside its allocation (R364)? -/
def carryOk (w : Warp) (sregs : Nat) : Bool :=
  w.carryV.all (fun v => v == 255 || w.alloc.getLsbD (v / 8)) && decide (w.carryS.toNat < 2 ^ sregs)

/-- PHASE (R364). -/
def execPhase (f : RWord) (s : State) := issueT {} f (fun s c =>
  let w := s.warp c.wp
  if holdsCmd (s.core (coreOf c.wp)) c.wp || !carryOk w (s.groupOf c.wp).sregs then matIll s c
  else waitBar s c 16 0) s

/-- CARRY `.regs` (R368). -/
def execCarryRegs (f : RWord) (s : State) := issueT shCarryRegs f (fun s c =>
  let w := s.warp c.wp
  let m := w.uni f.c
  if 8 < popcount m ∨ 2 ^ (s.groupOf c.wp).sregs ≤ m.toNat then matIll s c
  else
    let l := bytesOfNat 8 (w.uni f.a).toNat ++ bytesOfNat 8 (w.uni f.b).toNat
    .done (s.setWarp c.wp { w with carryV := l.map (·.toNat), carryS := m }) none) s

/-- CARRY `.ls` (R368). -/
def execCarryLs (f : RWord) (s : State) := issueT shCarryLs f (fun s c =>
  let w := s.warp c.wp
  let g := s.groupOf c.wp
  let x := (w.uni f.a).toNat
  let off := x % 2 ^ 20
  let n := x / 2 ^ 20
  if 2 ^ 17 ≤ n ∨ off % 128 ≠ 0 ∨ n % 128 ≠ 0 ∨ 65536 < n ∨ g.lsSize < off + n then matIll s c
  else .done (s.setGroup w.grp { g with carryOff := off, carrySize := n }) none) s

/-! ### Register blocks (R369, R370) -/

/-- The registers of some blocks. -/
def blockRegs (m : BitVec 32) : List Nat :=
  ((List.range 32).filter (fun b => m.getLsbD b)).map (fun b => (List.range 8).map (fun i => 8 * b + i)) |>.flatten

/-- The registers of some blocks are every one 0. -/
def Warp.clearBlocks (w : Warp) (m : BitVec 32) : Warp := { w with v := SMap.keep w.v (fun n _ => !m.getLsbD (n / 8)) }

/-- VGIVE (R369). -/
def execVgive (f : RWord) (s : State) := issueT { a := .uni } f (fun s c =>
  let w := s.warp c.wp
  let g := s.groupOf c.wp
  let x := w.uni f.a
  let m : BitVec 32 := x.setWidth 32
  if 2 ^ 32 ≤ x.toNat || m &&& ~~~ w.alloc != 0 then matIll s c
  else if mustWait s c.wp (blockRegs m) then .hold
  else
    let s := s.setGroup w.grp { g with pool := g.pool + popcount m }
    .done (s.setWarp c.wp { w.clearBlocks m with alloc := w.alloc &&& ~~~ m }) none) s

/-- VCLAIM (R370): it takes its place in the group's order and waits to be first, with the pool holding its blocks. DEDUCED: log 71. -/
def execVclaim (f : RWord) (s : State) := issueT { a := .uni } f (fun s c =>
  let w := s.warp c.wp
  let g := s.groupOf c.wp
  let x := w.uni f.a
  let m : BitVec 32 := x.setWidth 32
  let n := w.claim.getD g.claimNext
  let first := g.warps.all (fun wp => (s.warp wp).claim.all (fun k => decide (n ≤ k)))
  if 2 ^ 32 ≤ x.toNat || m &&& w.alloc != 0 then matIll s c
  else if m = 0 then .done (s.setWarp c.wp { w with claim := none }) none
  else
    let g := if w.claim.isSome then g else { g with claimNext := g.claimNext + 1 }
    if first && decide (popcount m ≤ g.pool) then
      let s := s.setGroup w.grp { g with pool := g.pool - popcount m }
      .done (s.setWarp c.wp { w.clearBlocks m with alloc := w.alloc ||| m, claim := none }) none
    else .stay ((s.setGroup w.grp g).setWarp c.wp { w with claim := some n })) s

/-! ### Reads of a warp for itself (R256, R371, R380) -/

/-- What a read gives: the bytes, or what comes of the instruction. -/
inductive WarpRead where
  | eff (e : Eff)
  | ok (s : State) (x : List Datum)
  deriving Repr

/-- A read of n bytes by a warp, of virtual memory under warp-disable (R256). -/
def warpRead (s : State) (c : Ctx) (va n : Nat) : WarpRead :=
  let core := coreOf c.wp
  let g := s.groupOf c.wp
  let k := s.core core
  let t := lowest c.sp.mask
  let ps : List Piece := (linePieces va n).map (fun p => { lane := t, va := p.1, pos := 0, n := p.2 })
  let lines := pieceLines ps
  if acquirePending k c.wp || lines.any (heldLine s c.wp g.asid) then .eff .hold
  else
    let (s, m) := translateLines s core g .read (fun _ => none) lines
    match busyLine m with
    | some line => .eff (.stay (recallHost s line))
    | none =>
      match raiseFaults s c g .read (laneFaults s g.asid m false ps) with
      | some (.trap cause info _) => .eff (.trap cause info c.sp.mask)
      | some e => .eff e
      | none =>
        match waitingRegion s g.asid m ps with
        | some x => .eff (.stay (waitRegion s c.wp x))
        | none =>
          let plain := ps.filterMap (fun p => match lineRes m (p.va / 128) with
              | .at line pte => if pteCast pte then none else some (line, pte, halvesAt (p.va % 128) p.n)
              | _ => none)
          if plain.any (fun x => engineHolds s x.1 s.nextId) then .eff (.stay s)
          else
          match plain.find? (fun x => lineBusy s x.1 x.2.2) with
          | some x => .eff (.stay (recallHost s x.1 x.2.2))
          | none =>
            let s := plain.foldl (fun s x => (unitReady s x.1 g.asid x.2.1).visit core x.1) s
            .ok s ((ps.map (fun p => (List.range p.n).map (fun i =>
              match lineRes m (p.va / 128) with
              | .at line pte =>
                if pteCast pte then
                  (match regionAt s g.asid (p.va + i) with
                    | some (_, r) => castByte s r (p.va + i)
                    | none => (0, false))
                else
                  let x := sysLine s line g.asid pte
                  (lineByte x.1 ((p.va + i) % 128), x.2)
              | _ => (0, false)))).flatten)

/-! ### Enqueue and launch (R371, R372) -/

/-- What follows the packet that ENQ or LAUNCH reads: the release at its scope first, then the read (R371), then PRIVILEGE for a
privileged packet in user state. -/
def withPacket (s : State) (c : Ctx) (f : RWord) (go : State → List Byte → Eff) : Eff :=
  let w := s.warp c.wp
  if 2 ^ 11 ≤ (w.uni f.a).toNat then matIll s c
  else if !releaseReady s c.wp s.nextId f.scope then .hold
  else
    match warpRead s c (w.areg f.b).toNat 256 with
    | .eff e => e
    | .ok s x =>
      let b := x.map Prod.fst
      if x.any Prod.snd then .done (poisonFault s c.wp c.sp.pc ((w.areg f.b).toNat)) none
      else if (readPacket b).priv && !w.sup then .trap .privilege (c.sp.pc.setWidth 64) c.sp.mask
      else go s b

/-- The die and the queue of a queue operand. -/
def queueDie (x : Word) : Nat := x.toNat / 256 % 8
def queueNo (x : Word) : Nat := x.toNat % 256

/-- ENQ (R371). DEDUCED: log 66. -/
def execEnq (f : RWord) (s : State) := issueT (shEnq f) f (fun s c => withPacket s c f (fun s b =>
  let q := (s.warp c.wp).uni f.a
  if !packetOk b then taskResult s c f 2
  else if !(s.queue (queueDie q) (queueNo q)).room then taskResult s c f 1
  else taskResult (acceptLaunch (s.meet (dieOf c.wp) (queueDie q)) (queueDie q) (queueNo q) b id none).1 c f 0)) s

/-- A token written at once by a command that ends where it would start: with its error's record, or with an amount (R320,
R372). -/
def tokenAtOnce (s : State) (c : Ctx) (token reason : Nat) : State :=
  let g := s.groupOf c.wp
  let s := s.record { cls := 0x0C, sev := 1, die := dieOf c.wp, core := coreOf c.wp % 32, launch := g.launch, group := g.gid,
                      warp := slotOf c.wp, info := reason }
  tokenWrite s c.wp token (tokenError reason 0)

/-- LAUNCH (R372). -/
def execLaunch (f : RWord) (s : State) := issueT (shLaunch f) f (fun s c => withPacket s c f (fun s b =>
  let w := s.warp c.wp
  let q := w.uni f.a
  let core := coreOf c.wp
  let token := f.dst.toNat - 0x100
  if !packetOk b then .done (tokenAtOnce s c token 6) none
  else if !(s.queue (queueDie q) (queueNo q)).room then .done (tokenAtOnce s c token 5) none
  else
    match freeSlot (s.core core) w.grp with
    | none => .hold
    | some slot =>
      let m : Cmd := { cmdOf s c f .launch with held := f.mod 2 2 = 1, packet := b, ctl := q }
      if m.held then .done (placeCmd s slot m []) none
      else
        let (s, id) := acceptLaunch (s.meet (dieOf c.wp) (queueDie q)) (queueDie q) (queueNo q) b (fun l => { l with token := some (core, slot) }) none
        .done (placeCmd s slot { m with child := some id } []) none)) s

/-! ### ERLS (R346) -/

/-- A field of a packet replaced. -/
def packetWith (b : List Byte) (off : Nat) (x : List Byte) : List Byte := b.take off ++ x ++ b.drop (off + x.length)

/-- A released command's length, from its patch if it has one: none while the count is still to be written (R345, R346). DEDUCED: log 57. -/
def patchedLength (s : State) (core : Nat) (m : Cmd) (old : Nat) : Option Nat :=
  match m.patch with
  | none => some old
  | some (o, mul) =>
    let k := s.core core
    let g := s.group m.grp
    let at_ := g.lsBase + o
    if k.board.any (fun r => r.write && decide (r.lo ≤ at_ / 128) && decide (at_ / 128 ≤ r.hi))
        || matWait k m.warp false (recPlace core g 0 o) 4 false then none
    else some (natOfBytes (recBytes s 0 (recPlace core g 0 o) 4) * mul)

/-- A held command is released: it starts, or it stops at once with reason 3 or 5; none while it has to wait (R346, R372). -/
def releaseCmd (s : State) (core n : Nat) (m : Cmd) : Option State :=
  let g := s.group m.grp
  let (id, s) := s.takeId
  let m := { m with held := false, seq := id }
  let stop (reason : Nat) : Option State := some (setCmd s core n { m with err := some (reason, 0) })
  let start (m : Cmd) (spans : List Span) : Option State :=
    let k := s.core core
    let l := spanEntries spans n id
    if 32 < k.board.length + l.length then none
    else some (s.setCore core { k with cmds := SMap.set n m k.cmds, board := k.board ++ l })
  match m.kind with
  | .cpy =>
    (patchedLength s core m m.len).bind (fun len =>
      if 2 ^ 32 ≤ len || ((engRange g m.dst len).or (engRange g m.src len)).isSome || engPacked g m.dst len || engPacked g m.src len then stop 3
      else start { m with len := len } (engSpan g m.dst len true ++ engSpan g m.src len false))
  | .launch =>
    let p := readPacket m.packet
    (patchedLength s core m p.gx).bind (fun x =>
      let q := s.queue (queueDie m.ctl) (queueNo m.ctl)
      if x = 0 then some (setCmd s core n { m with finished := true })
      else if 2 ^ 32 < x * p.gy * p.gz then stop 3
      else if !q.room then stop 5
      else
        let b := packetWith m.packet 0x10 (bytesOfNat 4 (x - 1))
        let (s, l) := acceptLaunch (s.meet (core / 32) (queueDie m.ctl)) (queueDie m.ctl) (queueNo m.ctl) b (fun l => { l with token := some (core, n) }) none
        some (setCmd s core n { m with packet := b, child := some l }))
  | _ => start m []

/-- The held commands of a warp in issue order. -/
def heldCmds (k : Core) (wp : Nat) : List (Nat × Cmd) :=
  let l := k.cmds.filter (fun p => p.2.held && p.2.warp == wp)
  l.foldl (fun acc p => acc.takeWhile (fun q => decide (q.2.seq < p.2.seq)) ++ [p] ++ acc.dropWhile (fun q => decide (q.2.seq < p.2.seq))) []

/-- The held commands released one after another, up to one that has to wait. -/
def releaseAll (s : State) (core : Nat) : List (Nat × Cmd) → State × Bool
  | [] => (s, true)
  | p :: r =>
    if !releaseReady s p.2.warp s.nextId p.2.scope then (s, false)
    else
      match releaseCmd s core p.1 p.2 with
      | none => (s, false)
      | some s => releaseAll s core r

/-- ERLS (R346): it starts the warp's held commands in issue order, each as a release at its scope (R322). -/
def execErls (f : RWord) (s : State) := issueE {} f (fun s c =>
  match releaseAll s (coreOf c.wp) (heldCmds (s.core (coreOf c.wp)) c.wp) with
  | (s, true) => .done s none
  | (s, false) => .stay s) s

/-! ### Condition words and counters (R379, R380) -/

/-- GCOND (R379): a release at `.dv`, then the write. -/
def execGcond (f : RWord) (s : State) := issueT shUni2 f (fun s c =>
  let w := s.warp c.wp
  let a := (w.uni f.a).toNat
  if 2 ^ 11 ≤ a then matIll s c
  else if !releaseReady s c.wp s.nextId 4 then .hold
  else
    let d := a / 256
    let die := s.die d
    .done ((s.setDie d { die with cwords := SMap.put 0 (a % 256) (w.uni f.b) die.cwords }).cross (dieOf c.wp) d) none) s

/-- CWAIT (R380): the split waits on a read of its counter. -/
def execCwait (f : RWord) (s : State) := issueT (shCwait f) f (fun s c =>
  let w := s.warp c.wp
  let core := coreOf c.wp
  let g := s.groupOf c.wp
  let k := s.core core
  let va := (w.areg f.a).toNat
  let (id, s) := s.takeId
  let l : Load :=
    { id := id, warp := c.wp, pc := c.sp.pc, form := .counter (w.uni f.b), space := .virt, asid := g.asid, dst := 0, w := true, itype := 7
      addrs := [(lowest c.sp.mask, va)], size := 8, acq := true, scope := f.scope, todo := [] }
  let ps := pieces l.addrs 8
  if acquirePending k c.wp || (pieceLines ps).any (heldLine s c.wp g.asid) || (decide (1 ≤ f.scope) && releasePending s c.wp) then .hold
  else
    let (s, m) := translateLines s core g .read (fun _ => none) (pieceLines ps)
    match busyLine m with
    | some line => .stay (recallHost s line)
    | none =>
      match ps.find? (onCast m) with
      | some p => .trap .permission (vaInfo p.va) c.sp.mask
      | none =>
        match raiseFaults s c g .read (laneFaults s g.asid m false ps) with
        | some (.trap cause info _) => .trap cause info c.sp.mask
        | some e => e
        | none =>
          let k := s.core core
          let s := s.setCore core { k with loads := k.loads ++ [{ l with todo := loadParts s l m ps }] }
          waitAt s c (.cwait id) c.sp.pc) s

/-! ### Migrations and bind records (R374, R375) -/

/-- The phase entries of a list that a migration takes: up to n of a core's, the youngest or the oldest. -/
def migrants (l : List QEntry) (src n : Nat) (oldest : Bool) : List Nat :=
  let idx := (List.range l.length).filter (fun i => (l[i]?).any (fun e => e.tgt == src))
  if oldest then idx.take n else idx.drop (idx.length - n)

/-- A migration command executed: the number moved (R374). A poisoned entry halts the core that it goes to, no longer the one that it
leaves (R381). -/
def migrate (s : State) (cmd : Word) : State × Nat :=
  let src := cmd.toNat % 256
  let dst := cmd.toNat / 256 % 256
  let n := cmd.toNat / 2 ^ 16 % 256
  let here := (s.die (src / 32)).phases
  let there := (s.die (dst / 32)).phases
  let room := if src / 32 = dst / 32 then n else min n (4096 - there.length)
  let idx := migrants here src room (cmd.getLsbD 24)
  let moved := idx.filterMap (fun i => (here[i]?).map (fun e => { e with tgt := dst }))
  let left := (here.zipIdx.filter (fun p => !idx.contains p.2)).map Prod.fst
  let s := s.setDie (src / 32) ((s.die (src / 32)).writePhases left).haltBad
  let d := s.die (dst / 32)
  (s.setDie (dst / 32) (d.writePhases (d.phases ++ moved)).haltBad, moved.length)

/-- MIGR (R374). -/
def execMigr (f : RWord) (s : State) := issueT shMigr f (fun s c =>
  let x := (s.warp c.wp).uni f.a
  if 2 ^ 25 ≤ x.toNat then matIll s c
  else
    let r := migrate ((s.meet (dieOf c.wp) (x.toNat % 256 / 32)).meet (x.toNat % 256 / 32) (x.toNat / 256 % 256 / 32)) x
    taskResult r.1 c f (BitVec.ofNat 64 r.2)) s

/-- A bind record's fields (R357). -/
def bindEn (x : Word) : Bool := x.getLsbD 63
def bindPrivOk (x : Word) : Bool := x.getLsbD 62
def bindPreempt (x : Word) : Bool := x.getLsbD 61
def bindShare (x : Word) : Nat := (x.extractLsb' 48 8).toNat
def bindPrio (x : Word) : Nat := (x.extractLsb' 44 4).toNat
def bindQdie (x : Word) : Nat := (x.extractLsb' 40 3).toNat
def bindQueue (x : Word) : Nat := (x.extractLsb' 32 8).toNat
def bindSlots (x : Word) : BitVec 32 := x.extractLsb' 0 32

/-- Is a bind record one that R357 and R375 allow? -/
def bindOk (x : Word) : Bool := (x.extractLsb' 56 5) == 0 && !x.getLsbD 43 && (!bindEn x || bindShare x != 0)

/-- A bind record written: its pass is 0 (R359). -/
def writeBind (s : State) (core ix : Nat) (x : Word) : State :=
  let k := s.core core
  s.setCore core { k with slots := SMap.put 0 ix x k.slots, pass := SMap.erase ix k.pass }

/-- BIND (R375). -/
def execBind (f : RWord) (s : State) := issueT shBind f (fun s c =>
  let w := s.warp c.wp
  let a := (w.uni f.a).toNat
  let x := w.uni f.b
  if 2 ^ 12 ≤ a || !bindOk x then matIll s c
  else
    let old := SMap.look 0 (s.core (a % 256)).slots (a / 256)
    taskResult (writeBind (s.meet (dieOf c.wp) (a % 256 / 32)) (a % 256) (a / 256) x) c f old) s

end Sys2Proof.Machine
end

