-- ==== Sys2Proof/Machine/Save.lean ====
section
/-! DEFINITION. Where a group fits on a core, the context record of a group, its save and its restore (R216 to R221, R347,
R358, R414). -/

namespace Sys2Proof.Machine

/-! ### Places on a core (R358) -/

/-- The free warp slots of a core within a mask. DEDUCED: log 82. -/
def freeSlotsOf (s : State) (core : Nat) (mask : BitVec 32) : List Nat :=
  (List.range 32).filter (fun n => mask.getLsbD n && !SMap.has s.warps (core * 32 + n))

/-- The partition with the most of some free slots, ties to the lower. -/
def bestPartition (l : List Nat) : Nat :=
  let cnt (p : Nat) : Nat := (l.filter (fun n => n / 8 == p)).length
  (List.range 4).foldl (fun b p => if cnt b < cnt p then p else b) 0

/-- Slots taken in turn for n warps. -/
def takeSlots : Nat → List Nat → List Nat
  | 0, _ => []
  | n + 1, l =>
    match l.find? (fun x => x / 8 == bestPartition l) with
    | none => []
    | some x => x :: takeSlots n (l.filter (· != x))

/-- The groups on a core. -/
def groupsOn (s : State) (core : Nat) : List (Nat × Group) := s.groups.filter (fun p => coreOf p.1 == core)

/-- The warp-registers that a group holds: the blocks of its warps that have not ended, and its pool's (R184, R369, R370). -/
def regsOf (s : State) (g : Group) : Nat :=
  8 * (g.pool + ((g.warps.filter (fun wp => !(s.warp wp).frontier.isEmpty)).map (fun wp => popcount (s.warp wp).alloc)).sum)

/-- The warp-registers that a core's groups hold (R358). -/
def regsUsed (s : State) (core : Nat) : Nat := ((groupsOn s core).map (fun p => regsOf s p.2)).sum

/-- The lowest base of a free range of n bytes of a core's local store. DESIGN CHOICE: log 81. -/
def lsPlace (s : State) (core n : Nat) : Option Nat :=
  let areas := (groupsOn s core).map (fun p => (p.2.lsBase, p.2.lsSize))
  let free (b : Nat) : Bool := decide (b + n ≤ 2 ^ 20) && areas.all (fun a => decide (b + n ≤ a.1) || decide (a.1 + a.2 ≤ b))
  match (0 :: areas.map (fun a => a.1 + a.2)).filter free with
  | [] => none
  | b :: r => some (r.foldl min b)

/-- A place for a group: the keys of its warps and the base of its local-store area. -/
def spotFor (s : State) (core : Nat) (mask : BitVec 32) (warps regs ls : Nat) : Option (List Nat × Nat) :=
  let free := freeSlotsOf s core mask
  if free.length < warps ∨ 1024 < regsUsed s core + warps * regs then none
  else (lsPlace s core ls).map (fun b => ((takeSlots warps free).map (fun n => core * 32 + n), b))

/-! ### The layouts of a record (R218, R219, R347) -/

def zeros (n : Nat) : List Byte := List.replicate n 0
/-- A list of bytes filled up with zeros. -/
def padTo (n : Nat) (l : List Byte) : List Byte := l ++ zeros (n - l.length)

/-- Bytes at an offset of a record. -/
abbrev Chunk := Nat × List Byte

def waitCode : Wait → Nat
  | .ready => 0
  | .join _ => 1
  | .bar _ _ => 1
  | .spin _ _ => 2
  | .cwait _ => 2
  | .entry => 3

def splitBytes (x : Split) : List Byte :=
  bytesOfNat 4 x.pc.toNat ++ [x.prio, x.depth] ++ bytesOfNat 1 (waitCode x.wait) ++ bytesOfNat 1 x.yield ++ bytesOfNat 4 x.age
    ++ zeros 4 ++ bytesOfNat 16 x.mask.toNat

/-- The frontier as a record holds it. -/
def frontierBytes (l : List Split) : List Byte := padTo 256 (l.map splitBytes).flatten

def pendBytes (p : Pend) : List Byte :=
  bytesOfNat 1 (causeCode p.cause) ++ bytesOfNat 1 ((if causeImprecise p.cause then 1 else 0) + (if p.late then 2 else 0))
    ++ [p.prio, p.depth] ++ bytesOfNat 4 p.pc.toNat ++ bytesOfNat 8 p.info.toNat ++ bytesOfNat 16 p.lanes.toNat

/-- The generator states of lanes 0 to 128. -/
def genBytes (w : Warp) : List Byte := ((List.range 129).map (fun t => bytesOfNat 4 (w.genOf t).toNat)).flatten

/-- A vector register, lanes ascending. -/
def vregBytes (w : Warp) (n : Nat) : List Byte := ((List.range 128).map (fun t => bytesOfNat 4 (w.vlane n t).toNat)).flatten

/-- The allocated blocks of a warp, ascending. -/
def blocksOf (m : BitVec 32) : List Nat := (List.range 32).filter (fun b => m.getLsbD b)

/-- A warp record (R218), at an offset. -/
def warpChunks (s : State) (wp at_ : Nat) : List Chunk :=
  let w := s.warp wp
  let k0 : Mask := 0
  [ (at_, padTo 64 (bytesOfNat 4 w.alloc.toNat ++ bytesOfNat 1 w.frontier.length ++ bytesOfNat 1 w.pend.length)),
    (at_ + 0x40, ((List.range 32).map (fun n => bytesOfNat 8 (sysRead s wp n).toNat)).flatten),
    (at_ + 0x140, ((List.range 64).map (fun n => bytesOfNat 8 (w.s n).toNat)).flatten),
    (at_ + 0x340, ((List.range 16).map (fun n => bytesOfNat 16 (w.a n).toNat)).flatten),
    (at_ + 0x440, ((List.range 16).map (fun n => bytesOfNat 16 (w.k k0 n).toNat)).flatten),
    (at_ + 0x540, ((List.range 16).map (fun n => bytesOfNat 16 (w.d n).toNat)).flatten),
    (at_ + 0x640, ((List.range 16).map (fun n => bytesOfNat 4 (w.q n).toNat)).flatten),
    (at_ + 0x680, frontierBytes w.frontier),
    (at_ + 0x780, padTo 256 (w.pend.map pendBytes).flatten),
    (at_ + 0x880, genBytes w) ]
  ++ (blocksOf w.alloc).zipIdx.map (fun b =>
    (at_ + 0x1000 + 4096 * b.2, ((List.range 8).map (fun i => vregBytes w (8 * b.1 + i))).flatten))

/-- The size of a warp record. -/
def warpSize (w : Warp) : Nat := 0x1000 + 4096 * popcount w.alloc

def roundUp (m n : Nat) : Nat := (n + m - 1) / m * m

/-- The size of the poison bits of some local-store bytes (R218, R366). -/
def poisonSize (n : Nat) : Nat := roundUp 8 (roundUp 1024 n / 1024)

/-- The poison bits of some granules, one per 128 bytes. -/
def poisonBytes (s : State) (place n : Nat) : List Byte :=
  bytesOfNat (poisonSize n) ((List.range (n / 128)).foldl (fun x i => if SMap.look false s.lsBad (place / 128 + i) then x + 2 ^ i else x) 0)

/-- The warps of a group in WARPID order. -/
def wrecOrder (g : Group) : List Nat :=
  g.warps.foldl (fun acc x => acc.takeWhile (fun y => decide (y < x)) ++ [x] ++ acc.dropWhile (fun y => decide (y < x))) []

/-- The offsets of the warp records, each at the next 4096-byte boundary. -/
def wrecOffsets (s : State) (g : Group) : List (Nat × Nat) :=
  ((wrecOrder g).foldl (fun (acc : Nat × List (Nat × Nat)) wp => (acc.1 + warpSize (s.warp wp), acc.2 ++ [(wp, acc.1)]))
    (roundUp 4096 (0x32000 + g.lsSize + poisonSize g.lsSize), [])).2

/-- The tiles that a group owns. -/
def ownedTiles (k : Core) (g : Nat) : List Nat := (List.range 4).filter (fun n => (k.tile n).owner == some g)
def ownedSluices (k : Core) (g : Nat) : List Nat := (List.range 64).filter (fun n => (k.sluice n).owner == some g)
def ownedDross (k : Core) (g : Nat) : List Nat := (List.range 4).filter (fun n => (k.slotDross n).owner == some g)

/-- A number with the bits of a list set. -/
def bitSet (l : List Nat) : Nat := (l.map (fun n => 2 ^ n)).foldl (· + ·) 0

/-- A word of barrier state (R219). -/
def barWord (b : Barrier) : Nat := b.count % 32 + b.arrived.length % 32 * 32

/-- The group record's header (R219). -/
def headerBytes (s : State) (key : Nat) : List Byte :=
  let g := s.group key
  let k := s.core (coreOf key)
  let own := ownedTiles k key
  bytesOfNat 1 (bitSet own) ++ bytesOfNat 1 g.warps.length ++ zeros 2 ++ bytesOfNat 4 g.lsSize ++ bytesOfNat 8 k.ct
    ++ bytesOfNat 2 g.pool ++ bytesOfNat 2 g.phaseNo ++ bytesOfNat 4 g.launch ++ bytesOfNat 4 g.gid ++ zeros 4
    ++ padTo 64 ((wrecOffsets s g).map (fun p => bytesOfNat 4 p.2)).flatten
    ++ ((List.range 17).map (fun b => bytesOfNat 4 (barWord (SMap.look {} g.bars b)))).flatten ++ zeros 4
    ++ bytesOfNat 8 (g.carryOff + g.carrySize * 2 ^ 20)
    ++ bytesOfNat 8 ((g.msDue.map (fun x => x.1.toNat)).getD 0)
    ++ bytesOfNat 1 ((g.msDue.map (fun x => 1 + 2 * slotOf x.2)).getD 0) ++ zeros 7
    ++ ((List.range 4).map (fun n => bytesOfNat 16 (if own.contains n then (k.tile n).status.toNat else 0))).flatten

/-- Free bytes (log 3), for the parts of a record that the spec names and does not lay out: n words. DESIGN CHOICE: log 43. -/
def freeBytes (s : State) (n : Nat) : State × List Byte :=
  ({ s with fresh := s.fresh + n }, ((List.range n).map (fun i => bytesOfNat 8 (Config.freeValue (s.fresh + i)).toNat)).flatten)

/-- The engine state (R347): the scoreboard entries, command slots and patches, whose 16 and 64 bytes the spec does not lay
out, are free bytes, and the device keeps what they stand for. -/
def engineChunks (s : State) (key : Nat) (b e : Nat) (slots patches board : List Byte) : List Chunk :=
  let g := s.group key
  let k := s.core (coreOf key)
  let dross := ownedDross k key
  [ (b, ((List.range 4).map (fun q => ((List.range 256).map (fun i =>
      bytesOfNat 4 (if dross.contains q then (SMap.look 0 (k.slotDross q).val i).toNat else 0))).flatten)).flatten),
    (b + 0x1000, board), (b + 0x1200, slots), (b + 0x1600, patches),
    (b + 0x1800, padTo 128 ((wrecOrder g).map (fun wp => bytesOfNat 8 (s.warp wp).tokTag.toNat)).flatten),
    (b + 0x1880, bytesOfNat 8 (bitSet (ownedSluices k key)) ++ bytesOfNat 8 (bitSet dross)),
    (b + 0x1890, padTo 64 (g.packed.map (fun p => bytesOfNat 4 p.1 ++ bytesOfNat 4 p.2.1 ++ bytesOfNat 4 p.2.2 ++ zeros 4)).flatten),
    (b + 0x18D0, zeros e) ]

/-- A whole group record (R218). DEDUCED: log 80. -/
def groupChunks (s : State) (key : Nat) : State × List Chunk :=
  let g := s.group key
  let k := s.core (coreOf key)
  let ls := coreOf key * 2 ^ 20 + g.lsBase
  let (s, board) := freeBytes s 64
  let (s, slots) := freeBytes s 128
  let (s, patches) := freeBytes s 64
  let own := ownedTiles k key
  let sluices := ownedSluices k key
  (s,
    [ (0, headerBytes s key),
      (0x100, ((List.range 4).map (fun n => bytesOfNat 8 (if own.contains n then (k.tile n).poison.toNat else 0))).flatten),
      (0x200, ((List.range 64).map (fun n =>
        if sluices.contains n then bytesOfNat 8 (k.sluice n).fill.toNat ++ bytesOfNat 8 (k.sluice n).drain.toNat else zeros 16)).flatten) ]
    ++ engineChunks s key 0x600 304 slots patches board
    ++ own.map (fun n => (0x2000 + n * 49152, ((List.range 4096).map (fun i => bytesOfNat 12 (SMap.look 0 (k.tile n).el i).toNat)).flatten))
    ++ [(0x32000, Memory.bytes s.ls ls g.lsSize), (0x32000 + g.lsSize, poisonBytes s ls g.lsSize)]
    ++ ((wrecOffsets s g).map (fun p => warpChunks s p.1 p.2)).flatten)

/-! ### Reads and writes of a record -/

/-- A stand-in command through which a group's record is read and written (R326's line by line accesses). -/
def recordCmd (key : Nat) : Cmd := { kind := .cpy, warp := key, grp := key, launch := 0, token := 0, scope := 0 }

/-- The lines of a range of virtual memory translated for a group; a page that cannot be reached, or a line that is busy, has to
be tried again. -/
def probeVa (s : State) (key va n : Nat) (need : Need) : EngRes Unit :=
  let g := s.group key
  (linePieces va n).foldl (fun acc p => match acc with
    | .again s => .again s
    | .ok s _ => match translate s (coreOf key) g.asid g.root p.1 need with
      | (s, .busy line) => .again (recallHost s line)
      | (s, .fault _ _) => .again s
      | (s, .ok pa pte) =>
        if pteCast pte then .again s
        else match unitLine s (coreOf key) (pa / 128) g.asid pte need (halvesAt (pa % 128) p.2) with
          | (s, true) => .ok s ()
          | (s, false) => .again s) (.ok s ())

/-- All lines of some chunks of a record. -/
def probeChunks (s : State) (key va : Nat) (l : List Chunk) : EngRes Unit :=
  l.foldl (fun acc c => match acc with
    | .again s => .again s
    | .ok s _ => probeVa s key (va + c.1) c.2.length .write) (.ok s ())

def writeChunks (s : State) (key va : Nat) (l : List Chunk) : State :=
  l.foldl (fun s c => engWrite s (coreOf key) (recordCmd key) 4 (va + c.1) (c.2.map (fun b => (b, false)))) s

/-- Bytes of a record read (R220), with the first poisoned granule among them (R17). -/
def readVa (s : State) (key va n : Nat) : EngRes (List Byte × Option Nat) :=
  let g := s.group key
  match probeVa s key va n .read with
  | .again s => .again s
  | .ok s _ =>
    .ok s
      (((linePieces va n).map (fun p => match translate s (coreOf key) g.asid g.root p.1 .read with
        | (_, .ok pa pte) => sysBytes s pa p.2 g.asid pte
        | _ => zeros p.2)).flatten,
      (linePieces va n).findSome? (fun p => match translate s (coreOf key) g.asid g.root p.1 .read with
        | (_, .ok pa pte) => if sysBad s pa p.2 g.asid pte then some (pa / 128 * 128) else none
        | _ => none))

/-! ### Completion records (R452) -/

/-- A completion record (R452). -/
def completionBytes (m : HostMsg) (status value : Nat) (time : Word) : List Byte :=
  bytesOfNat 4 m.tag.toNat ++ bytesOfNat 1 m.op.toNat ++ bytesOfNat 1 status ++ zeros 2 ++ bytesOfNat 8 value ++ bytesOfNat 8 time.toNat ++ zeros 8

/-- The device writes a completion record, where the message asks for one. -/
def complete (s : State) (m : HostMsg) (status value : Nat) : State :=
  if m.recVa = 0 then s
  else { s with hostMem := Memory.storeBytes s.hostMem m.recVa.toNat (completionBytes m status value s.cycle) }


/-! ### GROUP_SAVE (R217, R347, R414) -/

/-- An MLOOP, MPOLY or MITER (R414). -/
def MatJob.isLoop (j : MatJob) : Bool :=
  match j.op with
  | .mloop .. => true
  | .mpoly .. => true
  | .miter .. => true
  | _ => false

/-- A wait of SPINW or CWAIT ends (R217, R380). -/
def endWait (x : Split) : Split :=
  match x.wait with
  | .spin _ _ => { x with wait := .ready }
  | .cwait _ => { x with wait := .ready }
  | _ => x

/-- The eighths of a gather that have passed their checks when its warp is stopped are loaded, and PXI names them (R217, R257). -/
def startEighths (s : State) (wp : Nat) : State :=
  let w := s.warp wp
  match w.gather, w.block with
  | some (l, done), .fault =>
    let core := coreOf wp
    let (id, s) := s.takeId
    let k := s.core core
    (s.setCore core { k with loads := k.loads ++ [{ l with id := id }] }).setWarp wp { w with pxi := done.setWidth 64, gather := none }
  | _, _ => s

/-- A save begins: the group's warps stop, waits end, the core's windows end, it refuses pushes, and the kind 3 entry stands at the
head of the group's origin queue (R217, R250, R360). DEDUCED: log 74. -/
def saveBegin (s : State) (key : Nat) (area : Addr) : State :=
  let g := s.group key
  let core := coreOf key
  let s := s.setGroup key { g with saving := true, saveAt := area }
  let s := g.warps.foldl (fun s wp => s.setWarp wp { s.warp wp with frontier := (s.warp wp).frontier.map endWait }) s
  let s := g.warps.foldl startEighths s
  let k := s.core core
  let s := s.setCore core
    { k with saving := true, loads := k.loads.filter (fun l => !(g.warps.contains l.warp && l.isCounter)) }
  let s := endCoreWindows s core
  prependEntry s g.originDie g.originQ
    { kind := 3, priv := g.priv, originPrio := g.originPrio, originQ := g.originQ, originDie := g.originDie, launch := g.launch
      ref := area, group := g.gid, phaseNo := g.phaseNo, recSpace := 1 }

/-- Does a save wait for something of its group: a command that is neither held nor a CPYT at a tile boundary, a load, an operation of
the matrix unit that is no held loop, a PGATE's outcome? -/
def saveWaits (s : State) (key : Nat) : Bool :=
  let g := s.group key
  let k := s.core (coreOf key)
  k.cmds.any (fun p => p.2.grp == key && !p.2.held && !(p.2.kind == .cpyt && p.2.err.isNone && !p.2.finished))
    || k.loads.any (fun l => g.warps.contains l.warp)
    || k.mq.any (fun j => j.grp == key && !j.isLoop)
    || g.warps.any (fun wp => match (s.warp wp).block with
        | .gate _ _ => true
        | _ => false)

/-- A warp as it is saved: at a chain head, holding for nothing (R65, R216). An instruction whose progress PXI tells stays at its own pc,
the last of a chain too. DEDUCED: log 16. -/
def stopWarp (w : Warp) : Warp :=
  let back := w.pos != 0 && w.pxi == 0
  ({ w with
    frontier := if back then w.frontier.modify w.cur (fun x => { x with pc := w.headPc }) else w.frontier
    kwrites := []
    gen := if back then w.headGen else w.gen
    pos := 0, chosen := false, hang := 0, block := .free, verdict := [], gather := none } : Warp).clearLatches

/-- A warp stops at a chain head: the timers that are due there fire, and a trap that is due is delivered, before it is saved (R206, R221). -/
def stopAtHead (s : State) (wp : Nat) : State :=
  let free := (s.warp wp).block == .free
  let s := s.setWarp wp (stopWarp (s.warp wp))
  let runs (s : State) : Bool := SMap.has s.warps wp && !(s.groupOf wp).faulted && !(s.warp wp).frontier.isEmpty
  let s := if runs s && timerDue (s.warp wp).vtcmp (s.warp wp).vtime then fireTimer s wp false false else s
  let s := if runs s && timerDue (s.warp wp).deadline s.cycle then fireTimer s wp true false else s
  if runs s && free && trapDue (s.warp wp) then s.setWarp wp (deliver (s.warp wp)) else s

/-- The commands that a save keeps, in issue order (R347). -/
def savedCmds (k : Core) (key : Nat) : List Cmd :=
  (k.cmds.filter (fun p => p.2.grp == key)).foldl (fun acc p =>
    acc.takeWhile (fun m => decide (m.seq < p.2.seq)) ++ [{ p.2 with req := none }] ++ acc.dropWhile (fun m => decide (m.seq < p.2.seq))) []

/-- Does a saving group other than this one stay on a core? -/
def stillSaving (s : State) (core key : Nat) : Bool := (groupsOn s core).any (fun p => p.1 != key && p.2.saving)

/-- A group's held loops leave the unit: they resume from PXI (R414). A MITER that has started, and has made no step, has set its tile's
status (R412). -/
def withdrawLoops (s : State) (core key : Nat) : State :=
  let k := s.core core
  let k := k.mq.foldl (fun k j => match j.op with
    | .miter x _ _ _ _ _ _ _ true => if j.grp == key && (s.warp j.warp).pxi.toNat % 2 ^ 16 == 0 then k.fresh x else k
    | _ => k) k
  s.setCore core { k with mq := k.mq.filter (fun j => j.grp != key) }

/-- The record is written and what the group holds is given back; its stores and its side-log entries stay (R217). A group that a due
timer faults leaves no record (R197). -/
def saveFinish (s : State) (key : Nat) : State :=
  let g := s.group key
  let core := coreOf key
  let s := g.warps.foldl stopAtHead s
  let s := withdrawLoops s core key
  let g := s.group key
  let (s, l) := groupChunks s key
  if !SMap.has s.groups key || g.faulted then tryRelease (s.setCore core { s.core core with saving := stillSaving s core key }) key
  else
  match probeChunks s key g.saveAt.toNat l with
  | .again s => s
  | .ok s _ =>
    let s := writeChunks s key g.saveAt.toNat l
    let kept : Saved :=
      { phase := false, grp := { g with saving := false }, warps := g.warps.map (fun wp => (wp, s.warp wp)), cmds := savedCmds (s.core core) key
        tiles := ownedTiles (s.core core) key, sluices := ownedSluices (s.core core) key, dross := ownedDross (s.core core) key }
    let s := s.setCore core { s.core core with saving := stillSaving s core key }
    releaseGroup { s with saved := s.saved ++ [kept] } key

/-- The bytes that a group's record takes. -/
def recordSize (s : State) (g : Group) : Nat :=
  (wrecOffsets s g).foldl (fun n p => max n (p.2 + warpSize (s.warp p.1))) 0x32000

/-- May a record be written from an address: does no other waiting record or save of the address space reach into it? -/
def areaFree (s : State) (key : Nat) (area : Addr) : Bool :=
  let g := s.group key
  let n := recordSize s g
  let clear (x : Group) (m : Nat) : Bool :=
    x.asid != g.asid || decide (area.toNat + n ≤ x.saveAt.toNat) || decide (x.saveAt.toNat + m ≤ area.toNat)
  s.saved.all (fun v => v.phase || clear v.grp (0x32000 + v.grp.lsSize + 2 ^ 22))
    && s.groups.all (fun p => !p.2.saving || p.1 == key || clear p.2 (recordSize s p.2))

/-- May a group be saved: does it run, and has its origin queue an entry (R360)? -/
def canSave (s : State) (key : Nat) : Bool :=
  let g := s.group key
  SMap.has s.groups key && !g.faulted && !g.ending && !g.saving && g.warps.any (fun wp => !(s.warp wp).frontier.isEmpty)
    && (s.queue g.originDie g.originQ).anyRoom

/-- The place in the save area that the dispatcher takes for a group's record. DESIGN CHOICE: log 45. -/
def saveArea (s : State) (key : Nat) : Addr :=
  let base := (packetOf s (s.group key).launch).save
  let at_ (i : Nat) : Addr := BitVec.ofNat 80 (base + i * 2 ^ 23)
  at_ (((List.range (s.saved.length + s.groups.length + 1)).find? (fun i => areaFree s key (at_ i))).getD 0)

/-- A group whose origin queue has an entry for it is saved, where it can be (R360). -/
def saveWhenFree (s : State) (key : Nat) : State :=
  if canSave s key && areaFree s key (saveArea s key) then saveBegin s key (saveArea s key) else s

/-- PREEMPT messages go on: a group that waits for an entry of its queue is saved once one is free, and a message whose groups have all
been saved, or have ended, is done (R360, R451). DEDUCED: log 94. -/
def settlePreempts (s : State) : State :=
  let left (s : State) (p : HostMsg × List Nat) : List Nat :=
    p.2.filter (fun g => SMap.has s.groups g && !(s.group g).faulted && (s.group g).launch == (p.1.args.extractLsb' 0 32).toNat)
  let s := (s.preempts.map (left s)).flatten.foldl saveWhenFree s
  let s' := { s with preempts := (s.preempts.map (fun p => (p.1, left s p))).filter (fun p => !p.2.isEmpty) }
  (s.preempts.filter (fun p => (left s p).isEmpty)).foldl (fun s p => complete s p.1 0 0) s'

/-- GROUP_SAVE (R217): a save begins, or goes on once what it waits for has ended. -/
def execGroupSave (core grp : Nat) (area : Addr) (s : State) : Host.Outcome State Fault Refusal :=
  let x := s.group grp
  if coreOf grp ≠ core ∨ !SMap.has s.groups grp ∨ x.faulted then .next s
  else
    let begin_ := canSave s grp && areaFree s grp area
    if !x.saving && !begin_ then .next s
    else
      let s := if x.saving then s else saveBegin s grp area
      .next (settlePreempts (if saveWaits s grp then s else saveFinish s grp))

/-! ### A restore (R207, R220) -/

/-- Every cause, for its code. -/
def allCauses : List Cause :=
  [.illegalOpcode, .illegalOperand, .illegalPair, .latchLost, .reservedBits, .pageFaultLoad, .permission, .misalignedAtomic, .vaultGrant,
    .storeReplayFail, .retEmpty, .software, .breakpoint, .timer, .shape, .iterDiverge, .iterCap, .matrixStorage, .engineFault, .flashFull,
    .privilege]

/-- The cause of a code; one that the record misnames is the one kept. -/
def causeFrom (kept : Cause) (code : Nat) : Cause := (allCauses.find? (fun c => causeCode c == code)).getD kept

/-- A split read from its 32 bytes; which JOIN or barrier it waits at, and how a trap holds it, the device keeps. -/
def splitFrom (kept : Split) (b : List Byte) : Split :=
  { kept with
    pc := BitVec.ofNat 32 (field b 0 4), prio := BitVec.ofNat 8 (field b 4 1), depth := BitVec.ofNat 8 (field b 5 1)
    wait := if field b 6 1 = waitCode kept.wait then kept.wait else if field b 6 1 = 3 then .entry else .ready
    yield := field b 7 1, age := field b 8 4, mask := BitVec.ofNat 128 (field b 16 16) }

/-- A frontier of n splits read. -/
def frontierFrom (kept : List Split) (n : Nat) (b : List Byte) : List Split :=
  (List.range (min n 8)).map (fun i => splitFrom ((kept[i]?).getD { pc := 0, prio := 0, depth := 0, mask := 0 }) (b.drop (32 * i)))

/-- A pending trap read. -/
def pendFrom (kept : Pend) (b : List Byte) : Pend :=
  { kept with
    cause := causeFrom kept.cause (field b 0 1), late := decide (field b 1 1 / 2 % 2 = 1), prio := BitVec.ofNat 8 (field b 2 1)
    depth := BitVec.ofNat 8 (field b 3 1), pc := BitVec.ofNat 32 (field b 4 4), info := BitVec.ofNat 64 (field b 8 8)
    lanes := BitVec.ofNat 128 (field b 16 16), cycle := none }

/-- The numbers below n with a value read, where it is not 0. -/
def mapFrom {α : Type} [DecidableEq α] (d : α) (n : Nat) (f : Nat → α) : SMap α :=
  (List.range n).filterMap (fun i => if f i = d then none else some (i, f i))

/-- A generator's states read. -/
def gensFrom (b : List Byte) : SMap Lane := mapFrom 0 129 (fun t => BitVec.ofNat 32 (field b (4 * t) 4))

/-- A vector register read. -/
def vregFrom (b : List Byte) : Lanes Lane := Lanes.mk (fun t => BitVec.ofNat 32 (field b (4 * t) 4))

/-- A warp read from its record `b`, with the registers' bytes `v` (R218, R220). -/
def warpFrom (kept : Warp) (b v : List Byte) (tags : Nat) : Warp :=
  let word (n : Nat) : Word := BitVec.ofNat 64 (field b (0x40 + 8 * n) 8)
  let alloc : BitVec 32 := BitVec.ofNat 32 (field b 0 4)
  let st := word 0
  { kept with
    alloc := alloc
    v := ((blocksOf alloc).zipIdx.map (fun x => (List.range 8).map (fun i =>
      (8 * x.1 + i, vregFrom ((v.drop (4096 * x.2 + 512 * i)).take 512))))).flatten
    sr := mapFrom 0 64 (fun n => BitVec.ofNat 64 (field b (0x140 + 8 * n) 8))
    ar := mapFrom 0 16 (fun n => BitVec.ofNat 80 (field b (0x340 + 16 * n) 16))
    kr := mapFrom 0 8 (fun n => if n = 0 then 0 else BitVec.ofNat 128 (field b (0x440 + 16 * n) 16))
    dr := mapFrom 0 16 (fun n => BitVec.ofNat 128 (field b (0x540 + 16 * n) 16))
    qr := mapFrom 0 16 (fun n => BitVec.ofNat 32 (field b (0x640 + 4 * n) 4))
    frontier := frontierFrom kept.frontier (field b 4 1) (b.drop 0x680)
    pend := (List.range (min (field b 5 1) 8)).map (fun i => pendFrom ((kept.pend[i]?).getD { cause := .software }) (b.drop (0x780 + 32 * i)))
    gen := gensFrom (b.drop 0x880)
    sup := st.getLsbD 0, psup := st.getLsbD 1, inh := st.getLsbD 2, itercap := st.getLsbD 8
    role := (word 1).toNat
    trapcause := word 0x08, trappc := word 0x09 &&& trappcMask, trapinfo := word 0x0A, trapvec := word 0x0B &&& trapvecMask
    tlanes := (word 0x0D ++ word 0x0C), hsave0 := word 0x0E, hsave1 := word 0x0F, pxi := word 0x10, vtime := word 0x12, vtcmp := word 0x13
    deadline := word 0x14, agelim := agelimOf (word 0x15), fair := (word 0x16).getLsbD 0, fpmode := word 0x17 &&& fpmodeMask, trappxi := word 0x1B
    tokTag := BitVec.ofNat 64 tags, hang := 0, pos := 0, cur := 0, chosen := false }

/-- The tiles, sluices and dross slots that a record gives back to its group. -/
def coreFrom (k : Core) (key : Nat) (b : List Byte) : Core :=
  let tiles := (List.range 4).filter (fun n => field b 0 1 / 2 ^ n % 2 = 1)
  let sl := (List.range 64).filter (fun n => field b 0x1E80 8 / 2 ^ n % 2 = 1)
  let dr := (List.range 4).filter (fun n => field b 0x1E88 8 / 2 ^ n % 2 = 1)
  let k := tiles.foldl (fun (k : Core) n => k.setTile n
    { owner := some key
      el := mapFrom 0 4096 (fun i => BitVec.ofNat 96 (field b (0x2000 + 49152 * n + 12 * i) 12))
      poison := BitVec.ofNat 64 (field b (0x100 + 8 * n) 8), status := BitVec.ofNat 128 (field b (0xC0 + 16 * n) 16) }) k
  let k := { k with sluices := sl.foldl (fun m n => SMap.set n
    { owner := some key, fill := BitVec.ofNat 64 (field b (0x200 + 16 * n) 8), drain := BitVec.ofNat 64 (field b (0x208 + 16 * n) 8) } m) k.sluices }
  { k with dross := dr.foldl (fun m n => SMap.set n
    { owner := some key, val := mapFrom 0 256 (fun i => BitVec.ofNat 32 (field b (0x600 + 1024 * n + 4 * i) 4)) } m) k.dross }

/-- A saved command placed again, for its warp's new slot; a stopped CPYT's ranges are those of its operands (R347). -/
def placeAgain (s : State) (key : Nat) (move : Nat → Nat) (m : Cmd) : State :=
  let core := coreOf key
  let k := s.core core
  match (List.range 32).find? (fun n => !SMap.has k.cmds n) with
  | none => s
  | some n =>
    let (id, s) := s.takeId
    let m := { m with warp := move m.warp, grp := key, seq := id }
    s.setCore core
      { k with
        cmds := SMap.set n m k.cmds
        board := if m.held then k.board else k.board ++ spanEntries (cpytSpans (s.group key) m m.len) n id }

/-- Do the numbered things that a saved group owns, and its commands, find their places free on a core (R384, R336, R341)?
DEDUCED: log 75. -/
def ownsFree (s : State) (core : Nat) (v : Saved) (b : Option (List Byte)) : Bool :=
  let k := s.core core
  let named (off size n : Nat) (l : List Nat) : Bool := match b with
    | some b => field b off size / 2 ^ n % 2 = 1
    | none => l.contains n
  (List.range 4).all (fun n => !named 0 1 n v.tiles || (k.tile n).owner.isNone)
    && (List.range 64).all (fun n => !named 0x1E80 8 n v.sluices || (k.sluice n).owner.isNone)
    && (List.range 4).all (fun n => !named 0x1E88 8 n v.dross || (k.slotDross n).owner.isNone)
    && decide (k.cmds.length + v.cmds.length ≤ 32)
    && decide (k.board.length + 6 * (v.cmds.filter (fun m => !m.held)).length ≤ 32)

/-- The group read from the header `b`, with its warps in their new slots. -/
def groupFrom (kept : Group) (warps : List Nat) (base seq : Nat) (move : Nat → Nat) (b : List Byte) : Group :=
  { kept with
    warps := warps, lsBase := base, seq := seq, saving := false
    pool := field b 0x10 2, phaseNo := field b 0x12 2
    bars := (List.range 17).filterMap (fun n =>
      let x := field b (0x60 + 4 * n) 4
      if x = 0 then none else some (n, { count := x % 32, arrived := (SMap.look {} kept.bars n).arrived.map move }))
    carryOff := field b 0xA8 8 % 2 ^ 20, carrySize := field b 0xA8 8 / 2 ^ 20 % 2 ^ 17
    msDue := if field b 0xB8 1 % 2 = 1 then some (BitVec.ofNat 64 (field b 0xB0 8), move ((kept.msDue.map Prod.snd).getD 0)) else none
    packed := (List.range 4).filterMap (fun i =>
      let x := (field b (0x1E90 + 16 * i) 4, field b (0x1E94 + 16 * i) 4, field b (0x1E98 + 16 * i) 4)
      if x.2.1 = 0 then none else some x) }

/-- The read of all that a record holds: its group part, and each warp's record and registers; the last is the first poisoned granule.
DESIGN CHOICE: log 76. -/
def readRecord (s : State) (key va : Nat) (v : Saved) : EngRes (List Byte × List (Nat × Warp) × Option Nat) :=
  let head := 0x32000 + v.grp.lsSize + poisonSize v.grp.lsSize
  match readVa s key va head with
  | .again s => .again s
  | .ok s (b, spoilt) =>
    ((wrecOrder v.grp).zipIdx.foldl (fun acc x => match acc with
      | .again s => .again s
      | .ok s (l, bad) =>
        let at_ := va + field b (0x20 + 4 * x.2) 4
        match readVa s key at_ 0x1000 with
        | .again s => .again s
        | .ok s (r, bad1) => match readVa s key (at_ + 0x1000) (4096 * popcount (BitVec.ofNat 32 (field r 0 4))) with
          | .again s => .again s
          | .ok s (regs, bad2) =>
            let kept := SMap.look {} v.warps x.1
            .ok s (l ++ [(x.1, warpFrom kept r regs (field b (0x1E00 + 8 * x.2) 8))], (bad.or bad1).or bad2))
      (EngRes.ok s (([], spoilt) : List (Nat × Warp) × Option Nat))
      |> fun r => match r with
        | .again s => .again s
        | .ok s (l, bad) => .ok s (b, l, bad))

/-- A record of a launch's state is hit by an uncorrectable error: the launch ends faulted (R17). DEDUCED: log 76. -/
def spoiltRecord (s : State) (core launch group a : Nat) : State :=
  faultLaunch (s.record { cls := 0x03, sev := 1, die := core / 32, core := core % 32, launch := launch, group := group, addr := a }) launch

/-- The local-store image of a record, with its poison, put into a group's area. -/
def putImage (s : State) (place : Nat) (l bits : List Byte) : State :=
  let x := natOfBytes bits
  { s with
    ls := Memory.storeBytes s.ls place l
    lsBad := (List.range (l.length / 128)).foldl (fun m i => if x / 2 ^ i % 2 = 1 then SMap.set (place / 128 + i) true m else m) s.lsBad }

/-- A restored warp meets its timers (R207). -/
def lateTimer (s : State) (wp : Nat) : State :=
  let w := s.warp wp
  if timerDue w.deadline s.cycle && !w.frontier.isEmpty then fireTimer s wp true true else s

/-- A saved group placed on a core from its record at va (R220, R290); none while the record cannot be read, or what the group owns is
not free there, or where the record is poisoned. -/
def restoreGroup (s : State) (core va : Nat) (v : Saved) (warps : List Nat) (base : Nat) : State × Bool :=
  let key := warps.headD (core * 32)
  let s0 := s.setGroup key { v.grp with warps := warps, lsBase := base, saving := false }
  let undo (s : State) : State := { s with groups := SMap.erase key s.groups }
  match readRecord s0 key va v with
  | .again s => (undo s, false)
  | .ok s (b, ws, bad) =>
    if let some a := bad then (spoiltRecord (undo s) core v.grp.launch v.grp.gid a, false)
    else if !ownsFree s core v (some b) then (undo s, false)
    else
      let move (wp : Nat) : Nat := (warps[v.grp.warps.idxOf wp]?).getD key
      let (seq, s) := s.takeId
      let g := groupFrom v.grp warps base seq move b
      let s := s.setGroup key g
      let s := s.setCore core (coreFrom (s.core core) key b)
      let s := ws.foldl (fun s x => s.setWarp (move x.1) { x.2 with grp := key }) s
      let s := putImage s (core * 2 ^ 20 + base) ((b.drop 0x32000).take g.lsSize) (b.drop (0x32000 + g.lsSize))
      let s := v.cmds.foldl (fun s m => placeAgain s key move m) s
      let s := s.raiseCt core (field b 8 8)
      let s := v.late.foldl (fun s t => match warps[t.1]? with
        | some wp => tokenWrite s wp t.2.1 t.2.2
        | none => s) s
      (tryRelease (warps.foldl lateTimer s) key, true)

end Sys2Proof.Machine
end

