-- ==== Sys2Proof/Machine/Dispatcher.lean ====
section
/-! DEFINITION. The start of a group, phase records, the cores' dispatchers and their pre-emption, the Weir, and the end of a launch
(R352, R353, R357 to R360, R364 to R367, R373, R466). -/

namespace Sys2Proof.Machine

/-! ### The start of a group (R352) -/

/-- The stage that warp i of a group carries (R40). -/
def stageOf (p : Packet) (i : Nat) : Nat :=
  ((p.stagemap.foldl (fun (acc : Nat × Nat) c => (acc.1 + c, if acc.1 + c ≤ i then acc.2 + 1 else acc.2)) (0, 0)).2)

/-- The lanes that have a thread in warp i (R161, R349). -/
def threadMask (p : Packet) (i : Nat) : Mask :=
  if i + 1 < p.warps then BitVec.allOnes 128 else BitVec.ofNat 128 (2 ^ p.threads - 1)

/-- Warp i of a group as it starts. DESIGN CHOICE: log 110. -/
def startWarp (p : Packet) (gid key i : Nat) (sup : Bool) : Warp :=
  let m := threadMask p i
  { alloc := BitVec.ofNat 32 (2 ^ (p.regs / 8) - 1)
    sr := mapFrom 0 3 (fun n => BitVec.ofNat 64
      (if n = 0 then gid % p.gx else if n = 1 then gid / p.gx % p.gy else gid / (p.gx * p.gy)))
    ar := mapFrom 0 2 (fun n => BitVec.ofNat 80 (if n = 0 then p.dataBase else p.args))
    frontier := [{ pc := BitVec.ofNat 32 p.entryPc, prio := BitVec.ofNat 8 p.entryPrio, depth := 0, mask := m }]
    live := m
    gen := seedGens 0
    sup := sup
    role := stageOf p i
    trapvec := BitVec.ofNat 64 p.trapvec &&& trapvecMask
    agelim := agelimOf (BitVec.ofNat 64 p.agelim)
    fair := p.fair
    carryV := p.carryV
    carryS := BitVec.ofNat 64 p.carryS
    grp := key }

/-- A group as its launch describes it, in its place on a core. -/
def groupOfPacket (p : Packet) (l gid : Nat) (warps : List Nat) (base : Nat) : Group :=
  { launch := l, gid := gid, warps := warps, lsBase := base, lsSize := p.localsize, regs := p.regs, sregs := p.sregs, asid := p.asid
    root := p.root, codeBase := BitVec.ofNat 80 p.codeBase, grant := BitVec.ofNat 256 p.grant, carryOff := p.clsOff, carrySize := p.clsSize }

/-- A local-store area with every byte 0. -/
def clearArea (s : State) (place n : Nat) : State :=
  { s with
    ls := Memory.clear s.ls place n
    lsBad := SMap.keep s.lsBad (fun a _ => !(decide (place / 128 ≤ a) && decide (a < (place + n) / 128))) }

/-- A die learns of every die's time: what the end of a launch tells has come from all of them (R288). -/
def State.hear (s : State) (d : Nat) : State := (List.range 8).foldl (fun s a => s.cross a d) s

/-- A group starts on a core (R352); a privileged launch that a record does not accept starts in user state, which a record
says (R357). A graph node's start is an acquire at `.dv` (R378). -/
def startGroup (s : State) (core l gid : Nat) (spot : List Nat × Nat) (prio : Nat) (privOk : Bool) : State :=
  let x := s.launch l
  let p := readPacket x.bytes
  let sup := p.priv && privOk
  let key := spot.1.headD (core * 32)
  let (seq, s) := s.takeId
  let s := if p.priv && !privOk && !x.demoted then
      (s.setLaunch l { x with demoted := true }).record { cls := 0x0A, sev := 0, die := core / 32, core := core % 32, launch := l }
    else s
  let g := groupOfPacket p l gid spot.1 spot.2
  let s := s.setGroup key
    { g with originQ := x.queue, originDie := x.qdie, originPrio := prio, prio := prio, priv := sup, seq := seq }
  let s := clearArea s (core * 2 ^ 20 + spot.2) p.localsize
  let s := s.cross x.qdie (core / 32)
  let s := match x.node with
    | some (d, _) => (s.cross d (core / 32)).acquire core
    | none => s
  spot.1.zipIdx.foldl (fun s w => s.setWarp w.1 (startWarp p gid key w.2 sup)) s

/-! ### Phase records (R364 to R367) -/

/-- The first byte of slot n of a vault's phase pool, as a vault address; of a die's spill pool, as a physical address, the top 1 GiB of
the die's DRAM (R365). -/
def poolPlace (core n : Nat) : Nat := core * 2 ^ 25 + 0x1C00000 + n * 2 ^ 18
/-- DESIGN CHOICE: log 44. -/
def spillPlace (die n : Nat) : Nat := die * 2 ^ 35 + (2 ^ 35 - 2 ^ 30) + n * 2 ^ 18

/-- Does a phase record stand at a place of a space: one of an entry, or of a group whose entry waits? -/
def placeTaken (s : State) (space place : Nat) : Bool :=
  s.dies.any (fun d => d.2.phases.any (fun e => e.recSpace == space && e.ref.toNat == place))
    || s.groups.any (fun g => g.2.phaseRec == some (space, place))

/-- A free slot for a phase record: its space and its place (R365). -/
def phasePlace (s : State) (core : Nat) : Option (Nat × Nat) :=
  match (List.range 16).find? (fun n => !placeTaken s 0 (poolPlace core n)) with
  | some n => some (0, poolPlace core n)
  | none => ((List.range 4096).find? (fun n => !placeTaken s 1 (spillPlace (core / 32) n))).map (fun n => (1, spillPlace (core / 32) n))

/-- The carried registers of a warp, ascending. -/
def carriedV (l : List Nat) : List Nat := (List.range 255).filter (fun v => l.contains v)
def carriedS (m : Word) : List Nat := (List.range 64).filter (fun n => m.getLsbD n)

/-- A warp block (R366). DESIGN CHOICE: log 78. -/
def phaseBlock (w : Warp) (at_ : Nat) : List Chunk :=
  [ (at_, padTo 64 (padTo 16 (bytesOfNat 4 w.alloc.toNat) ++ (w.carryV.map (fun v => bytesOfNat 1 v)).flatten
      ++ bytesOfNat 8 w.carryS.toNat ++ bytesOfNat 8 w.vtime.toNat)),
    (at_ + 0x40, frontierBytes w.frontier),
    (at_ + 0x140, padTo 64 ((carriedS w.carryS).map (fun n => bytesOfNat 8 (w.s n).toNat)).flatten),
    (at_ + 0x180, bytesOfNat 8 w.fpmode.toNat ++ bytesOfNat 8 w.agelim ++ bytesOfNat 8 (if w.fair then 1 else 0) ++ bytesOfNat 8 w.trapvec.toNat),
    (at_ + 0x200, genBytes w),
    (at_ + 0x600, ((carriedV w.carryV).map (vregBytes w)).flatten) ]

/-- A phase record (R366); the PA of the packet's copy in the shadow carve-out is a free value (log 3). -/
def phaseChunks (s : State) (key : Nat) : State × List Chunk :=
  let g := s.group key
  let k := s.core (coreOf key)
  let ls := coreOf key * 2 ^ 20 + g.lsBase + g.carryOff
  let (s, pkt) := freeBytes s 1
  let n := g.warps.length
  (s,
    [ (0, padTo 256 (bytesOfNat 4 g.launch ++ bytesOfNat 4 g.gid ++ bytesOfNat 2 (g.phaseNo + 1) ++ bytesOfNat 1 n
        ++ bytesOfNat 1 g.originPrio ++ bytesOfNat 1 g.originQ ++ zeros 3 ++ bytesOfNat 8 k.ct ++ pkt ++ bytesOfNat 4 g.carryOff
        ++ bytesOfNat 4 g.carrySize ++ bytesOfNat 4 0x100)) ]
    ++ ((wrecOrder g).zipIdx.map (fun x => phaseBlock (s.warp x.1) (0x100 + 0x2800 * x.2))).flatten
    ++ [(0x100 + 0x2800 * n, Memory.bytes s.ls ls g.carrySize), (0x100 + 0x2800 * n + g.carrySize, poisonBytes s ls g.carrySize)])

/-- Bytes of a phase record written and read. -/
def recordPut (s : State) (space place : Nat) (l : List Byte) : State :=
  if space = 0 then
    { s with
      vault := Memory.storeBytes s.vault place l
      vaultBad := SMap.keep s.vaultBad (fun a _ => !(decide (place / 128 ≤ a) && decide (a < (place + l.length) / 128))) }
  else sysPut s place l 0 0 none
def recordGet (s : State) (space place n : Nat) : List Byte := if space = 0 then Memory.bytes s.vault place n else sysBytes s place n

/-- The first poisoned granule of a phase record (R17). -/
def recordBad (s : State) (space place n : Nat) : Option Nat :=
  if space = 0 then
    ((rangeOf place n).find? (fun a => SMap.look false s.vaultBad a)).map (· * 128)
  else ((rangeOf place n).find? (fun line => (sysLine s line).2)).map (· * 128)

/-- A line of a phase record in memory that host agents hold, so that it is recalled before it is read, or written (R297). -/
def recordHeld (s : State) (space place n : Nat) (write : Bool) : Option Nat :=
  if space = 0 then none
  else (rangeOf place n).find? (fun line => if write then lineShared s line else lineBusy s line)

/-- The bytes of a phase record. -/
def recordLength (l : List Chunk) : Nat := l.foldl (fun n c => max n (c.1 + c.2.length)) 0

/-- Does a group's phase end still wait for a command, a token, a load or the matrix unit (R364)? DEDUCED: log 69. -/
def phaseWaits (s : State) (key : Nat) : Bool :=
  let g := s.group key
  let k := s.core (coreOf key)
  k.cmds.any (fun p => p.2.grp == key) || k.mq.any (fun j => j.grp == key) || k.loads.any (fun l => g.warps.contains l.warp)
    || g.warps.any (fun wp => (s.warp wp).tokPend != 0)

/-- A group's phase record is written, where it is not (R364). -/
def writePhase (s : State) (core grp : Nat) : State :=
  let g := s.group grp
  match g.phaseRec, phasePlace s core with
  | none, some (space, place) =>
    let (s, l) := phaseChunks s grp
    (l.foldl (fun s c => recordPut s space (place + c.1) c.2) s).setGroup grp { g with phaseRec := some (space, place) }
  | _, _ => s

/-- What a group holds is released, and its phase entry joins the die's list (R364). -/
def leavePhase (s : State) (core grp space place : Nat) : State :=
  let g := s.group grp
  let kept : Saved :=
    { phase := true, grp := { g with ending := false, phaseRec := none }, warps := g.warps.map (fun wp => (wp, s.warp wp)) }
  let s := releaseGroup { s with saved := s.saved ++ [kept] } grp
  let d := s.die (core / 32)
  s.setDie (core / 32) (d.writePhases (d.phases ++
    [{ kind := 2, priv := g.priv, originPrio := g.originPrio, originQ := g.originQ, originDie := g.originDie, launch := g.launch
       ref := BitVec.ofNat 80 place, group := g.gid, tgt := core, phaseNo := g.phaseNo + 1, recSpace := space, since := s.cycle }]))

/-- PHASE_END (R364): the record, then, once the phase list has room, the release of what the group holds and the phase entry. -/
def execPhaseEnd (core grp : Nat) (s : State) : Host.Outcome State Fault Refusal :=
  let g := s.group grp
  if coreOf grp ≠ core ∨ !SMap.has s.groups grp ∨ !g.ending ∨ g.faulted ∨ phaseWaits s grp then .next s
  else
    let held := if g.phaseRec.isSome then none
      else (phasePlace s core).bind (fun p => recordHeld s p.1 p.2 (recordLength (phaseChunks s grp).2) true)
    if let some line := held then .next (claimLine s line)
    else
    let s := writePhase s core grp
    match (s.group grp).phaseRec with
    | none => .next s
    | some (space, place) =>
      if 4096 ≤ (s.die (core / 32)).phases.length then .next s else .next (leavePhase s core grp space place)

/-- A warp as it resumes from its block: its splits at pc + 1 of their PHASE (R367). -/
def phaseWarp (p : Packet) (key : Nat) (kept : Warp) (b : List Byte) (priv : Bool) : Warp :=
  let cv := (List.range 16).map (fun i => field b (0x10 + i) 1)
  let cs : Word := BitVec.ofNat 64 (field b 0x20 8)
  let w := startWarp p 0 key 0 priv
  let sregs := (carriedS cs).zipIdx.filterMap (fun x =>
    let v : Word := BitVec.ofNat 64 (field b (0x140 + 8 * x.2) 8)
    if v = 0 then none else some (x.1, v))
  { w with
    alloc := BitVec.ofNat 32 (field b 0 4)
    v := (carriedV cv).zipIdx.map (fun x => (x.1, vregFrom ((b.drop (0x600 + 512 * x.2)).take 512)))
    sr := sregs
    frontier := (frontierFrom kept.frontier kept.frontier.length (b.drop 0x40)).map (fun x => { x with pc := x.pc + 1, wait := .ready })
    live := kept.live
    role := kept.role
    vtime := BitVec.ofNat 64 (field b 0x28 8)
    fpmode := BitVec.ofNat 64 (field b 0x180 8) &&& fpmodeMask
    agelim := agelimOf (BitVec.ofNat 64 (field b 0x188 8))
    fair := decide (field b 0x190 1 % 2 = 1)
    trapvec := BitVec.ofNat 64 (field b 0x198 8) &&& trapvecMask
    gen := gensFrom (b.drop 0x200)
    carryV := cv
    carryS := cs }

/-- A phase resumes on its target core (R367, R290). DEDUCED: log 79. -/
def resumePhase (s : State) (core : Nat) (e : QEntry) (v : Saved) (spot : List Nat × Nat) : State :=
  let p := packetOf s e.launch
  let key := spot.1.headD (core * 32)
  let place := e.ref.toNat
  let get (off n : Nat) : List Byte := recordGet s e.recSpace (place + off) n
  let h := get 0 256
  let n := v.warps.length
  let (seq, s) := s.takeId
  let g := groupOfPacket p e.launch e.group spot.1 spot.2
  let s := s.setGroup key
    { g with
      phaseNo := field h 8 2, carryOff := field h 0x20 4, carrySize := field h 0x24 4
      originQ := e.originQ, originDie := e.originDie, originPrio := e.originPrio, prio := e.originPrio, priv := e.priv, seq := seq }
  let s := clearArea s (core * 2 ^ 20 + spot.2) p.localsize
  let at_ := 0x100 + 0x2800 * n
  let size := field h 0x24 4
  let s := putImage s (core * 2 ^ 20 + spot.2 + field h 0x20 4) (get at_ size) (get (at_ + size) (poisonSize size))
  let s := (wrecOrder v.grp).zipIdx.foldl (fun s x =>
    match spot.1[v.grp.warps.idxOf x.1]? with
    | some wp => s.setWarp wp (phaseWarp p key (SMap.look {} v.warps x.1) (get (0x100 + 0x2800 * x.2) 0x2800) e.priv)
    | none => s) s
  s.raiseCt core (field h 0x10 8)

/-! ### Dispatch (R359, R466) -/

/-- What the device keeps for an entry of kind 2 or 3. -/
def savedFor (s : State) (e : QEntry) : Option Saved :=
  s.saved.find? (fun v => v.phase == (e.kind == 2) && v.grp.launch == e.launch && v.grp.gid == e.group)
def dropSaved (s : State) (e : QEntry) : State :=
  { s with saved := s.saved.filter (fun v => !(v.phase == (e.kind == 2) && v.grp.launch == e.launch && v.grp.gid == e.group)) }

/-- The entry at the head of a queue that is not halted. -/
def queueHead (s : State) (d q : Nat) : Option QEntry :=
  let x := s.queue d q
  if x.halted then none else x.entries.head?
def popHead (s : State) (d q : Nat) : State :=
  let x := s.queue d q
  s.setQueue d q (x.write (x.entries.drop 1))

/-- Has a launch faulted, or ended so (R466)? -/
def launchDead (s : State) (l : Nat) : Bool := !SMap.has s.launches l || (s.launch l).faulted

/-- Entries of faulted launches that have reached dispatch are discarded with their records (R466). DEDUCED: log 85. -/
def discardHeads (s : State) (d q : Nat) : List QEntry → State
  | [] => s
  | e :: r =>
    if (e.kind == 1 || e.kind == 3) && launchDead s e.launch && !(s.queue d q).halted then discardHeads (popHead (dropSaved s e) d q) d q r
    else s
def discardPhases (s : State) (core : Nat) : State :=
  let d := core / 32
  let out (e : QEntry) : Bool := e.tgt == core && launchDead s e.launch
  let gone := (s.die d).phases.filter out
  let s := gone.foldl dropSaved s
  s.setDie d ((s.die d).writePhases ((s.die d).phases.filter (fun e => !out e))).haltBad

/-- The place that an entry's group finds on a core through some slots (R358). -/
def entrySpot (s : State) (core : Nat) (mask : BitVec 32) (e : QEntry) : Option (List Nat × Nat) :=
  match e.kind with
  | 1 =>
    let p := packetOf s e.launch
    if e.bad then none else spotFor s core mask p.warps p.regs p.localsize
  | 2 => (savedFor s e).bind (fun v => if e.bad then none else spotFor s core mask v.warps.length v.grp.regs v.grp.lsSize)
  | 3 => (savedFor s e).bind (fun v =>
      if e.bad || !ownsFree s core v none then none else spotFor s core mask v.warps.length v.grp.regs v.grp.lsSize)
  | _ => none

/-- A candidate of a core's dispatcher: an entry of the phase list, by its place, or a bind record's queue head, by its number. -/
structure Cand where
  phase : Bool
  num : Nat
  prio : Nat
  pass : Nat := 0
  entry : QEntry
  spot : List Nat × Nat
  deriving DecidableEq, Repr

/-- Is a candidate picked before another (R359)? -/
def Cand.before (a b : Cand) : Bool :=
  if a.prio ≠ b.prio then decide (b.prio < a.prio)
  else if a.phase ≠ b.phase then a.phase
  else if a.phase then decide (a.num < b.num)
  else if a.pass ≠ b.pass then decide (a.pass < b.pass)
  else decide (a.num < b.num)

def bindOf (s : State) (core n : Nat) : Word := SMap.look 0 (s.core core).slots n

/-- The head that an enabled bind record serves. -/
def bindHead (s : State) (core n : Nat) : Option QEntry :=
  let b := bindOf s core n
  if bindEn b then queueHead s (bindQdie b) (bindQueue b) else none

/-- A core's candidates. DEDUCED: log 83. -/
def candidates (s : State) (core : Nat) : List Cand :=
  let d := s.die (core / 32)
  (if d.phaseHalted.contains core then [] else
    d.phases.zipIdx.filterMap (fun p =>
      if p.1.tgt = core then (entrySpot s core (BitVec.allOnes 32) p.1).map (fun x =>
        { phase := true, num := p.2, prio := p.1.originPrio, entry := p.1, spot := x })
      else none))
  ++ (List.range 16).filterMap (fun n =>
    let b := bindOf s core n
    (bindHead s core n).bind (fun e => (entrySpot s core (bindSlots b) e).map (fun x =>
      { phase := false, num := n, prio := bindPrio b, pass := SMap.look 0 (s.core core).pass n, entry := e, spot := x })))

/-- The candidate that a core's dispatcher picks. -/
def picked (s : State) (core : Nat) : Option Cand :=
  match candidates s core with
  | [] => none
  | c :: r => some (r.foldl (fun b x => if x.before b then x else b) c)

/-- A record that has dispatched (R359). -/
def passRecord (s : State) (core n : Nat) : State :=
  let k := s.core core
  s.setCore core { k with pass := SMap.set n (SMap.look 0 k.pass n + 65536 / max 1 (bindShare (bindOf s core n))) k.pass }

/-- A candidate's group takes its place on a core (R351, R355, R359). -/
def placeCand (s : State) (core : Nat) (c : Cand) : State :=
  if c.phase then
    match savedFor s c.entry with
    | none => s
    | some v =>
      let d := s.die (core / 32)
      let place := c.entry.ref.toNat
      let size := field (recordGet s c.entry.recSpace place 256) 0x24 4
      let n := 0x100 + 0x2800 * v.warps.length + size + poisonSize size
      if let some line := recordHeld s c.entry.recSpace place n false then recallHost s line
      else if let some a := recordBad s c.entry.recSpace place n then spoiltRecord s core c.entry.launch c.entry.group a
      else
      let s := resumePhase s core c.entry v c.spot
      dropSaved (s.setDie (core / 32) (d.writePhases (d.phases.eraseIdx c.num))) c.entry
  else
    let b := bindOf s core c.num
    if c.entry.kind = 1 then
      let l := c.entry.launch
      let gid := c.entry.group
      let s := startGroup s core l gid c.spot (bindPrio b) (bindPrivOk b)
      let x := s.launch l
      let s := s.setLaunch l { x with next := gid + 1 }
      let q := s.queue (bindQdie b) (bindQueue b)
      let s := s.setQueue (bindQdie b) (bindQueue b)
        (q.write (if (packetOf s l).groups ≤ gid + 1 then q.entries.drop 1 else { c.entry with group := gid + 1 } :: q.entries.drop 1))
      passRecord s core c.num
    else
      match savedFor s c.entry with
      | none => s
      | some v =>
        match restoreGroup s core c.entry.ref.toNat v c.spot.1 c.spot.2 with
        | (s, false) => s
        | (s, true) =>
          let key := c.spot.1.headD (core * 32)
          let s := if SMap.has s.groups key then s.setGroup key { s.group key with prio := bindPrio b } else s
          passRecord (dropSaved (popHead s (bindQdie b) (bindQueue b)) c.entry) core c.num

/-- A candidate dispatched; its group's first instruction is awaited (R208, R359). -/
def dispatchCand (s : State) (core : Nat) (c : Cand) : State :=
  let s := placeCand s core c
  let key := c.spot.1.headD (core * 32)
  if SMap.has s.groups key then s.setGroup key { s.group key with queued := some c.entry.since } else s

/-! ### Pre-emption (R360) -/

/-- The state as it will be once the core's saves have ended. -/
def withoutSaving (s : State) (core : Nat) : State :=
  let gone (g : Nat) : Bool := coreOf g == core && (s.group g).saving
  let k := s.core core
  let free (o : Option Nat) : Bool := o.any gone
  let s := s.setCore core { k with
    tiles := SMap.keep k.tiles (fun _ t => !free t.owner), sluices := SMap.keep k.sluices (fun _ x => !free x.owner)
    dross := SMap.keep k.dross (fun _ x => !free x.owner)
    board := k.board.filter (fun e => !(k.cmds.any (fun c => c.2.seq == e.seq && gone c.2.grp)))
    cmds := SMap.keep k.cmds (fun _ c => !gone c.grp) }
  { s with groups := SMap.keep s.groups (fun g _ => !gone g), warps := SMap.keep s.warps (fun _ w => !gone w.grp) }

/-- The groups of a core that a record of some priority may pre-empt, latest-dispatched first. -/
def victims (s : State) (core prio : Nat) : List Nat :=
  let l := (groupsOn s core).filter (fun p => decide (p.2.prio < prio))
  (l.foldl (fun acc p => acc.takeWhile (fun q => decide (p.2.seq < q.2.seq)) ++ [p] ++ acc.dropWhile (fun q => decide (p.2.seq < q.2.seq))) []).map Prod.fst

/-- The dispatcher pre-empts for one record's head until it fits or no group remains. DEDUCED: log 84. -/
def preemptFor (s : State) (core : Nat) (mask : BitVec 32) (e : QEntry) : List Nat → State
  | [] => s
  | g :: r =>
    if (entrySpot (withoutSaving s core) core mask e).isSome then s
    else if canSave s g && areaFree s g (saveArea s g) then preemptFor (saveBegin s g (saveArea s g)) core mask e r
    else preemptFor s core mask e r

/-- The pre-emption that a core's records ask for. -/
def preempt (s : State) (core : Nat) : State :=
  (List.range 16).foldl (fun s n =>
    let b := bindOf s core n
    match bindHead s core n with
    | some e =>
      if bindPreempt b && (e.kind == 1 || (e.kind == 3 && (savedFor s e).isSome)) && !e.bad && (entrySpot s core (bindSlots b) e).isNone then
        preemptFor s core (bindSlots b) e (victims s core (bindPrio b))
      else s
    | none => s) s

/-- Does a gated core have work that wakes it (R461)? -/
def wakesFor (s : State) (core : Nat) : Bool :=
  let d := s.die (core / 32)
  (!d.phaseHalted.contains core && d.phases.any (fun e => e.tgt == core))
    || (List.range 16).any (fun n => (bindHead s core n).any (fun e => (entrySpot s core (bindSlots (bindOf s core n)) e).isSome))

/-- The queues whose heads a core's records serve, cleared of faulted launches. -/
def discardFor (s : State) (core : Nat) : State :=
  let s := discardPhases s core
  (List.range 16).foldl (fun s n =>
    let b := bindOf s core n
    if bindEn b then discardHeads s (bindQdie b) (bindQueue b) (s.queue (bindQdie b) (bindQueue b)).entries else s) s

/-- DISPATCH (R359): one decision of a core's dispatcher. -/
def execDispatch (core : Nat) (s : State) : Host.Outcome State Fault Refusal :=
  if 256 ≤ core ∨ s.resetting.isSome then .next s
  else
    let s := settlePreempts (discardFor s core)
    if (s.core core).power ≠ .on then .next (if wakesFor s core then wakeCore s core else s)
    else
      let s := preempt s core
      match picked s core with
      | none => .next s
      | some c => .next (dispatchCand s core c)

/-- GROUP_RESTORE (R220): the dispatcher's decision, where it falls on a saved group at the head of a bind record's queue. -/
def execGroupRestore (core bindIx : Nat) (s : State) : Host.Outcome State Fault Refusal :=
  match picked s core with
  | some c =>
    if s.resetting = none ∧ (s.core core).power = .on ∧ core < 256 ∧ c.phase = false ∧ c.num = bindIx ∧ c.entry.kind = 3 ∧ !launchDead s c.entry.launch then
      .next (dispatchCand s core c)
    else .next s
  | none => .next s

/-! ### The Weir (R373) -/

def queuedOn (s : State) (core : Nat) : Nat := ((s.die (core / 32)).phases.filter (fun e => e.tgt == core)).length
def busySlots (s : State) (core : Nat) : Nat := (s.warps.filter (fun w => coreOf w.1 == core)).length

/-- The migration command that a die's Weir issues, if any. -/
def weirCommand (s : State) (die : Nat) : Option Word :=
  let cores := (List.range 32).map (fun i => die * 32 + i)
  let first := die * 32
  let src := cores.foldl (fun b c => if queuedOn s b < queuedOn s c then c else b) first
  let dst := cores.foldl (fun b c =>
    if queuedOn s c < queuedOn s b ∨ (queuedOn s c = queuedOn s b ∧ busySlots s c < busySlots s b) then c else b) first
  let diff := queuedOn s src - queuedOn s dst
  if 2 ≤ diff then some (BitVec.ofNat 64 (src + dst * 256 + min 255 (diff / 2) * 2 ^ 16)) else none

/-- WEIR_BALANCE (R373): a microsecond's decision of a die's Weir, in hardware mode. -/
def execWeirBalance (die : Nat) (s : State) : Host.Outcome State Fault Refusal :=
  if 8 ≤ die || hostAssisted s 1 then .next s
  else
    match weirCommand s die with
    | some cmd => .next (migrate s cmd).1
    | none => .next s

/-! ### The end of a launch (R353, R372, R452, R453, R466) -/

/-- Does a slice's line end with a launch: a copy of host memory, or a replica beside the core that asked for it (R235, R453)? A line that
its die owns or gives back is a copy of another kind. One whose launch has left no load ends with the next. -/
def endsWith (l : Nat) (p : Nat × L2Line) : Bool :=
  let die := p.1 / 2 ^ 45
  let line := p.1 % 2 ^ 45
  ((p.2.launch == l && (p.2.hc || (p.2.rep && die != homeDie line))) || (p.2.launch == 0 && p.2.hc && hostLine line))
    && !p.2.own && !p.2.putting

/-- The copies of host memory and the replicas that a launch made end with it (R235, R453). DEDUCED: log 23. -/
def dropHostCopies (s : State) (l : Nat) : State :=
  let s := { s with l1 := SMap.keep s.l1 (fun _ x => !((x.hc || x.rep) && x.launch == l)) }
  (s.l2.filter (endsWith l)).foldl (fun s p => evictLine s (p.1 / 2 ^ 45) (p.1 % 2 ^ 45)) s

/-- A launch ends: its LAUNCH token, its node, its regeneration request and its notify record learn of it. -/
def endLaunch (s : State) (l : Nat) : State :=
  let x := s.launch l
  let s := dropHostCopies { s with launches := SMap.erase l s.launches } l
  let s := match x.token with
    | some (core, n) =>
      let s := s.hear (core / 32)
      match (s.core core).cmd n with
      | some m =>
        if m.child = some l then
          endCmd s core n { m with amount := (readPacket x.bytes).groups, err := if x.faulted then some (4, 0) else none, finished := true }
        else s
      | none => s
    | none => s
  let s := match x.node with
    | some (d, n) =>
      let s := s.hear d
      let die := s.die d
      match SMap.find die.nodes n with
      | some y => if y.launch = some l then s.setDie d { die with nodes := SMap.set n { y with launch := none, faulted := x.faulted } die.nodes } else s
      | none => s
    | none => s
  let s := match x.regen with
    | some id => { s with reqs := s.reqs.map (fun r => if r.id = id then { r with ended := some x.faulted } else r) }
    | none => s
  match x.notify with
  | some m => complete s m (if x.faulted then 6 else 5) l
  | none => s

/-- LAUNCH_COMPLETE (R353): every group of a launch has finished. -/
def execLaunchComplete (launch : Nat) (s : State) : Host.Outcome State Fault Refusal :=
  if !SMap.has s.launches launch || (s.launch launch).faulted || launchBusy s launch || launchStores s launch then .next s
  else .next (endLaunch s launch)

/-- LAUNCH_FAULTED_END (R466): no group of a faulted launch is resident and its stores have drained or failed. -/
def execLaunchFaultedEnd (launch : Nat) (s : State) : Host.Outcome State Fault Refusal :=
  let busy := s.groups.any (fun g => g.2.launch == launch)
  if !SMap.has s.launches launch || !(s.launch launch).faulted || busy || launchStores s launch then .next s
  else .next (endLaunch s launch)

end Sys2Proof.Machine
end

