-- ==== Sys2Proof/Machine/Service.lean ====
section
/-! DEFINITION. The page-fault service, regeneration and victims (R256, R261 to R264), and the accesses that the graph walker and
Avosh make in an address space. -/

namespace Sys2Proof.Machine

/-! ### Accesses in an address space -/

/-- An address space as the device reaches it: the die whose first cluster translates, ASID and root. -/
structure Reach where
  die : Nat
  asid : Nat
  root : Nat
  deriving DecidableEq, Repr

/-- A fault of one of the device's own accesses goes to the page-fault service, once. -/
def reachAsk (s : State) (who : Asker) (x : Reach) (va : Nat) (need : Need) : State :=
  if s.reqs.any (fun r => r.asker == who && r.va / 2 ^ 16 == va / 2 ^ 16) then s
  else (askService s who x.asid x.root va need).1

/-- A piece of n bytes of one line translated, and made ready to be read, or to be written. -/
def reachLine (s : State) (who : Asker) (x : Reach) (va n : Nat) (need : Need) : EngRes (Nat × Word) :=
  match translate s (x.die * 32) x.asid x.root va need with
  | (s, .busy line) => .again (recallHost s line)
  | (s, .fault _ _) => .again (reachAsk s who x va need)
  | (s, .ok pa pte) => match unitLine s (x.die * 32) (pa / 128) x.asid pte need (halvesAt (pa % 128) n) with
    | (s, true) => .ok s (pa / 128, pte)
    | (s, false) => .again s

/-- Bytes read; those of a cast page as a load evaluates them (R427). -/
def reachRead (s : State) (who : Asker) (x : Reach) (va n : Nat) : EngRes (List Datum) :=
  (linePieces va n).foldl (fun acc p => match acc with
    | .again s => .again s
    | .ok s l => match reachLine s who x p.1 p.2 .read with
      | .again s => .again s
      | .ok s (line, pte) =>
        if pteCast pte then
          if (List.range p.2).any (fun i => (regionAt s x.asid (p.1 + i)).all (fun r => r.2.st.waits)) then .again s
          else .ok s (l ++ (List.range p.2).map (fun i => match regionAt s x.asid (p.1 + i) with
            | some (_, r) => castByte s r (p.1 + i)
            | none => (0, false)))
        else
          let y := sysLine s line x.asid pte
          .ok s (l ++ (List.range p.2).map (fun i => (lineByte y.1 ((p.1 + i) % 128), y.2)))) (.ok s [])

/-- The lines of a range that is to be written. The answer tells whether one lies on a cast page. -/
def reachProbe (s : State) (who : Asker) (x : Reach) (va n : Nat) : EngRes Bool :=
  (linePieces va n).foldl (fun acc p => match acc with
    | .again s => .again s
    | .ok s b => match reachLine s who x p.1 p.2 .write with
      | .again s => .again s
      | .ok s (_, pte) => .ok s (b || pteCast pte)) (.ok s false)

/-- Bytes written to a range whose lines are translated. -/
def reachWrite (s : State) (x : Reach) (va : Nat) (l : List Datum) : State :=
  (linePieces va l.length).foldl (fun s p =>
    match translate s (x.die * 32) x.asid x.root p.1 .write with
    | (s, .ok pa pte) =>
      let off := (p.1 + 2 ^ 80 - va % 2 ^ 80) % 2 ^ 80
      let part := (l.drop off).take p.2
      let data := part.zipIdx.foldl (fun (y : Line) d => lineSet y (p.1 % 128 + d.2) d.1.1) 0
      sysStore s (pa / 128) data (byteSpan (p.1 % 128) p.2) (part.any Prod.snd) x.asid pte none
    | (s, _) => s) s

/-! ### Answers (R256, R259, R261, R320) -/

def findReq (s : State) (id : Nat) : Option FaultReq := s.reqs.find? (fun r => r.id == id)
def dropReq (s : State) (id : Nat) : State := { s with reqs := s.reqs.filter (fun r => r.id != id) }

/-- A warp's answer: once none of its requests is left, its instruction goes on, with the pages refused to it. -/
def answerWarp (s : State) (r : FaultReq) (wp : Nat) (refused : Option Bool) : State :=
  let w := s.warp wp
  if !SMap.has s.warps wp || w.block != .fault then s
  else
    let w := match refused with
      | some perm => { w with verdict := w.verdict ++ [(r.va / 2 ^ 16, perm)] }
      | none => w
    let left := s.reqs.any (fun q => q.asker == .warp wp)
    s.setWarp wp (if left then w else { w with block := .free })

/-- An answer reaches who asked: refused with 'not permitted' or 'no mapping', or mapped. -/
def answer (s : State) (r : FaultReq) (refused : Option Bool) : State :=
  let s := dropReq s r.id
  match r.asker with
  | .warp wp => answerWarp s r wp refused
  | .side core id =>
    let k := s.core core
    let upd (x : Store) : Store :=
      if x.id = id ∧ x.req = some r.id then
        match refused with
        | none => { x with req := none, ready := true }
        | some perm => { x with req := none, ready := true, fail := true, reason := if perm then 1 else 0 }
      else x
    s.setCore core { k with sidelog := k.sidelog.map upd }
  | .cmd core n =>
    match (s.core core).cmd n with
    | some m =>
      if m.req ≠ some r.id then s
      else setCmd s core n { m with req := none, err := refused.map (fun perm => (if perm then 1 else 0, r.va)) }
    | none => s
  | .node die n =>
    let d := s.die die
    match refused, SMap.find d.nodes n with
    | some _, some x => s.setDie die { d with nodes := SMap.set n { x with faulted := true } d.nodes }
    | _, _ => s
  | .load die q =>
    match refused with
    | none => s
    | some _ =>
      let x := s.queue die q
      s.setQueue die q (x.write (x.entries.modify 0 (fun e => if e.kind = 4 then { e with kind := 5 } else e)))
  | .gone => s

/-- The place of the entry at which a walk ends. -/
def Walk.place? (x : Walk) : Option Nat :=
  match x with
  | .leaf _ place _ => some place
  | .stop place _ _ => some place
  | .denied place _ => some place
  | .busy _ => none

/-- A page-table entry written where the walk of a VA ends. -/
def writePte (s : State) (root va asid : Nat) (pte : Word) : State :=
  match (walk s root va asid).place? with
  | some place => sysPut s place (bytesOfNat 8 pte.toNat) asid 0 none
  | none => s

/-- Has the line of that entry, or of a table before it, to be recalled before it is written? -/
def walkBusy (s : State) (root va asid : Nat) : Bool :=
  match (walk s root va asid).place? with
  | some place => lineShared s (place / 128) (halvesAt (place % 128) 8)
  | none => true

/-- It is recalled. -/
def walkClaim (s : State) (root va asid : Nat) : State :=
  match walk s root va asid with
  | .busy line => recallHost (walkReady s va asid 5 root) line
  | x => match x.place? with
    | some place => claimLine s (place / 128) (halvesAt (place % 128) 8)
    | none => s

/-- Is a VA mapped by a leaf? -/
def mapped (s : State) (root va asid : Nat) : Bool :=
  match walk s root va asid with
  | .leaf .. => true
  | _ => false

/-! ### Regeneration (R262, R263) -/

/-- Do two requests wait for one page? A page that is being regenerated is the one whose entry the walk stops at. -/
def samePage (s : State) (a b : FaultReq) : Bool :=
  let place (r : FaultReq) : Option Nat := (walk s r.root r.va r.asid).place?
  a.asid == b.asid && a.root == b.root && (a.va / 2 ^ 16 == b.va / 2 ^ 16 || ((place a).isSome && place a == place b))

/-- The live launch that locates an address space's regeneration table (R262). DESIGN CHOICE: log 47. -/
def regenLaunch (s : State) (asid : Nat) : Option (Nat × Packet) :=
  ((s.launches.map (fun p => (p.1, readPacket p.2.bytes))).find? (fun p => p.2.asid == asid && p.2.regen != 0))

/-- The entry's number of a page that is to be regenerated. -/
def regenIndex (s : State) (r : FaultReq) : Nat :=
  match walk s r.root r.va r.asid with
  | .stop _ x _ => pteRgx x
  | _ => 0

def setReq (s : State) (r : FaultReq) : State := { s with reqs := s.reqs.map (fun x => if x.id = r.id then r else x) }

/-- The level at which a walk from a table ends. -/
def endLevel (s : State) (va asid : Nat) : Nat → Nat → Nat
  | 0, _ => 0
  | n + 1, table =>
    let x := entryWord s (entryPlace va n table) asid
    if !pteV x || pteLeaf x then n else endLevel s va asid n (pteFrame x)

/-- The size of a request's page, and its base: the lowest VA under the entry at which its walk stops. -/
def pageShift (s : State) (r : FaultReq) : Nat := levelShift (endLevel s r.va r.asid 5 r.root)
def pageBase (s : State) (r : FaultReq) : Nat := r.va / 2 ^ pageShift s r * 2 ^ pageShift s r

/-- A line of a frame that a host agent holds: it gives it up first (R297). -/
def frameHeld (s : State) (pa n : Nat) : Option Nat :=
  (s.dir.find? (fun p => decide (pa / 128 ≤ p.1) && decide (p.1 < (pa + n) / 128) && lineShared s p.1)).map Prod.fst

/-- A frame that Avosh has allocated is zeroed: no copy of what it held stays in the device (R263). -/
def zeroFrame (s : State) (pa n : Nat) : State :=
  let out (line : Nat) : Bool := !(decide (pa / 128 ≤ line) && decide (line < (pa + n) / 128))
  { s with
    phys := Memory.clear s.phys pa n
    physBad := SMap.keep s.physBad (fun k _ => out k), tags := SMap.keep s.tags (fun k _ => out k), prots := SMap.keep s.prots (fun k _ => out k)
    l1 := SMap.keep s.l1 (fun _ c => out c.line), l2 := SMap.keep s.l2 (fun k _ => out (k % 2 ^ 45)), filled := SMap.keep s.filled (fun k _ => out k), dir := SMap.keep s.dir (fun k _ => out k)
    windows := s.windows.filter (fun x => out x.line) }

/-- The frame that an alias of an address space maps, of a page of some size. -/
def aliasFrame (s : State) (root asid alias_ shift : Nat) : Option Nat :=
  match walk s root alias_ asid with
  | .leaf level _ x =>
    if levelShift level = shift ∧ !pteCast x ∧ !unpopulated (pteFrame x) ∧ !s.msgs.any (fun m =>
        decide (pteFrame x / 128 ≤ m.line) && decide (m.line < (pteFrame x + 2 ^ shift) / 128)) then some (pteFrame x) else none
  | _ => none

/-- The device launches the kernel of a page's table entry, with its three arguments written to its argument block, when its queue has
room and the entry's limit allows it (R262, R263, R352). `alias_` is a VA that maps the frame which Avosh has allocated, and which
is zeroed. DEDUCED: log 142. -/
def regenStart (s : State) (r : FaultReq) (alias_ : Word) : State :=
  match regenLaunch s r.asid, aliasFrame s r.root r.asid alias_.toNat (pageShift s r) with
  | none, _ => answer s r (some false)
  | _, none => s
  | some (l, p), some frame =>
    if let some line := frameHeld s frame (2 ^ pageShift s r) then claimLine s line
    else
    let x := s.launch l
    let d := x.qdie
    let reach : Reach := { die := d, asid := r.asid, root := r.root }
    let rgx := regenIndex s r
    match reachRead s .gone reach (p.regen + 32 * rgx) 32 with
    | .again s => s
    | .ok s e =>
      let e := e.map Prod.fst
      let running := (s.reqs.filter (fun q => q.regen == 1 && q.asid == r.asid && q.rgx == rgx
        && s.launches.any (fun y => y.2.regen == some q.id))).length
      if field e 16 2 ≤ running || !(s.queue d x.queue).room then s
      else
        match reachRead s .gone reach (field e 0 8) 256 with
        | .again s => s
        | .ok s b =>
          let b := b.map Prod.fst
          if !packetOk b then answer s r (some false)
          else
            let args := (readPacket b).args
            match reachProbe s .gone reach args 24 with
            | .again s => s
            | .ok s true => answer s r (some false)
            | .ok s false =>
              let l := bytesOfNat 8 (pageBase s r) ++ bytesOfNat 8 (field e 8 8) ++ bytesOfNat 8 alias_.toNat
              let s := reachWrite (zeroFrame s frame (2 ^ pageShift s r)) reach args (l.map (fun y => (y, false)))
              let (s, _) := acceptLaunch s d x.queue b (fun y => { y with regen := some r.id }) none
              setReq s { r with regen := 1, rgx := rgx, frame := frame }

/-- A page that is to be regenerated: it joins a regeneration that runs, is launched, or goes to the host by a record of class 0x12
(R263, R464). -/
def regenerate (s : State) (r : FaultReq) (alias_ : Word) : State :=
  match s.reqs.find? (fun q => q.id != r.id && q.regen != 0 && samePage s q r) with
  | some q => if r.regen = 0 then setReq s { r with regen := 3, rgx := q.rgx } else s
  | none =>
    if r.regen ≠ 0 then s
    else if hostAssisted s 3 then
      (setReq s { r with regen := 2, host := true }).record { cls := 0x12, sev := 2, addr := r.va, info := r.id }
    else regenStart s r alias_

/-- The requests that wait for a page, those that have not been taken up too: they meet the same regeneration (R263). -/
def onPage (s : State) (r : FaultReq) : List FaultReq := s.reqs.filter (fun q => q.id == r.id || samePage s q r)

/-- They are answered together. -/
def answerPage (s : State) (r : FaultReq) (refused : Option Bool) : State := (onPage s r).foldl (fun s q => answer s q refused) s

/-- PAGE_FAULT_SERVICE (R256): Avosh answers a request: 0 mapped, with the entry that it writes unless that is 0; 1 regenerable, with the
alias of the frame; 2 no mapping; 3 not permitted. DEDUCED: log 90. -/
def execPageFaultService (req outcome : Nat) (pte : Word) (s : State) : Host.Outcome State Fault Refusal :=
  match findReq s req with
  | none => .next s
  | some r =>
    let regen := regenPage s r.root r.va r.asid
    if r.host then .next s
    else if walkBusy s r.root r.va r.asid then .next (walkClaim s r.root r.va r.asid)
    else if outcome = 1 then (if regen then .next (regenerate s r pte) else .next s)
    else if regen || r.regen != 0 then .next s
    else
      match outcome with
      | 0 =>
        let s := if pteV pte then writePte s r.root r.va r.asid pte else s
        if mapped s r.root r.va r.asid then .next (answer s r none) else .next s
      | 2 => if mapped s r.root r.va r.asid then .next s else .next (answer s r (some false))
      | 3 => if mapped s r.root r.va r.asid then .next (answer s r (some true)) else .next s
      | _ => .next s

/-- REGENERATION_COMPLETE (R263): the kernel has ended; Avosh writes the entry with the frame, or the page counts as unmapped. -/
def execRegenerationComplete (req : Nat) (faulted : Bool) (pte : Word) (s : State) : Host.Outcome State Fault Refusal :=
  match findReq s req with
  | none => .next s
  | some r =>
    if r.regen ≠ 1 ∨ r.ended ≠ some faulted then .next s
    else if faulted then .next (answerPage s r (some false))
    else if walkBusy s r.root r.va r.asid then .next (walkClaim s r.root r.va r.asid)
    else if !pteV pte ∨ pteFrame pte ≠ r.frame then .next s
    else .next ((onPage s r).foldl (fun s q => answer s q none) (writePte s r.root r.va r.asid pte))

/-! ### Victims (R264) -/

/-- The root of an address space, from a live launch. -/
def rootOf (s : State) (asid : Nat) : Option Nat :=
  ((s.launches.map (fun p => readPacket p.2.bytes)).find? (fun p => p.asid == asid)).map (fun p => p.root)

/-- Does an access that was translated before still run on a line of a physical range? -/
def rangeInFlight (s : State) (pa n : Nat) : Bool :=
  let within (line : Nat) : Bool := decide (pa / 128 ≤ line) && decide (line < (pa + n) / 128)
  s.cores.any (fun k => k.2.loads.any (fun l => l.space == .virt && l.todo.any (fun t => within t.line))
    || k.2.stores.any (fun x => x.space == .virt && within x.line) || k.2.pushes.any (fun p => within p.line))
    || s.msgs.any (fun m => within m.line)

/-- A page's translations and L1 copies leave every cluster. -/
def shootDown (s : State) (asid shift va : Nat) : State :=
  (List.range 64).foldl (fun s c =>
    tlbDrop s c (fun e => e.asid == asid && e.shift == shift && e.page == va / 2 ^ shift) (inPage asid shift (va / 2 ^ shift))) s

/-- The lines of a page leave the device: written back, or with their modifications discarded. -/
def evictLines (s : State) (pa n : Nat) (drop : Bool) : State :=
  let lines := (s.l2.map (fun p => p.1 % 2 ^ 45)).dedup.filter (fun l => decide (pa / 128 ≤ l) && decide (l < (pa + n) / 128))
  lines.foldl (fun s l =>
    let s := (collect s l).1
    let s := if drop then s else writeBackLine s l 0 0
    s.dropL2 (homeDie l) l) s

/-- VICTIM_EVICT (R12, R215, R264): in hardware mode Avosh samples a page's accessed bit and clears it, or evicts the page when the bit is
clear; in host-assisted mode of the page-fault service the host does. DEDUCED: log 89. -/
def execVictimEvict (asid : Nat) (va : Addr) (s : State) : Host.Outcome State Fault Refusal :=
  match rootOf s asid with
  | none => .next s
  | some root =>
    if hostAssisted s 6 then .next s
    else
    match walk s root va.toNat asid with
    | .leaf level place x =>
      let shift := levelShift level
      let pa := pteFrame x
      let dt := 2 ^ shift
      if pteCast x || rangeInFlight s pa dt then .next s
      else if walkBusy s root va.toNat asid then .next (walkClaim s root va.toNat asid)
      else
        match frameHeld s pa dt with
        | some line => .next (claimLine s line)
        | none =>
        let s := shootDown s asid shift va.toNat
        if x.getLsbD 5 then .next (sysPut s place (bytesOfNat 8 (x &&& ~~~ 0x20#64).toNat) asid 0 none)
        else
          let s := sysPut s place (bytesOfNat 8 (x &&& ~~~ 1#64).toNat) asid 0 none
          .next (evictLines s pa dt (pteRegen x))
    | _ => .next s

end Sys2Proof.Machine
end

