-- ==== Sys2Proof/Machine/Graph.lean ====
section
/-! DEFINITION. The dies' graph walkers (R376 to R379), and errors in queues and graphs (R381). -/

namespace Sys2Proof.Machine

/-! ### Nodes (R376, R377) -/

def State.node (s : State) (d n : Nat) : Node := SMap.look {} (s.die d).nodes n
def State.setNode (s : State) (d n : Nat) (x : Node) : State :=
  let die := s.die d
  s.setDie d { die with nodes := if x.kind = 0 then SMap.erase n die.nodes else SMap.set n x die.nodes }

/-- A node read from its 64 bytes, with its counter at init. -/
def readNode (b : List Byte) (asid root : Nat) : Node :=
  { kind := field b 0 1, init := field b 2 2, count := field b 2 2, shadow := field b 2 2
    succ := ((List.range 8).map (fun i => field b (8 + 2 * i) 2)).take (field b 0x18 1)
    cword := field b 0x19 1, queue := field b 0x1A 1, len := field b 0x1C 4
    vaA := BitVec.ofNat 80 (field b 0x20 16), vaB := BitVec.ofNat 80 (field b 0x30 16), asid := asid, root := root }

/-- Does a node keep to R377? -/
def nodeOk (b : List Byte) : Bool :=
  let n := field b 0x18 1
  let succ := (List.range 8).map (fun i => field b (8 + 2 * i) 2)
  decide (field b 0 1 ≤ 5) && field b 1 1 == 0 && decide (field b 2 2 ≤ 4095) && field b 6 2 == 0 && decide (n ≤ 8)
    && (succ.take n).all (fun x => decide (x < 4096)) && (field b 0 1 == 0 || (succ.drop n).all (fun x => x == 0xFFFF))
    && field b 0x1B 1 == 0 && field b 0x2A 6 == 0 && field b 0x3A 6 == 0

/-- A load's error record (R376, R456). DEDUCED: log 86. -/
def loadRecord (s : State) (d q : Nat) (e : QEntry) : State :=
  s.record { cls := 0x06, sev := 1, die := d, slot := q, addr := e.ref.toNat }

/-- Nodes put into a store from an index. -/
def putNodes (s : State) (d first : Nat) (l : List Node) : State :=
  l.zipIdx.foldl (fun s x =>
    let s := s.setNode d (first + x.2) { x.1 with ready := x.1.kind != 0 && x.1.init == 0 }
    let die := s.die d
    let ready := die.readyList.filter (· != first + x.2)
    s.setDie d { die with readyList := if x.1.kind ≠ 0 ∧ x.1.init = 0 then ready ++ [first + x.2] else ready }) s

/-- GRAPH_LOAD (R376): the kind 4 entry at a queue's head loads its nodes. -/
def execGraphLoad (die queue : Nat) (s : State) : Host.Outcome State Fault Refusal :=
  match queueHead s die queue with
  | none => .next s
  | some e =>
    if e.bad then .next s
    else if e.kind = 5 then .next (popHead (loadRecord s die queue e) die queue)
    else if e.kind ≠ 4 then .next s
    else
      let n := e.group
      let first := e.tgt
      let reach : Reach := { die := die, asid := e.asid, root := e.root }
      if 4096 < first + n then .next (popHead (loadRecord s die queue e) die queue)
      else
        match reachRead s (.load die queue) reach e.ref.toNat (64 * n) with
        | .again s => .next s
        | .ok s b =>
          let raw := (List.range n).map (fun i => ((b.drop (64 * i)).take 64).map Prod.fst)
          let nodes := raw.map (fun r => readNode r e.asid e.root)
          let overlap := nodes.zipIdx.any (fun x => x.1.kind != 0 && (s.node die (first + x.2)).kind != 0)
          if overlap || raw.any (fun r => !nodeOk r) then .next (popHead (loadRecord s die queue e) die queue)
          else
            let s := popHead (putNodes s die first nodes) die queue
            let d := s.die die
            .next (s.setDie die { d with graphHalted := d.graphHalted && d.nodes.any (fun p => p.2.faulted || p.2.bad) })

/-! ### Release and completion (R378) -/

/-- The graph halts at a node (R378). DEDUCED: log 87. -/
def haltGraph (s : State) (d n : Nat) : State :=
  let s := s.setNode d n { s.node d n with faulted := true, running := false, launch := none }
  let s := s.setDie d { s.die d with graphHalted := true }
  s.record { cls := 0x05, sev := 1, die := d, slot := n }

/-- A node's counter falls by 1; at 0 the node is ready. -/
def releaseNode (s : State) (d n : Nat) : State :=
  let x := s.node d n
  if x.kind = 0 ∨ x.count = 0 then s
  else
    let s := s.setNode d n { x.write (x.count - 1) with ready := x.ready || x.count == 1 }
    if x.count = 1 then s.setDie d { s.die d with readyList := (s.die d).readyList ++ [n] } else s

/-- The successors that a completed node releases: none where a conditional has none to pick. -/
def nodeTargets (x : Node) (c : Nat) : Option (List Nat) :=
  match x.kind with
  | 4 => (x.succ[min c (x.succ.length - 1)]?).map (fun t => [t])
  | 5 => some (if c ≠ 0 then x.succ.take 1 else x.succ.drop 1)
  | _ => some x.succ

/-- A node completes: its counter is reloaded and its successors are released; or the graph halts. -/
def completeNode (s : State) (d n : Nat) : State :=
  let x := s.node d n
  let c := (SMap.look 0 (s.die d).cwords x.cword).toNat
  if x.faulted then haltGraph s d n
  else
    match nodeTargets x c with
    | none => haltGraph s d n
    | some l =>
      let s := s.setNode d n { x.write x.init with running := false, launch := none }
      if (s.die d).graphHalted then s else l.foldl (fun s t => releaseNode s d t) s

/-- A node starts to run: it is ready no more. -/
def startNode (s : State) (d n : Nat) (x : Node) : State :=
  let s := s.setNode d n { x with ready := false, held := false, running := true }
  s.setDie d { s.die d with readyList := (s.die d).readyList.filter (· != n) }

/-- A kernel node's launch entry is appended, or held until its queue has an entry (R354, R378). -/
def runKernel (s : State) (d n : Nat) (x : Node) : State :=
  let earlier := (s.die d).readyList.takeWhile (· != n)
  let blocked := earlier.any (fun m => (s.node d m).held && (x.held || (s.node d m).queue == x.queue))
  if !(s.queue d x.queue).anyRoom || blocked then s.setNode d n { x with held := true }
  else
    match reachRead s (.node d n) { die := d, asid := x.asid, root := x.root } x.vaA.toNat 256 with
    | .again s => s
    | .ok s b =>
      if !packetOk (b.map Prod.fst) || b.any Prod.snd then haltGraph (startNode s d n x) d n
      else
        let (s, id) := acceptLaunch s d x.queue (b.map Prod.fst) (fun l => { l with node := some (d, n) }) (some n)
        startNode s d n { x with launch := some id }

/-- A copy node's bytes are copied (R326, R378); a cast page as destination is a fault. -/
def runCopy (s : State) (d n : Nat) (x : Node) : State :=
  let reach : Reach := { die := d, asid := x.asid, root := x.root }
  match reachRead s (.node d n) reach x.vaA.toNat x.len with
  | .again s => s
  | .ok s l => match reachProbe s (.node d n) reach x.vaB.toNat x.len with
    | .again s => s
    | .ok s true => haltGraph (startNode s d n x) d n
    | .ok s false => startNode (reachWrite s reach x.vaB.toNat l) d n x

/-- NODE_RUN (R378): a ready node runs; a barrier, a conditional and a while complete at once. -/
def execNodeRun (die node : Nat) (s : State) : Host.Outcome State Fault Refusal :=
  let x := s.node die node
  let d := s.die die
  if x.kind = 0 || !x.ready || x.running || x.bad || d.graphHalted then .next s
  else if x.faulted then .next (haltGraph (startNode s die node x) die node)
  else
    match x.kind with
    | 1 => .next (runKernel s die node x)
    | 2 => .next (runCopy s die node x)
    | _ => .next (completeNode (startNode s die node x) die node)

/-- NODE_COMPLETE (R378): a kernel node whose launch has ended, or a copy node that has copied, completes. -/
def execNodeComplete (die node : Nat) (s : State) : Host.Outcome State Fault Refusal :=
  let x := s.node die node
  if x.kind = 0 || !x.running || x.launch.isSome || x.bad then .next s else .next (completeNode s die node)

/-! ### Errors in queues and graphs (R381) -/

/-- The record of an error (R381, R456): the slot's number stands in addr. DESIGN CHOICE: log 88. -/
def queueRecord (s : State) (d what ix slot : Nat) (reloaded : Bool) : State :=
  s.record { cls := 0x04, sev := if reloaded then 1 else 2, die := d, slot := ix, addr := slot, info := (if reloaded then 1 else 0) + what * 256 }

/-- An uncorrectable error meets a shadow copy: of a queue's entry (0), a phase-list entry (1) or a counter (2) (R381). -/
def shadowError (s : State) (die what ix slot : Nat) : State :=
  match what with
  | 0 =>
    let q := s.queue die ix
    s.setQueue die ix { q with shadow := q.shadow.modify slot (fun x => (x.1, true)) }
  | 1 =>
    let d := s.die die
    s.setDie die { d with phaseShadow := d.phaseShadow.modify slot (fun x => (x.1, true)) }
  | 2 => if (s.node die ix).kind = 0 then s else s.setNode die ix { s.node die ix with shadowBad := true }
  | _ => s

/-- The shadow copy from which an entry is reloaded: in hardware mode, readable, once (R381). -/
def reloadOf (s : State) (sh : Shadow) (slot : Nat) (e : QEntry) : Option QEntry :=
  match sh[slot]? with
  | some (x, false) => if hostAssisted s 5 || e.reloaded then none else some { x with reloaded := true }
  | _ => none

/-- QUEUE_ENTRY_ERROR (R381): an uncorrectable error in a queue entry (0), a phase-list entry (1) or a counter (2), which may meet the
shadow as well. -/
def execQueueEntryError (die what ix slot : Nat) (shadowBad : Bool) (s : State) : Host.Outcome State Fault Refusal :=
  if 8 ≤ die then .next s
  else
    let s := if shadowBad then shadowError s die what ix slot else s
    match what with
    | 0 =>
      let q := s.queue die ix
      match q.entries[slot]? with
      | none => .next s
      | some e =>
        let back := reloadOf s q.shadow slot e
        let good := back.isSome
        let e' : QEntry := back.getD { e with bad := true }
        let s := s.setQueue die ix { q with entries := q.entries.set slot e', halted := q.halted || !good }
        .next (queueRecord s die 0 ix slot good)
    | 1 =>
      let d := s.die die
      match d.phases[slot]? with
      | none => .next s
      | some e =>
        let back := reloadOf s d.phaseShadow slot e
        let good := back.isSome
        let e' : QEntry := back.getD { e with bad := true }
        let s := s.setDie die
          { d with
            phases := d.phases.set slot e'
            phaseHalted := if good ∨ d.phaseHalted.contains e.tgt then d.phaseHalted else d.phaseHalted ++ [e.tgt] }
        .next (queueRecord s die 1 e.tgt slot good)
    | 2 =>
      let x := s.node die ix
      if x.kind = 0 then .next s
      else
        let good := !hostAssisted s 5 && !x.shadowBad && !x.reloaded
        let s := s.setNode die ix (if good then { x with count := x.shadow, reloaded := true } else { x with bad := true })
        let s := if good then s else s.setDie die { s.die die with graphHalted := true }
        .next (queueRecord s die 2 ix 0 good)
    | _ => .next s

end Sys2Proof.Machine
end

