-- ==== Sys2Proof/Machine/Cast.lean ====
section
/-! DEFINITION. Class 11 and the life of a cast region: registering, building, recasting, the flip, closing; loads at the evaluators
(R419 to R446, R465). -/

namespace Sys2Proof.Machine

/-! ### Class 11 at issue (R436 to R444) -/

/-- How a class 11 word that acts once for the warp issues: its body learns the region operand, below 256, or traps. -/
def issueG (sh : Shape) (f : RWord) (body : State → Ctx → Nat → Eff) (s : State) : Host.Outcome State Fault Refusal :=
  issueR sh f (fun s c =>
    if c.act = 0 then .done s none
    else
      let n := ((s.warp c.wp).uni f.a).toNat
      if 256 ≤ n then matIll s c else body s c n) s

/-- The entry of a region that a warp names: none where it is free or another address space's (R419). -/
def ownRegion (s : State) (c : Ctx) (n : Nat) : Option Region := (s.region n).filter (fun r => r.asid == (s.groupOf c.wp).asid)

/-- The token of a class 11 word. -/
def regTokOf (s : State) (c : Ctx) (f : RWord) : RegTok :=
  let g := s.groupOf c.wp
  { launch := g.launch, gid := g.gid, index := g.indexOf c.wp, token := f.dst.toNat - 0x100, scope := f.scope, seq := s.nextId }

/-- A word that writes a token takes effect once its warp's earlier accesses are performed, so that its token, whenever it is written, is
written with release (R279, R438). DEDUCED: log 153. -/
def asRelease (s : State) (c : Ctx) (f : RWord) (e : Eff) : Eff := if releaseReady s c.wp s.nextId f.scope then e else .hold

/-- The token's register is pending (R319). -/
def pendToken (s : State) (c : Ctx) (f : RWord) : State :=
  let w := s.warp c.wp
  ({ s with nextId := s.nextId + 1 } : State).setWarp c.wp { w with tokPend := w.tokPend ||| (1#64 <<< (f.dst.toNat - 0x100)) }

/-- Bytes read at issue; poisoned ones fault the group (R240). -/
def regionRead (s : State) (c : Ctx) (va n : Nat) (go : State → List Byte → Eff) : Eff :=
  match warpRead s c va n with
  | .eff e => e
  | .ok s x => if x.any Prod.snd then .done (poisonFault s c.wp c.sp.pc va) none else go s (x.map Prod.fst)

/-- A parameter block read and checked (R423): its head tells its length. -/
def mouldRead (s : State) (c : Ctx) (va d : Nat) (go : State → List Byte → Eff) : Eff :=
  regionRead s c va 16 (fun s h => if !mouldHead d h then matIll s c else regionRead s c va (mouldLength d h) go)

/-- The region that a descriptor describes (R422); none where a field is malformed. -/
def readDescriptor (b : List Byte) (g : Group) : Option Region :=
  let d := field b 0 1
  let efmt := field b 1 1
  let eps := field b 4 4
  let dims := (List.range 4).map (fun i => field b (8 + 2 * i) 2)
  let fl := field b 0x30 8
  let r : Region :=
    { st := .building, asid := g.asid, root := g.root, ndim := d, efmt := efmt, eps := eps % 2 ^ 31, dims := dims.take d
      base := field b 0x10 10, refPa := field b 0x20 8, flashVault := decide (fl / 2 ^ 63 = 1), flash := fl % 2 ^ 52
      cap := field b 0x38 4, mould := [] }
  let ok := decide (1 ≤ d) && decide (d ≤ 4) && decide (efmt ≤ 2) && field b 2 2 == 0 && decide (eps % 2 ^ 31 < 0x7F800000)
    && (decide (eps < 2 ^ 31) || eps == 2 ^ 31)
    && (dims.take d).all (fun n => decide (1 ≤ n)) && (dims.drop d).all (fun n => n == 0)
    && field b 0x1A 6 == 0 && r.base % r.elem == 0 && decide (r.refPa < 2 ^ 52) && r.refPa % r.elem == 0
    && decide (field b 0x28 8 < 2 ^ 48) && fl / 2 ^ 52 % 2 ^ 11 == 0 && r.flash % 64 == 0
    && decide (1 ≤ r.cap) && decide (r.cap ≤ 2 ^ 24) && field b 0x3C 4 == 0 && decide (r.size ≤ 2 ^ 48)
    && (!r.flashVault || !vaultRefuses g.grant r.flash r.areaSize)
  if ok then some r else none

/-- CREG (R439): the entry is set to building; its build ends with REGION_BUILD_COMPLETE. A descriptor that is not aligned is malformed
(R422). DEDUCED: log 141. -/
def execCreg (f : RWord) (s : State) := issueG (shCreg f) f (fun s c n =>
  if (s.region n).isSome then matIll s c
  else
    let va := ((s.warp c.wp).areg f.b).toNat
    if va % 16 ≠ 0 then matIll s c
    else asRelease s c f <| regionRead s c va 64 (fun s b =>
      match readDescriptor b (s.groupOf c.wp) with
      | none => matIll s c
      | some r => mouldRead s c ((va + field b 0x28 6) % 2 ^ 80) r.ndim (fun s m =>
        let tok := regTokOf s c f
        .done ((pendToken s c f).setRegion n { r with mould := m, recast := some { prop := some m, tok := some tok } }) none))) s

/-- A running recast or build is abandoned: its token is written with outcome 4 (R439, R440). -/
def abandon (s : State) (n : Nat) : State :=
  match s.region n with
  | some r => if r.recast.isSome then recastEnd s n r 4 else s
  | none => s

/-- CUNREG (R440). DEDUCED: log 91. -/
def execCunreg (f : RWord) (s : State) := issueG (shCunreg f) f (fun s c n =>
  match ownRegion s c n with
  | none => matIll s c
  | some r => asRelease s c f <|
    match areaBusy s r with
    | some line => .stay (claimLine s line)
    | none =>
      let tok := regTokOf s c f
      let s := pendToken s c f
      if r.st = .building then .done (regToken (abandon s n) tok (castToken 0 0)) none
      else if r.st = .closing then .done (s.setRegion n { r with closeTok := r.closeTok ++ [tok] }) none
      else
        let s := abandon s n
        .done (s.setRegion n { (s.region n).getD r with st := .closing, recast := none, closeTok := [tok], closeAt := tok.seq }) none) s

/-- A recast asked for by an instruction: busy at once, or started (R441). -/
def recastForm (s : State) (c : Ctx) (f : RWord) (n : Nat) (r : Region) (given : Option (List Byte)) : Eff :=
  asRelease s c f <|
  match areaBusy s r with
  | some line => .stay (claimLine s line)
  | none =>
    let tok := regTokOf s c f
    let s := pendToken s c f
    if r.st ≠ .live then .done (regToken s tok (castToken 2 (if r.st = .building then 0 else flashCount s r (r.gen % 2)))) none
    else .done (startRecast s n r given (some tok) false) none

/-- RECAST (R441), with the proposal read at issue. -/
def execRecast (f : RWord) (s : State) := issueG (shRecast f) f (fun s c n =>
  match ownRegion s c n with
  | none => matIll s c
  | some r => mouldRead s c ((s.warp c.wp).areg f.b).toNat r.ndim (fun s m => recastForm s c f n r (some m))) s
/-- RECAST `.fit` (R441). -/
def execRecastFit (f : RWord) (s : State) := issueG (shRecastFit f) f (fun s c n =>
  match ownRegion s c n with
  | none => matIll s c
  | some r => recastForm s c f n r none) s

/-- A read of a region waits while it builds or closes (R465); it holds behind an acquire whose value is not bound. -/
def whenLive (s : State) (c : Ctx) (n : Nat) (go : Region → Eff) : Eff :=
  match ownRegion s c n with
  | none => matIll s c
  | some r =>
    if acquirePending (s.core (coreOf c.wp)) c.wp then .hold
    else if r.st.waits then .stay (waitRegion s c.wp (n, []))
    else go r

/-- CGEN (R442). -/
def execCgen (f : RWord) (s : State) := issueG (shCgen f) f (fun s c n => whenLive s c n (fun r =>
  let acq := f.mod 0 0 = 1
  if acq && decide (1 ≤ f.scope) && releasePending s c.wp then .hold
  else
    let s := if acq then s.acquire (coreOf c.wp) else s
    let x := r.gen + (if r.recast.any (fun x => x.urgent) then 2 ^ 32 else 0) + (if r.recast.isSome then 2 ^ 33 else 0)
    scalarDone s c f.dst f.w (BitVec.ofNat 64 x))) s

/-- CEVAL (R443): the current mould at each acting lane's coordinates. A mould copy with an error faults the group (R445).
DEDUCED: log 92. -/
def execCeval (f : RWord) (s : State) := issueR shCeval f (fun s c =>
  let w := s.warp c.wp
  let n := (w.uni f.a).toNat
  if 256 ≤ n then matIll s c
  else if c.act = 0 then (if (ownRegion s c n).isNone then matIll s c else vecDone s c f false 0 0 (fun _ => (0, 0)))
  else whenLive s c n (fun r =>
    if r.bad then .done (poisonFault s c.wp c.sp.pc 0) none
    else vecDone s c f false 0 0 (fun t =>
      let x := (w.vsrc true f.b t).toNat
      (BitVec.ofNat 64 (mouldValue r.mould r.efmt r.dims ((List.range r.ndim).map (fun d => x / 2 ^ (16 * d) % 2 ^ 16))), 0)))) s

/-- CFLASH (R444). -/
def execCflash (f : RWord) (s : State) := issueG shCflash f (fun s c n => whenLive s c n (fun r =>
  scalarDone s c f.dst f.w (BitVec.ofNat 64 (flashCount s r (r.gen % 2) + r.cap * 2 ^ 32)))) s

/-! ### The scan (R432, R439) -/

/-- Is a token's command in its turn: are its warp's earlier accesses performed (R279)? A group that is saved has loads no more.
DEDUCED: log 125. -/
def tokReady (s : State) (t : RegTok) : Bool :=
  match (findGroup s t.launch t.gid).bind (fun g => g.2.warps[t.index]?) with
  | some wp => releaseReady s wp t.seq t.scope
  | none => settledBefore s { launch := t.launch, gid := t.gid, index := t.index } t.seq t.scope

/-- A line of a region's reference copy that a host agent owns, or of its area that one holds or shares. -/
def regionBusy (s : State) (r : Region) : Option Nat :=
  (areaBusy s r).or ((s.dir.find? (fun p => decide (r.refPa / 128 ≤ p.1) && decide (p.1 ≤ (r.refPa + r.size - 1) / 128) && lineBusy s p.1)).map Prod.fst)

/-- What a scan has made: the state, the entries entered, and the outcome that ends it. -/
structure Scan where
  s : State
  outcome : Option Nat := none
  deriving Repr

/-- One point of a scan (R432): outcome 3 for a poisoned reference granule, 1 when the entries exceed the capacity. -/
def scanPoint (n : Nat) (r : Region) (mould : List Byte) (table : Nat) (x : Scan) (i : Nat) : Scan :=
  if x.outcome.isSome then x
  else
    let p := probe x.s r table i
    if p.found && p.pin then x
    else
      let pa := r.refPa + r.elem * i
      let s := unitReady x.s (pa / 128) r.asid (refPte x.s r i)
      if sysBad s pa r.elem r.asid then { s := regionRecord s n r 0x09 (pa / 128 * 128), outcome := some 3 }
      else
        let v := natOfBytes (sysBytes s pa r.elem r.asid)
        if r.within (r.valueAt mould i) v then { s := s }
        else
          let s := flashPut s r table i v false
          { s := s, outcome := if r.cap < flashCount s r table then some 1 else none }

/-- The scan of every point in ascending order. -/
def scanRegion (s : State) (n : Nat) (r : Region) (mould : List Byte) (table : Nat) : Scan :=
  (List.range r.points).foldl (scanPoint n r mould table) { s := s }

/-- The first page of a region that breaks R420: its VA. -/
def badPage (s : State) (r : Region) : Option Nat :=
  let first := r.base / 2 ^ 16
  let count := (r.base + r.size - 1) / 2 ^ 16 - first + 1
  (List.range count).findSome? (fun i =>
    let va := max r.base ((first + i) * 2 ^ 16)
    match walk s r.root va r.asid with
    | .leaf level _ x =>
      let pa := pteFrame x + va % 2 ^ levelShift level
      if pteCast x && pteR x && pteW x && pa == r.refPa + (va - r.base) && decide (pa < 2 ^ 44) && !unpopulated pa then none
      else some va
    | _ => some va)

/-- A build stops on a page that breaks R420: a record names the page (R320, R438). -/
def pageRecord (s : State) (n : Nat) (r : Region) (va : Nat) : State :=
  let t := (r.recast.bind (fun x => x.tok)).getD { launch := 0, gid := 0, index := 0, token := 0, scope := 0 }
  s.record { cls := 0x0C, sev := 1, die := r.home, launch := t.launch, group := t.gid, slot := n, addr := va, info := 1 }

/-- A build that fails: the entry is freed, the token tells why, and the waiting accesses fail (R439, R465). -/
def buildFail (s : State) (n : Nat) (r : Region) (token : Word) : State :=
  let s := { s with regions := SMap.erase n s.regions }
  let s := match r.recast.bind (fun x => x.tok) with
    | some t => regToken s t token
    | none => s
  releaseWarps (releaseEntries s n) n true

/-- REGION_BUILD_COMPLETE (R439): the pages are checked, the area is written, table 0 is built; the region is live or freed. -/
def execRegionBuildComplete (region : Nat) (s : State) : Host.Outcome State Fault Refusal :=
  match s.region region with
  | none => .next s
  | some r =>
    match r.recast with
    | none => .next s
    | some rc =>
      if r.st ≠ .building ∨ !(rc.tok.all (tokReady s)) then .next s
      else
        match regionBusy s r with
        | some line => .next (claimLine s line)
        | none =>
          match badPage s r with
          | some va => .next (buildFail (pageRecord s region r va) region r (tokenError 1 va))
          | none =>
            let s := areaWrite (areaClear s r 0 r.areaSize) r 0 (zeros 64)
            let x := scanRegion s region r r.mould 0
            match x.outcome with
            | some o => .next (buildFail (flashClear x.s r 0) region r (castToken o 0))
            | none =>
              let s := x.s.setRegion region { r with st := .live, recast := none }
              let s := match rc.tok with
                | some t => regToken s t (castToken 0 (flashCount s r 0))
                | none => s
              .next (releaseWarps (releaseEntries s region) region false)

/-- RECAST_SCAN_DONE (R432): the scan of a recast: a rejection, or the freeze of every evaluator (R434). -/
def execRecastScanDone (region : Nat) (s : State) : Host.Outcome State Fault Refusal :=
  match s.region region with
  | none => .next s
  | some r =>
    match r.recast with
    | none => .next s
    | some rc =>
      match rc.prop with
      | none => .next s
      | some m =>
        if r.st ≠ .recasting ∨ rc.freeze.isSome ∨ !(rc.tok.all (tokReady s)) then .next s
        else
          match regionBusy s r with
          | some line => .next (claimLine s line)
          | none =>
            let x := scanRegion s region r m ((r.gen + 1) % 2)
            match x.outcome with
            | some o => .next (recastEnd x.s region r o)
            | none => .next (x.s.setRegion region { r with recast := some { rc with freeze := some (List.range 256) } })

/-- The flip (R434): generation g + 1, its table and its mould are current. -/
def flip (s : State) (n : Nat) (r : Region) (rc : Recast) : State :=
  let old := r.gen % 2
  let gen := (r.gen + 1) % 2 ^ 32
  let count := flashCount s r (gen % 2)
  let s := areaWrite s r 8 (bytesOfNat 4 gen)
  let s := areaWrite s r (4 * old) (bytesOfNat 4 (flashCount s r old))
  let s := s.setRegion n { r with st := .live, gen := gen, mould := rc.prop.getD r.mould, recast := none, bad := false }
  let s := match rc.tok with
    | some t => regToken s t (castToken 0 count)
    | none => s
  releaseEntries s n

/-- EVALUATOR_FREEZE_ACK (R434): an evaluator has completed its loads of the region and holds new ones; the last makes the flip. -/
def execEvaluatorFreezeAck (region slice : Nat) (s : State) : Host.Outcome State Fault Refusal :=
  match s.region region with
  | none => .next s
  | some r =>
    match r.recast with
    | none => .next s
    | some rc =>
      match rc.freeze with
      | none => .next s
      | some l =>
        if !l.contains slice then .next s
        else
          let left := l.filter (· != slice)
          if left ≠ [] then .next (s.setRegion region { r with recast := some { rc with freeze := some left } })
          else
            match areaBusy s r with
            | some line => .next (claimLine s line)
            | none => .next (flip s region r rc)

/-- Does an access accepted before a close still run (R440)? -/
def closeWaits (s : State) (n : Nat) (r : Region) : Bool :=
  s.cores.any (fun k =>
    k.2.stores.any (fun x => x.cast == some n && decide (x.id < r.closeAt))
      || k.2.sidelog.any (fun x => x.op != 4 && x.asid == r.asid && decide (x.id < r.closeAt) && castPoints r x.va x.bmask != [])
      || k.2.loads.any (fun l => l.todo.any (fun p => p.region == some n)))

/-- The tokens of a region's closes that have ended are written, those whose warps' earlier accesses are performed (R279, R438). -/
def writeTokens (s : State) (region : Nat) : State :=
  let (now, later) := s.regToks.partition (fun x => x.1 == region && tokReady s x.2.1)
  now.foldl (fun s x => regToken s x.2.1 x.2.2) { s with regToks := later }

/-- REGION_CLOSE_COMPLETE (R440): every store already accepted has been performed; the entry is freed, and its tokens are written. -/
def execRegionCloseComplete (region : Nat) (s : State) : Host.Outcome State Fault Refusal :=
  match s.region region with
  | none => .next (writeTokens s region)
  | some r =>
    if r.st ≠ .closing ∨ closeWaits s region r then .next (writeTokens s region)
    else
      let count := flashCount s r (r.gen % 2)
      let s := { s with
        regions := SMap.erase region s.regions
        regToks := s.regToks ++ r.closeTok.map (fun t => (region, t, castToken 0 count)) }
      .next (writeTokens (releaseWarps s region true) region)

/-! ### Loads at the evaluators (R421, R427) -/

/-- The evaluator of a point: the home slice of its reference line (R421). -/
def evaluatorOf (r : Region) (i : Nat) : Nat :=
  let line := (r.refPa + r.elem * i) / 128
  homeDie line * 32 + homeSlice line

/-- The bytes of a load's part that lie in a region. -/
def castBytesOf (l : Load) (p : Part) (r : Region) : List Nat :=
  (l.bytesOn p.vline).filter (fun a => decide (r.base ≤ a) && decide (a < r.base + r.size))

/-- CAST_LOAD (R427): an evaluator returns the points of one part of a load. -/
def execCastLoad (core ix part : Nat) (s : State) : Host.Outcome State Fault Refusal :=
  let k := s.core core
  match k.loads[ix]? with
  | none => .next s
  | some l =>
    match l.todo[part]? with
    | none => .next s
    | some p =>
      match p.region.bind (fun n => s.region n) with
      | none => .next s
      | some r =>
        let bytes := castBytesOf l p r
        let pts := (bytes.map (fun a => (a - r.base) / r.elem)).dedup
        let frozen := (r.recast.bind (fun x => x.freeze)).any (fun left => pts.any (fun i => !left.contains (evaluatorOf r i)))
        let earlier (x : Store) : Bool := decide (x.id < l.id) && x.asid == l.asid && x.va == p.vline * 128
        let behind := k.stores.any (fun x => x.cast.isSome && earlier x) || k.sidelog.any earlier
          || (strays s core (s.nameOf l.warp) l.asid p.vline).any earlier
        if frozen || behind || earlierOnLine s core l.warp (s.nameOf l.warp) l.id p.line l.space || engineHolds s p.line l.id then .next s
        else
          match pts.findSome? (castHeld s r) with
          | some line => .next (recallHost s line)
          | none =>
            let s := if l.acq then s.acquire core else s
            let s := (pts.map (flashLines s r)).flatten.dedup.foldl (fun s line => unitReady s line r.asid) s
            let s := s.meet (core / 32) r.home
            let vals := bytes.map (fun a => (a, castByte s r a))
            let l := { l with level := max l.level (levelOf s r.home core p.line false) }
            let k := s.core core
            .next (s.setCore core (k.setLoad
              { l with
                todo := l.todo.filter (fun q => !(q.vline == p.vline && q.region == p.region))
                got := vals.foldl (fun g x => SMap.set x.1 x.2.1 g) l.got
                bad := l.bad.or ((vals.find? (fun x => x.2.2)).map (fun x => castBad s r x.1)) }))

end Sys2Proof.Machine
end

