-- ==== Sys2Proof/Machine/Device.lean ====
section
/-! DEFINITION. The device at its edges: host messages, the event ring, attestation and keys, the forms of reset, the links, and the
tick of logical time (R285, R450 to R464). -/

namespace Sys2Proof.Machine

/-! ### Host messages (R451, R452) -/

/-- Byte i of a message's args, and a field of them. -/
def msgArg (m : HostMsg) (i n : Nat) : Nat := (m.args.toNat / 256 ^ i) % 256 ^ n
/-- Are the args from byte n on 0? -/
def msgArgsEnd (m : HostMsg) (n : Nat) : Bool := m.args.toNat < 256 ^ n

/-- Does a message keep its op's ranges (R451, R455, R459)? -/
def msgOk (m : HostMsg) : Bool :=
  let die := decide (m.die.toNat < 8)
  let any := die || m.die == 0xFF
  let ix := m.index.toNat
  decide (m.mflags.toNat < 2) && (match m.op.toNat with
    | 0x01 => die && decide (ix < 256) && msgArgsEnd m 0 && m.payload.length == 256 && packetOk m.payload
    | 0x02 => die && decide (msgArg m 0 1 ≤ 2) && msgArgsEnd m 1 && m.payload.length == 64
        && decide (ix < (if msgArg m 0 1 = 2 then 4096 else 256)) && (msgArg m 0 1 != 2 || nodeOk m.payload)
    | 0x03 => any && decide (msgArg m 0 8 < 2 ^ 25) && msgArgsEnd m 8
    | 0x04 => any && decide (msgArg m 4 1 ≤ 1) && msgArgsEnd m 5
    | 0x05 => any && decide (ix < 2 ^ 12) && bindOk (BitVec.ofNat 64 (msgArg m 0 8)) && msgArgsEnd m 8
    | 0x06 => any && decide (ix < 256) && msgArgsEnd m 4
    | 0x07 => any && decide (msgArg m 4 1 ≤ 2) && msgArgsEnd m 5
    | 0x08 => any && decide (ix < 7) && decide (msgArg m 0 1 ≤ 1) && msgArgsEnd m 1
    | 0x09 => any && decide (ix < 256) && decide (msgArg m 2 1 < 16) && decide (msgArg m 3 1 ≤ 1) && msgArgsEnd m 4
        && (if msgArg m 3 1 = 1 then m.payload.isEmpty else m.payload.length == 1568 + 72)
    | 0x0A => any && msgArgsEnd m 0 && m.payload.length == 32
    | 0x0B => any && decide (6 ≤ msgArg m 0 1) && decide (msgArg m 0 1 ≤ 16) && msgArg m 1 7 == 0 && msgArg m 8 16 % 64 == 0 && msgArgsEnd m 24
    | 0x0C => any && msgArgsEnd m 0
    | _ => false)

/-- A message of an op is taken: a malformed one gives status 2, and while no image runs only ATTEST is accepted (R451, R457). -/
def acceptMsg (s : State) (m : HostMsg) (op : Nat) (go : State) : Host.Outcome State Fault Refusal :=
  if m.op.toNat ≠ op ∨ (s.boot = .failed ∧ op ≠ 0x0A) then .next s
  else if !msgOk m then .next (complete s m 2 0)
  else .next go

/-- MSG_ENQUEUE (R451). -/
def execMsgEnqueue (m : HostMsg) (s : State) : Host.Outcome State Fault Refusal := acceptMsg s m 0x01
  (let d := m.die.toNat
   let q := m.index.toNat
   if !(s.queue d q).room then complete s m 1 0
   else
     let r := acceptLaunch s d q m.payload (fun l => { l with host := true, notify := if m.mflags = 1 then some m else none }) none
     complete r.1 m 0 r.2)

/-- A queue entry read from its 64 bytes over the one it rebuilds (R355); none where it is malformed. -/
def readEntry (b : List Byte) (old : QEntry) : Option QEntry :=
  let kind := field b 0 1
  if 1 ≤ kind ∧ kind ≤ 4 ∧ field b 1 1 < 4 ∧ field b 0x20 1 ≤ 1 ∧ field b 0x12 6 = 0 ∧ field b 0x23 29 = 0 then
    some { old with
      kind := kind, priv := decide (field b 1 1 % 2 = 1), graph := decide (field b 1 1 / 2 = 1)
      originPrio := field b 2 1, originQ := field b 3 1, launch := field b 4 4, ref := BitVec.ofNat 80 (field b 8 10)
      group := field b 0x18 4, tgt := field b 0x1C 2, phaseNo := field b 0x1E 2, recSpace := field b 0x20 1, node := field b 0x21 2
      bad := false, reloaded := false }
  else none

/-- The first poisoned entry of a list that satisfies p, replaced: its place, and the list. -/
def repairIn (l : List QEntry) (p : QEntry → Bool) (b : List Byte) : Option (Option (Nat × List QEntry)) :=
  (l.findIdx? (fun e => e.bad && p e)).map (fun i =>
    (readEntry b ((l[i]?).getD {})).map (fun e => (i, l.set i e)))

/-- The shadow of a list of which one entry has been written anew (R356). -/
def rewritten (old : Shadow) (l : List QEntry) (i : Nat) : Shadow := (Shadow.mirror old l).modify i (fun x => (x.1, false))

/-- A REPAIR (R381, R451): index names the queue, the target core or the node. -/
def repair (s : State) (m : HostMsg) : State :=
  let d := m.die.toNat
  let ix := m.index.toNat
  match msgArg m 0 1 with
  | 0 =>
    let q := s.queue d ix
    match repairIn q.entries (fun _ => true) m.payload with
    | none => complete s m 3 0
    | some none => complete s m 2 0
    | some (some (i, l)) =>
      complete (s.setQueue d ix { entries := l, halted := l.any (fun e => e.bad), shadow := rewritten q.shadow l i }) m 0 0
  | 1 =>
    let die := s.die d
    match repairIn die.phases (fun e => e.tgt == ix) m.payload with
    | none => complete s m 3 0
    | some none => complete s m 2 0
    | some (some (i, l)) =>
      let still := l.any (fun e => e.bad && e.tgt == ix)
      complete (s.setDie d { die with
        phases := l, phaseShadow := rewritten die.phaseShadow l i
        phaseHalted := if still then die.phaseHalted else die.phaseHalted.filter (· != ix) }) m 0 0
  | _ =>
    let x := s.node d ix
    if x.kind = 0 ∨ !x.bad then complete s m 3 0
    else
      let y := readNode m.payload x.asid x.root
      let count := field m.payload 4 2
      let ready := decide (count = 0) && decide (y.init ≠ 0) && !x.running
      let s := s.setNode d ix { y.write count with ready := x.ready || ready, running := x.running, held := x.held, launch := x.launch }
      let die := s.die d
      let s := s.setDie d
        { die with
          readyList := if ready && !x.ready then die.readyList ++ [ix] else die.readyList
          graphHalted := die.nodes.any (fun p => p.2.bad || p.2.faulted) }
      complete s m 0 0

/-- MSG_REPAIR (R381). -/
def execMsgRepair (m : HostMsg) (s : State) : Host.Outcome State Fault Refusal := acceptMsg s m 0x02 (repair s m)

/-- MSG_MIGRATE (R374). -/
def execMsgMigrate (m : HostMsg) (s : State) : Host.Outcome State Fault Refusal := acceptMsg s m 0x03
  (let r := migrate s (BitVec.ofNat 64 (msgArg m 0 8))
   complete r.1 m 0 r.2)

/-- The resident groups of a launch. -/
def groupsOf (s : State) (l : Nat) : List Nat := (s.groups.filter (fun g => g.2.launch == l)).map Prod.fst

/-- MSG_PREEMPT (R451): every resident group of a launch is saved, or the launch ends faulted. -/
def execMsgPreempt (m : HostMsg) (s : State) : Host.Outcome State Fault Refusal := acceptMsg s m 0x04
  (let l := msgArg m 0 4
   if !SMap.has s.launches l then complete s m 3 0
   else if msgArg m 4 1 = 1 then
     let s := faultLaunch s l
     let s := (groupsOf s l).foldl (fun s g => tryRelease (groupFault s g { cls := 1, sev := 1 }) g) s
     complete s m 0 0
   else
     settlePreempts { s with preempts := s.preempts ++ [(m, groupsOf s l)] })

/-- MSG_BIND (R357, R375). DEDUCED: log 93. -/
def execMsgBind (m : HostMsg) (s : State) : Host.Outcome State Fault Refusal := acceptMsg s m 0x05
  (let core := m.index.toNat % 256
   let ix := m.index.toNat / 256
   let old := SMap.look 0 (s.core core).slots ix
   complete (writeBind s core ix (BitVec.ofNat 64 (msgArg m 0 8))) m 0 old.toNat)

/-- MSG_MOULD (R441, R456, R464): the proposal of the recast that asked for it. -/
def execMsgMould (m : HostMsg) (s : State) : Host.Outcome State Fault Refusal := acceptMsg s m 0x06
  (let n := m.index.toNat
   let id := msgArg m 0 4
   match s.region n with
   | none => complete s m 3 0
   | some r =>
     if !s.moulds.contains (id, n) then complete s m 3 0
     else if !mouldHead r.ndim m.payload || decide (m.payload.length < mouldLength r.ndim m.payload) then complete s m 2 0
     else
       match r.recast with
       | none => complete s m 3 0
       | some rc =>
         let b := m.payload.take (mouldLength r.ndim m.payload)
         let s := { s with moulds := s.moulds.filter (fun x => x != (id, n)) }
         complete (s.setRegion n { r with recast := some { rc with prop := some b } }) m 0 0)

/-- MSG_PAGE (R256, R263, R464): the answer to a request that went to the host. -/
def execMsgPage (m : HostMsg) (s : State) : Host.Outcome State Fault Refusal := acceptMsg s m 0x07
  (match (findReq s (msgArg m 0 4)).filter (fun r => r.host) with
   | none => complete s m 3 0
   | some r =>
     let refused : Option Bool := match msgArg m 4 1 with
       | 0 => none
       | 1 => some false
       | _ => some true
     complete (if r.regen = 2 then answerPage s r refused else answer s r refused) m 0 0)

/-- MSG_MODE (R215). -/
def execMsgMode (m : HostMsg) (s : State) : Host.Outcome State Fault Refusal := acceptMsg s m 0x08
  (complete { s with mode := modeSet s.mode m.index.toNat (msgArg m 0 1 = 1) } m 0 0)

/-! ### Attestation and keys (R458, R459) -/

/-- MSG_KEY (R459): a wrapped key is bound to a pair. -/
def execMsgKey (m : HostMsg) (s : State) : Host.Outcome State Fault Refusal :=
  if msgArg m 3 1 = 1 then .next s else acceptMsg s m 0x09
  (let slot := m.index.toNat
   let pair := msgArg m 0 2 * 16 + msgArg m 2 1
   if SMap.has s.keys slot || s.keys.any (fun k => k.2.1 == pair) then complete s m 4 0
   else
     let t := Config.transportKey s.kemNo (m.payload.take 1568)
     match (if s.kemNo = 0 then none else Config.keyUnwrap t (m.payload.drop 1568)) with
     | none => complete s m 2 0
     | some k => complete { s with keys := SMap.set slot (pair, k) s.keys, transport := some t } m 0 0)

/-- MSG_KEY_UNBIND (R459): a slot that is bound loses its key. -/
def execMsgKeyUnbind (m : HostMsg) (s : State) : Host.Outcome State Fault Refusal :=
  if msgArg m 3 1 ≠ 1 then .next s else acceptMsg s m 0x09
  (if SMap.has s.keys m.index.toNat then complete { s with keys := SMap.erase m.index.toNat s.keys } m 0 0 else complete s m 3 0)

/-- The report that ATTEST writes (R458): its signature covers the digest of everything before it. After a failed boot no image's
digest is in it, and the byte after the nonce tells (R457). DESIGN CHOICE: log 48. -/
def report32 (s : State) (nonce : List Byte) : List Byte :=
  let body := nonce ++ bytesOfNat 1 (if s.boot = .failed then 1 else 0) ++ Config.rootDigest ++ s.images.flatten ++ bytesOfNat 8 s.rollback
    ++ Config.shake256 Config.identityKey ++ Config.kemKey (s.kemNo + 1)
  body ++ Config.falconSign (Config.shake256 body)

/-- MSG_ATTEST (R458): the report is written in place of a completion record; the transport key ends (R459). -/
def execMsgAttest (m : HostMsg) (s : State) : Host.Outcome State Fault Refusal := acceptMsg s m 0x0A
  (let b := report32 s m.payload
   let s := { s with kemNo := s.kemNo + 1, transport := none }
   if m.recVa = 0 then s else { s with hostMem := Memory.storeBytes s.hostMem m.recVa.toNat b })

/-- MSG_RING (R455): the ring is registered, and the log's records are copied to it; the dropped count is set, whatever its word held. -/
def execMsgRing (m : HostMsg) (s : State) : Host.Outcome State Fault Refusal := acceptMsg s m 0x0B
  (let ring : Ring := { n := msgArg m 0 1, va := msgArg m 8 16 }
   let lost := s.logLost
   let t := s.log.foldl (fun s x => ringPut s ring (bytesOfNat 64 x.toNat))
     { s with ring := some ring, log := [], logLost := 0, hostMem := Memory.storeBytes s.hostMem (ring.va + 16) (bytesOfNat 8 0) }
   let drop := natOfBytes (Memory.bytes t.hostMem (ring.va + 16) 8)
   complete { t with hostMem := Memory.storeBytes t.hostMem (ring.va + 16) (bytesOfNat 8 (drop + lost)) } m 0 0)

/-- MSG_UNLISTED_OP (R451): an unlisted op or a bad field gives status 2 and no other effect. -/
def execMsgUnlistedOp (m : HostMsg) (s : State) : Host.Outcome State Fault Refusal :=
  if s.boot = .failed ∨ msgOk m then .next s else .next (complete s m 2 0)

/-! ### Reset (R457, R462, R463) -/

/-- Every launch ends faulted, with its record and its notify record (R463). -/
def endAll (s : State) : State :=
  let s' := s.launches.foldl (fun s l =>
    let s := s.record { cls := 1, sev := 1, launch := l.1 }
    match l.2.notify with
    | some m => complete s m 6 l.1
    | none => s) s
  { s' with launches := [] }

/-- An entry once the dies' copies have gone: what host agents hold stays, and so does the wait for an answer that a host agent owes;
`nack` of them owe one to an invalidation (R292, R307). -/
def Dir.afterReset (d : Dir) (nack : Nat) : Dir :=
  let ptrs := d.ptrs.filter (fun a => decide (8 ≤ a))
  let vec := if d.coarse then d.vec &&& 0b110000 else 0
  let shared := decide (ptrs ≠ []) || vec != 0
  let keep (h : HalfSt) (o : Nat) : HalfSt :=
    if (h.owned || h.waits) && decide (8 ≤ o) then h
    else if (h == .XA || h == .XS) && nack != 0 then .XS
    else if (h == .S || h == .XA || h == .XS) && shared then .S
    else .I
  let hi := keep d.hi d.ownHi
  let lo := keep d.lo d.ownLo
  let waits (h : HalfSt) : Bool := h == .XS || h.waits
  { hi := hi, lo := lo
    ownHi := if hi.owned || hi.waits then d.ownHi else 0, ownLo := if lo.owned || lo.waits then d.ownLo else 0
    coarse := d.coarse && shared, ptrs := if d.coarse then [] else ptrs, vec := vec
    nack := if hi == .XS || lo == .XS then nack else 0
    serving := if waits hi || waits lo then some .unit else none }

/-- The invalidations of a line that host agents have still to acknowledge. -/
def hostAnswers (s : State) (line : Nat) : Nat :=
  s.msgs.countP (fun m => m.line == line && decide (8 ≤ m.agent) && (m.kind == .inv || m.kind == .invAck))

/-- One line drained to memory: what the die that owns it holds, or has under way to the home, else what its home holds modified; with
the attributes that the home's fill captured (R265, R267). -/
def drainLine (s : State) (line : Nat) : State :=
  match ownerDie s line with
  | none =>
    match s.l2At (homeDie line) line with
    | some y => if y.dirty then blockWrite s line y else s
    | none => s
  | some d =>
    let back := s.msgs.find? (fun m => m.line == line && m.agent == d && (m.kind == .putM || m.kind == .rclData))
    let (s, y) := homeFill s line 0 0 0
    match s.l2At d line, back with
    | some p, _ => blockWrite s line { y with data := p.data, poison := p.poison }
    | none, some m => blockWrite s line { y with data := m.data, poison := m.poison }
    | none, none => if y.dirty then blockWrite s line y else s

/-- Modified lines are drained to memory, and every copy in the device goes; the directory keeps what host agents hold, and their
requests are answered afterwards (R307). -/
def drainLines (s : State) : State :=
  let s := (s.windows.map (fun x => x.line)).dedup.foldl (fun s l => endHomeWindows s l none) s
  let s := s.windows.foldl (fun s x => endWindow s x false) s
  let held : List Nat := s.l2.map (fun p => p.1 % 2 ^ 45) ++ s.dir.map (fun p => p.1)
  let s := held.dedup.foldl drainLine s
  { s with
    l1 := [], l2 := [], gone := [], filled := [], windows := [], tlb := []
    msgs := (s.dir.map (fun p => p.2.hostRequests p.1)).flatten ++ s.msgs.filter (fun m => decide (8 ≤ m.agent))
    dir := SMap.keep (s.dir.map (fun p => (p.1, p.2.afterReset (hostAnswers s p.1)))) (fun _ d => d != {}) }

/-- A core after a warm reset: on, with its logical time. -/
def resetCore (k : Core) : Core := { ct := k.ct }

/-- The device stops for a warm reset: nothing is dispatched, every launch is faulted, and of what its groups have begun only the stores
under way remain (R452, R463). -/
def stopAll (s : State) : State :=
  { s with
    warps := [], groups := [], saved := [], queues := [], reqs := [], moulds := [], preempts := []
    launches := s.launches.map (fun l => (l.1, { l.2 with faulted := true }))
    cores := s.cores.map (fun k => (k.1, { k.2 with loads := [], sidelog := [], cmds := [], mq := [] }))
    dies := s.dies.map (fun d => (d.1, { dt := d.2.dt, ticks := d.2.ticks, monitors := d.2.monitors, seq := d.2.seq })) }

/-- A warm reset once no store is under way (R463). DEDUCED: log 95. -/
def warmReset (s : State) : State :=
  let s := drainLines (endAll (stopAll s))
  { s with
    regions := [], regToks := [], arrivals := [], ls := [], lsBad := [], resetting := none
    cores := s.cores.map (fun k => (k.1, resetCore k.2))
    mode := 0, keys := [], cxlDown := [], sev3 := false }

/-- A warm reset that waits goes on when every store has been performed; it completes the messages that asked for it (R452, R463). -/
def resetGoesOn (s : State) : State :=
  match s.resetting with
  | none => s
  | some l => if s.cores.all (fun k => k.2.stores.isEmpty) then l.foldl (fun s m => complete s m 0 0) (warmReset s) else s

/-- A warm reset begins. -/
def resetBegin (s : State) (l : List HostMsg) : State := resetGoesOn { stopAll s with resetting := some (s.resetting.getD [] ++ l) }

/-- MSG_RESET (R462). -/
def execMsgReset (m : HostMsg) (s : State) : Host.Outcome State Fault Refusal := acceptMsg s m 0x0C (resetBegin s [m])

/-- AVOSH_WARM_RESET (R462): after a record of sev 3. -/
def execAvoshWarmReset (s : State) : Host.Outcome State Fault Refusal := if s.sev3 then .next (resetBegin s []) else .next s

/-- The image that the root of trust of an I/O die accepts, of its boot flash's two slots (R5, R457). -/
def bootImage (s : State) (io : Nat) : Option Image :=
  ((SMap.look [] s.flash io).take 2).find? (fun x => decide (s.rollback ≤ x.version) && Config.shake256 x.bytes == x.digest
    && Config.falconVerifies x.digest x.signature)

/-- The images that the roots of trust of the two I/O dies accept. The device runs once one of them does.
DESIGN CHOICE: log 144. -/
def bootImages (s : State) : List Image := (List.range 2).filterMap (bootImage s)

/-- COLD_RESET (R457, R462): everything restarts. What lies outside the device stays: host memory and other modules', the
expanders, the flash and the fuses, and the turns to come. DESIGN CHOICE: log 96. -/
def execColdReset (s : State) : Host.Outcome State Fault Refusal :=
  let out := s.phys.filter (fun c => decide (2 ^ 43 ≤ c.1))
  let bad := s.physBad.filter (fun c => decide (2 ^ 43 ≤ c.1 * 128))
  .next { State.reset with
    phys := out, physBad := bad, hostMem := s.hostMem, flash := s.flash, rollback := s.rollback, agenda := s.agenda
    fresh := s.fresh, nextId := s.nextId, kemNo := s.kemNo, lostAnswers := s.lostAnswers
    boot := if (bootImages s).isEmpty then .failed else .running
    images := (bootImages s).map (fun x => x.digest) }

/-- Does a message of a host agent ask something of the device (R307)? -/
def Msg.hostAsks (m : Msg) : Bool :=
  decide (8 ≤ m.agent) && (m.kind == .rdS || m.kind == .rdX || m.kind == .upg || m.kind == .putE || m.kind == .putM)

/-- DEVICE_LOST (R307, R462): power is lost; only a cold reset follows. The requests of host agents that are under way, or wait at a home,
are answered with a device-lost error response. -/
def execDeviceLost (s : State) : Host.Outcome State Fault Refusal :=
  let open_ := s.msgs.filter Msg.hostAsks ++ (s.dir.map (fun p => p.2.hostRequests p.1)).flatten
  .next (if s.lost then s
    else { s with
      lost := true, lostAnswers := s.lostAnswers ++ open_.map Act.host
      msgs := s.msgs.filter (fun m => !m.hostAsks) })

/-! ### Links, time, binding -/

/-- CXL_LINK_FAIL (R454): a port's link fails until the next reset. DESIGN CHOICE: log 36. -/
def execCxlLinkFail (port : Nat) (s : State) : Host.Outcome State Fault Refusal :=
  if port < 8 then .next { s with cxlDown := SMap.set port true s.cxlDown } else .next s

/-- Periods of 256 cycles of a die's clock go by: its DT and each of its cores' ct advance (R285). -/
def tickDie (s : State) (die n : Nat) : State :=
  let d := s.die die
  (List.range 32).foldl (fun s i =>
    let k := s.core (die * 32 + i)
    s.setCore (die * 32 + i) { k with ct := k.ct + n }) (s.setDie die { d with dt := d.dt + n, ticks := d.ticks + n })

/-- LOGICAL_TIME_TICK (R285): a period of a die's clock ends. The dies' clocks have no common phase: one may be a period ahead of the
count of cycles, and none is behind it. DEDUCED: log 97. -/
def execLogicalTimeTick (die : Nat) (s : State) : Host.Outcome State Fault Refusal :=
  if 8 ≤ die ∨ s.arith / 256 < (s.die die).ticks then .next s else .next (tickDie s die 1)

/-- The periods that have ended by now have advanced every die's time (R285). -/
def tickDies (s : State) : State :=
  (List.range 8).foldl (fun s die => if (s.die die).ticks < s.arith / 256 then tickDie s die (s.arith / 256 - (s.die die).ticks) else s) s

/-- AVOSH_BIND_WRITE (R357): Avosh writes a bind record in hardware mode. -/
def execAvoshBindWrite (core bindIx : Nat) (record : Word) (s : State) : Host.Outcome State Fault Refusal :=
  if hostAssisted s 0 || decide (256 ≤ core) || decide (16 ≤ bindIx) || !bindOk record then .next s
  else .next (writeBind s core bindIx record)

end Sys2Proof.Machine
end

