-- ==== Sys2Proof/Machine/Pair.lean ====
section
/-! DEFINITION. Pair words (R67 to R71) and words that are no instruction (R81). A slot performs the operation of the
full word that its class and op stand for, with D as its first source. -/

namespace Sys2Proof.Machine

/-- Is a slot's operation a unary one, D := op A (R68, R70)? -/
def slotUnary (x : Slot) : Bool :=
  let op := x.op.toNat
  match x.cls.toNat with
  | 0 => op == 0x10 || op == 0x11 || op == 0x12
  | 1 => op == 0x08 || op == 0x0E || op == 0x0F || op == 0x12 || op == 0x15 || op == 0x16
  | 2 => op == 0x06 || op == 0x07 || op == 0x09 || op == 0x0A || op == 0x0B
  | _ => op == 0x04 || op == 0x05

/-- The full word that performs a slot: its sources are D and A, or A alone; its flags are the type or the rounding. -/
def slotWord (x : Slot) : RWord :=
  let d := (slotCode x x.dst true).getD 0
  let a := (slotCode x x.src false).getD 0
  { dst := d, w := false, h := false, a := if slotUnary x then a else d, b := if slotUnary x then 0 else a, c := 0,
    k := x.k.setWidth 4, m := x.flags.setWidth 10 }

/-- The mask that a mask slot's source names: a k register, or a mask latch (R69). -/
def slotMask (w : Warp) (k0 : Mask) (c : BitVec 9) : Mask :=
  if isY c then
    match w.latch c with
    | some (.mask m) => m
    | _ => 0
  else w.k k0 c.toNat

/-- A mask slot's operation. -/
def maskOp (op : Nat) (d a : Mask) : Mask :=
  match op with
  | 0 => d &&& a
  | 1 => d ||| a
  | 2 => d ^^^ a
  | 3 => d &&& ~~~ a
  | 4 => ~~~ a
  | _ => a

/-- A mask slot (R68, R127). -/
def maskSlot (x : Slot) (f : RWord) (s : State) (c : Ctx) : Eff :=
  let w := s.warp c.wp
  let src := if slotUnary x then f.a else f.b
  maskDone s c f.dst false (maskOp x.op.toNat (w.k c.sp.mask f.dst.toNat) (slotMask w c.sp.mask src))

/-- A slot of pair class 0 (R73). -/
def scalarSlot (op : Nat) (f : RWord) (s : State) (c : Ctx) : Eff :=
  let w := s.warp c.wp
  match op with
  | 0x00 => scalar2 intAdd f s c
  | 0x01 => scalar2 intSub f s c
  | 0x02 => scalar2 intMul f s c
  | 0x06 => scalar2 intAnd f s c
  | 0x07 => scalar2 intOr f s c
  | 0x08 => scalar2 intXor f s c
  | 0x09 => scalar2 intShl f s c
  | 0x0A => scalar2 intShr f s c
  | 0x0B => scalar2 intSar f s c
  | 0x0C => scalar2 intMin f s c
  | 0x0D => scalar2 intMax f s c
  | 0x10 => scalar1 (fun _ a => a) f s c
  | 0x11 => scalarCount intPopc f s c
  | 0x12 => scalarCount intClz f s c
  | 0x18 => scalarFDone s c f f.rnd (f64.add (rndOf w f.rnd 128 0) w.ftz (w.uniF f64 f.a) (w.uniF f64 f.b))
  | _ => scalarFDone s c f f.rnd (f64.mul (rndOf w f.rnd 128 0) w.ftz (w.uniF f64 f.a) (w.uniF f64 f.b))

/-- A slot of pair class 1 (R74). -/
def vectorSlot (op : Nat) (f : RWord) (s : State) (c : Ctx) : Eff :=
  match op with
  | 0x00 => vector2 intAdd f s c
  | 0x01 => vector2 intSub f s c
  | 0x02 => vector2 intMul f s c
  | 0x05 => vector2 intAnd f s c
  | 0x06 => vector2 intOr f s c
  | 0x07 => vector2 intXor f s c
  | 0x08 => vector1 intNot f s c
  | 0x09 => vector2 intShl f s c
  | 0x0A => vector2 intShr f s c
  | 0x0B => vector2 intSar f s c
  | 0x0C => vector2 intMin f s c
  | 0x0D => vector2 intMax f s c
  | 0x0E => vector1 intAbs f s c
  | 0x0F => vector1 intNeg f s c
  | 0x12 => vector1 (fun _ a => a) f s c
  | 0x15 => vector1 intPopc f s c
  | _ => vector1 intClz f s c

/-- A slot of pair class 2 (R75): `.f32`, or two FP16 values in a lane. -/
def floatSlot (op : Nat) (f : RWord) (s : State) (c : Ctx) : Eff :=
  match op with
  | 0x00 => float2 Fmt.add f s c
  | 0x01 => float2 Fmt.sub f s c
  | 0x02 => float2 Fmt.mul f s c
  | 0x04 => floatMinmax false f s c
  | 0x05 => floatMinmax true f s c
  | 0x06 => floatForm f 0 (fun w F _ t => (w.vsrcF F f.a t % 2 ^ (F.width - 1), 0)) s c
  | 0x07 => floatForm f 0 (fun w F _ t => (F.negate (w.vsrcF F f.a t), 0)) s c
  | 0x09 => float1 Fmt.recip f s c
  | 0x0A => float1 Fmt.rsqrt f s c
  | 0x0B => float1 Fmt.sqrt f s c
  | 0x18 => packedForm f f.rnd (fun w r t j => f16.add r w.ftz (w.packed f16 f.a t j) (w.packed f16 f.b t j)) s c
  | _ => packedForm f f.rnd (fun w r t j => f16.mul r w.ftz (w.packed f16 f.a t j) (w.packed f16 f.b t j)) s c

/-- The operation of a slot. -/
def slotEff (x : Slot) (s : State) (c : Ctx) : Eff :=
  let f := slotWord x
  match x.cls.toNat with
  | 0 => scalarSlot x.op.toNat f s c
  | 1 => vectorSlot x.op.toNat f s c
  | 2 => floatSlot x.op.toNat f s c
  | _ => maskSlot x f s c

/-- A slot performed in a state: the state after, and its result. -/
def slotRun (x : Slot) (s : State) (c : Ctx) : State × Option Latch :=
  let w := s.warp c.wp
  let act := c.sp.mask &&& w.k c.sp.mask x.k.toNat
  match slotEff x s { c with act := act } with
  | .done s1 y => (s1, y)
  | _ => (s, none)

/-- Put what slot B wrote, computed beside slot A from the same operands, into the warp that slot A left (R70). -/
def slotMerge (x : Slot) (wa wb : Warp) : Warp :=
  let n := (slotWord x).dst.toNat
  let w := { wa with gen := wb.gen, fpmode := wa.fpmode ||| wb.fpmode, tokTag := wa.tokTag &&& wb.tokTag }
  match x.cls.toNat with
  | 0 => { w with sr := SMap.put 0 (n - 0x100) (wb.s (n - 0x100)) w.sr }
  | 3 => if n = 0 then w else { w with kr := SMap.put 0 n (wb.k 0 n) w.kr }
  | _ => { w with v := SMap.set n (wb.vreg n) w.v }

/-- Both slots of a pair word (R70): independent slots read before either writes, and draw in slot order; a dependent
slot B finds slot A's writes and its result in y0. -/
def pairRun (p : PWord) (s : State) (c : Ctx) : State :=
  let (s1, y) := slotRun p.sa s c
  let w1 := s1.warp c.wp
  if p.serial then
    let s2 := (slotRun p.sb (s1.setWarp c.wp { w1 with y0 := y }) c).1
    s2.setWarp c.wp (s2.warp c.wp).clearLatches
  else
    let before := { s1 with warps := s.warps }.setWarp c.wp { s.warp c.wp with gen := w1.gen }
    let s2 := (slotRun p.sb before c).1
    { s2 with warps := s1.warps }.setWarp c.wp (slotMerge p.sb w1 (s2.warp c.wp))

/-- The vector and s registers that a slot names. -/
def slotRegs (x : Slot) : List Nat :=
  if x.cls.toNat == 3 then []
  else ([slotCode x x.dst true, slotCode x x.src false].filterMap id).filterMap
    (fun c => if isV c || isS c then some c.toNat else none)

/-- Does a slot's source name a latch? -/
def slotLatch (x : Slot) : Bool := decide (0x90 ≤ x.src.toNat) && decide (x.src.toNat ≤ 0x93)

/-- May slot B read slot A's result as its y0: is it of the kind the slot takes (R63)? -/
def pairLatchKind (p : PWord) : Bool :=
  !p.serial || p.sb.src.toNat != 0x90 ||
    (match p.sb.cls.toNat with
    | 0 => p.sa.cls.toNat == 0
    | 3 => p.sa.cls.toNat == 3
    | _ => p.sa.cls.toNat != 3)

/-- R82's checks of a pair word, in its order. -/
def pairTrap (w : Warp) (sregs : Nat) (p : PWord) : Option Cause :=
  let slot (x : Slot) (kind : Bool) : Option Cause :=
    match checkSlot x with
    | some c => some c
    | none => if (slotRegs x).all (fun n => regOk w sregs n) && kind then none else some .illegalOperand
  match slot p.sa true with
  | some c => some c
  | none =>
    match slot p.sb (pairLatchKind p) with
    | some c => some c
    | none =>
      match checkPair p with
      | some c => some c
      | none =>
        if w.pos ≠ 0 then some .illegalOperand
        else if slotLatch p.sa || (slotLatch p.sb && !(p.serial && p.sb.src.toNat == 0x90)) then some .latchLost
        else none

/-- The s registers that a slot reads. -/
def slotReads (x : Slot) : List Nat :=
  (slotRegs x).filter (fun n => decide (0x100 ≤ n) && !(slotUnary x && n == (slotWord x).dst.toNat && n != (slotWord x).a.toNat))

/-- PAIR_WORD (R67 to R71). -/
def execPairWord (p : PWord) (s : State) : Host.Outcome State Fault Refusal :=
  let wp := s.issuer
  let w0 := s.warp wp
  match w0.frontier[w0.cur]? with
  | none => .next s
  | some sp =>
    let w := slotWarp w0 w0.cur sp
    let c : Ctx := { wp := wp, i := w0.cur, sp := sp, act := sp.mask }
    match pairTrap w (s.group w.grp).sregs p with
    | some x => .next (conclude s c false false false (.trap x (wordInfo w0 sp) sp.mask))
    | none =>
      if mustWait s wp (slotRegs p.sa ++ slotRegs p.sb) then .next s
      else
        match taggedRead w (slotReads p.sa ++ slotReads p.sb) with
        | some n =>
          let s1 := s.setWarp wp { w0 with tokTag := w0.tokTag &&& ~~~ (1#64 <<< (n - 0x100)) }
          .next (conclude s1 c false false false (.trap .engineFault (w.s (n - 0x100)) sp.mask))
        | none => .next (conclude s c false false false (.done (pairRun p (s.setWarp wp w) c) none))

/-- ILLEGAL_WORD (R81): a word that is no instruction traps ILLEGAL_OPCODE. -/
def execIllegalWord (_ : Word) (s : State) : Host.Outcome State Fault Refusal :=
  let wp := s.issuer
  let w := s.warp wp
  match w.frontier[w.cur]? with
  | none => .next s
  | some sp =>
    .next (conclude s { wp := wp, i := w.cur, sp := sp, act := sp.mask } false false false
      (.trap .illegalOpcode (wordInfo w sp) sp.mask))

end Sys2Proof.Machine
end

