-- ==== Sys2Proof/Machine/Dispatch.lean ====
section
/-! DEFINITION. One arm per instruction and event: the call of its meaning. -/

namespace Sys2Proof.Machine

/-- The meaning of an instruction or event. -/
def exec (i : Instr) (s : State) : Host.Outcome State Fault Refusal :=
  match i with
  | .sadd f => Sys2Proof.Machine.execSadd f s
  | .ssub f => Sys2Proof.Machine.execSsub f s
  | .smul f => Sys2Proof.Machine.execSmul f s
  | .smulh f => Sys2Proof.Machine.execSmulh f s
  | .sdiv f => Sys2Proof.Machine.execSdiv f s
  | .srem f => Sys2Proof.Machine.execSrem f s
  | .sand f => Sys2Proof.Machine.execSand f s
  | .sor f => Sys2Proof.Machine.execSor f s
  | .sxor f => Sys2Proof.Machine.execSxor f s
  | .sshl f => Sys2Proof.Machine.execSshl f s
  | .sshr f => Sys2Proof.Machine.execSshr f s
  | .ssar f => Sys2Proof.Machine.execSsar f s
  | .smin f => Sys2Proof.Machine.execSmin f s
  | .smax f => Sys2Proof.Machine.execSmax f s
  | .scmp f => Sys2Proof.Machine.execScmp f s
  | .ssel f => Sys2Proof.Machine.execSsel f s
  | .smov f => Sys2Proof.Machine.execSmov f s
  | .spopc f => Sys2Proof.Machine.execSpopc f s
  | .sclz f => Sys2Proof.Machine.execSclz f s
  | .sbfe f => Sys2Proof.Machine.execSbfe f s
  | .sbfi f => Sys2Proof.Machine.execSbfi f s
  | .sfadd f => Sys2Proof.Machine.execSfadd f s
  | .sfmul f => Sys2Proof.Machine.execSfmul f s
  | .sffma f => Sys2Proof.Machine.execSffma f s
  | .sfcmp f => Sys2Proof.Machine.execSfcmp f s
  | .scvt f => Sys2Proof.Machine.execScvt f s
  | .aadd f => Sys2Proof.Machine.execAadd f s
  | .amov f => Sys2Proof.Machine.execAmov f s
  | .ajoin f => Sys2Proof.Machine.execAjoin f s
  | .asplit f => Sys2Proof.Machine.execAsplit f s
  | .acmp f => Sys2Proof.Machine.execAcmp f s
  | .kand f => Sys2Proof.Machine.execKand f s
  | .kor f => Sys2Proof.Machine.execKor f s
  | .kxor f => Sys2Proof.Machine.execKxor f s
  | .kandn f => Sys2Proof.Machine.execKandn f s
  | .knot f => Sys2Proof.Machine.execKnot f s
  | .kmov f => Sys2Proof.Machine.execKmov f s
  | .kpopc f => Sys2Proof.Machine.execKpopc f s
  | .kfirst f => Sys2Proof.Machine.execKfirst f s
  | .kset f => Sys2Proof.Machine.execKset f s
  | .kget f => Sys2Proof.Machine.execKget f s
  | .saddImm f => Sys2Proof.Machine.execSaddImm f s
  | .ssubImm f => Sys2Proof.Machine.execSsubImm f s
  | .smulImm f => Sys2Proof.Machine.execSmulImm f s
  | .sandImm f => Sys2Proof.Machine.execSandImm f s
  | .sorImm f => Sys2Proof.Machine.execSorImm f s
  | .sxorImm f => Sys2Proof.Machine.execSxorImm f s
  | .sshlImm f => Sys2Proof.Machine.execSshlImm f s
  | .sshrImm f => Sys2Proof.Machine.execSshrImm f s
  | .ssarImm f => Sys2Proof.Machine.execSsarImm f s
  | .sminImm f => Sys2Proof.Machine.execSminImm f s
  | .smaxImm f => Sys2Proof.Machine.execSmaxImm f s
  | .scmpImm f => Sys2Proof.Machine.execScmpImm f s
  | .sli f => Sys2Proof.Machine.execSli f s
  | .slih f => Sys2Proof.Machine.execSlih f s
  | .aaddi f => Sys2Proof.Machine.execAaddi f s
  | .vadd f => Sys2Proof.Machine.execVadd f s
  | .vsub f => Sys2Proof.Machine.execVsub f s
  | .vmul f => Sys2Proof.Machine.execVmul f s
  | .vmulh f => Sys2Proof.Machine.execVmulh f s
  | .vmad f => Sys2Proof.Machine.execVmad f s
  | .vand f => Sys2Proof.Machine.execVand f s
  | .vor f => Sys2Proof.Machine.execVor f s
  | .vxor f => Sys2Proof.Machine.execVxor f s
  | .vnot f => Sys2Proof.Machine.execVnot f s
  | .vshl f => Sys2Proof.Machine.execVshl f s
  | .vshr f => Sys2Proof.Machine.execVshr f s
  | .vsar f => Sys2Proof.Machine.execVsar f s
  | .vmin f => Sys2Proof.Machine.execVmin f s
  | .vmax f => Sys2Proof.Machine.execVmax f s
  | .vabs f => Sys2Proof.Machine.execVabs f s
  | .vneg f => Sys2Proof.Machine.execVneg f s
  | .vcmp f => Sys2Proof.Machine.execVcmp f s
  | .vsel f => Sys2Proof.Machine.execVsel f s
  | .vmov f => Sys2Proof.Machine.execVmov f s
  | .vbfe f => Sys2Proof.Machine.execVbfe f s
  | .vbfi f => Sys2Proof.Machine.execVbfi f s
  | .vpopc f => Sys2Proof.Machine.execVpopc f s
  | .vclz f => Sys2Proof.Machine.execVclz f s
  | .vlane f => Sys2Proof.Machine.execVlane f s
  | .vaddImm f => Sys2Proof.Machine.execVaddImm f s
  | .vsubImm f => Sys2Proof.Machine.execVsubImm f s
  | .vmulImm f => Sys2Proof.Machine.execVmulImm f s
  | .vandImm f => Sys2Proof.Machine.execVandImm f s
  | .vorImm f => Sys2Proof.Machine.execVorImm f s
  | .vxorImm f => Sys2Proof.Machine.execVxorImm f s
  | .vshlImm f => Sys2Proof.Machine.execVshlImm f s
  | .vshrImm f => Sys2Proof.Machine.execVshrImm f s
  | .vsarImm f => Sys2Proof.Machine.execVsarImm f s
  | .vminImm f => Sys2Proof.Machine.execVminImm f s
  | .vmaxImm f => Sys2Proof.Machine.execVmaxImm f s
  | .vcmpImm f => Sys2Proof.Machine.execVcmpImm f s
  | .vmovImm f => Sys2Proof.Machine.execVmovImm f s
  | .fadd f => Sys2Proof.Machine.execFadd f s
  | .fsub f => Sys2Proof.Machine.execFsub f s
  | .fmul f => Sys2Proof.Machine.execFmul f s
  | .ffma f => Sys2Proof.Machine.execFfma f s
  | .fmin f => Sys2Proof.Machine.execFmin f s
  | .fmax f => Sys2Proof.Machine.execFmax f s
  | .fabs f => Sys2Proof.Machine.execFabs f s
  | .fneg f => Sys2Proof.Machine.execFneg f s
  | .fcmp f => Sys2Proof.Machine.execFcmp f s
  | .frcp f => Sys2Proof.Machine.execFrcp f s
  | .frsq f => Sys2Proof.Machine.execFrsq f s
  | .fsqrt f => Sys2Proof.Machine.execFsqrt f s
  | .fdiv f => Sys2Proof.Machine.execFdiv f s
  | .fexp2 f => Sys2Proof.Machine.execFexp2 f s
  | .flog2 f => Sys2Proof.Machine.execFlog2 f s
  | .fsin f => Sys2Proof.Machine.execFsin f s
  | .fcos f => Sys2Proof.Machine.execFcos f s
  | .frnd f => Sys2Proof.Machine.execFrnd f s
  | .hadd2 f => Sys2Proof.Machine.execHadd2 f s
  | .hmul2 f => Sys2Proof.Machine.execHmul2 f s
  | .hfma2 f => Sys2Proof.Machine.execHfma2 f s
  | .vdot4 f => Sys2Proof.Machine.execVdot4 f s
  | .vdot8 f => Sys2Proof.Machine.execVdot8 f s
  | .faddImm f => Sys2Proof.Machine.execFaddImm f s
  | .fsubImm f => Sys2Proof.Machine.execFsubImm f s
  | .fmulImm f => Sys2Proof.Machine.execFmulImm f s
  | .fminImm f => Sys2Proof.Machine.execFminImm f s
  | .fmaxImm f => Sys2Proof.Machine.execFmaxImm f s
  | .fcmpImm f => Sys2Proof.Machine.execFcmpImm f s
  | .cvt f => Sys2Proof.Machine.execCvt f s
  | .cvts f => Sys2Proof.Machine.execCvts f s
  | .cvtp f => Sys2Proof.Machine.execCvtp f s
  | .vshfl f => Sys2Proof.Machine.execVshfl f s
  | .vbcast f => Sys2Proof.Machine.execVbcast f s
  | .vred f => Sys2Proof.Machine.execVred f s
  | .vscan f => Sys2Proof.Machine.execVscan f s
  | .vvote f => Sys2Proof.Machine.execVvote f s
  | .pairWord f => Sys2Proof.Machine.execPairWord f s
  | .illegalWord raw => Sys2Proof.Machine.execIllegalWord raw s
  | .br f => Sys2Proof.Machine.execBr f s
  | .brk f => Sys2Proof.Machine.execBrk f s
  | .brx f => Sys2Proof.Machine.execBrx f s
  | .call f => Sys2Proof.Machine.execCall f s
  | .ret f => Sys2Proof.Machine.execRet f s
  | .yield f => Sys2Proof.Machine.execYield f s
  | .join f => Sys2Proof.Machine.execJoin f s
  | .prio f => Sys2Proof.Machine.execPrio f s
  | .exit f => Sys2Proof.Machine.execExit f s
  | .nop f => Sys2Proof.Machine.execNop f s
  | .spinw f => Sys2Proof.Machine.execSpinw f s
  | .trap f => Sys2Proof.Machine.execTrap f s
  | .tret f => Sys2Proof.Machine.execTret f s
  | .sysr f => Sys2Proof.Machine.execSysr f s
  | .sysw f => Sys2Proof.Machine.execSysw f s
  | .syswFpmode f => Sys2Proof.Machine.execSyswFpmode f s
  | .syswAgelim f => Sys2Proof.Machine.execSyswAgelim f s
  | .syswVtcmp f => Sys2Proof.Machine.execSyswVtcmp f s
  | .syswDeadline f => Sys2Proof.Machine.execSyswDeadline f s
  | .syswPushq f => Sys2Proof.Machine.execSyswPushq f s
  | .cyc f => Sys2Proof.Machine.execCyc f s
  | .cycVt f => Sys2Proof.Machine.execCycVt f s
  | .tarm f => Sys2Proof.Machine.execTarm f s
  | .tarmDl f => Sys2Proof.Machine.execTarmDl f s
  | .pmonRd f => Sys2Proof.Machine.execPmonRd f s
  | .pmonSel f => Sys2Proof.Machine.execPmonSel f s
  | .pmonClr f => Sys2Proof.Machine.execPmonClr f s
  | .bkpt f => Sys2Proof.Machine.execBkpt f s
  | .cwb f => Sys2Proof.Machine.execCwb f s
  | .cinvL1 f => Sys2Proof.Machine.execCinvL1 f s
  | .cinvL2 f => Sys2Proof.Machine.execCinvL2 f s
  | .tlbiVa f => Sys2Proof.Machine.execTlbiVa f s
  | .tlbiAsid f => Sys2Proof.Machine.execTlbiAsid f s
  | .tlbiAll f => Sys2Proof.Machine.execTlbiAll f s
  | .wake f => Sys2Proof.Machine.execWake f s
  | .pgate f => Sys2Proof.Machine.execPgate f s
  | .mode f => Sys2Proof.Machine.execMode f s
  | .modeRd f => Sys2Proof.Machine.execModeRd f s
  | .ld f => Sys2Proof.Machine.execLd f s
  | .ldRep f => Sys2Proof.Machine.execLdRep f s
  | .ldu f => Sys2Proof.Machine.execLdu f s
  | .lduRep f => Sys2Proof.Machine.execLduRep f s
  | .lda f => Sys2Proof.Machine.execLda f s
  | .ldl f => Sys2Proof.Machine.execLdl f s
  | .ldt f => Sys2Proof.Machine.execLdt f s
  | .ldv f => Sys2Proof.Machine.execLdv f s
  | .pref f => Sys2Proof.Machine.execPref f s
  | .st f => Sys2Proof.Machine.execSt f s
  | .stu f => Sys2Proof.Machine.execStu f s
  | .strl f => Sys2Proof.Machine.execStrl f s
  | .stl f => Sys2Proof.Machine.execStl f s
  | .stv f => Sys2Proof.Machine.execStv f s
  | .pour f => Sys2Proof.Machine.execPour f s
  | .atom f => Sys2Proof.Machine.execAtom f s
  | .atomn f => Sys2Proof.Machine.execAtomn f s
  | .cas f => Sys2Proof.Machine.execCas f s
  | .fence f => Sys2Proof.Machine.execFence f s
  | .cpy f => Sys2Proof.Machine.execCpy f s
  | .cpyt f => Sys2Proof.Machine.execCpyt f s
  | .cpytPinit f => Sys2Proof.Machine.execCpytPinit f s
  | .slinit f => Sys2Proof.Machine.execSlinit f s
  | .slarr f => Sys2Proof.Machine.execSlarr f s
  | .slwait f => Sys2Proof.Machine.execSlwait f s
  | .skim f => Sys2Proof.Machine.execSkim f s
  | .drossRd f => Sys2Proof.Machine.execDrossRd f s
  | .drossClr f => Sys2Proof.Machine.execDrossClr f s
  | .bin f => Sys2Proof.Machine.execBin f s
  | .bpatch f => Sys2Proof.Machine.execBpatch f s
  | .erls f => Sys2Proof.Machine.execErls f s
  | .bar f => Sys2Proof.Machine.execBar f s
  | .phase f => Sys2Proof.Machine.execPhase f s
  | .carryRegs f => Sys2Proof.Machine.execCarryRegs f s
  | .carryLs f => Sys2Proof.Machine.execCarryLs f s
  | .vgive f => Sys2Proof.Machine.execVgive f s
  | .vclaim f => Sys2Proof.Machine.execVclaim f s
  | .enq f => Sys2Proof.Machine.execEnq f s
  | .launch f => Sys2Proof.Machine.execLaunch f s
  | .gcond f => Sys2Proof.Machine.execGcond f s
  | .cwait f => Sys2Proof.Machine.execCwait f s
  | .migr f => Sys2Proof.Machine.execMigr f s
  | .bind f => Sys2Proof.Machine.execBind f s
  | .mdesc f => Sys2Proof.Machine.execMdesc f s
  | .mdescGet f => Sys2Proof.Machine.execMdescGet f s
  | .mzero f => Sys2Proof.Machine.execMzero f s
  | .mma f => Sys2Proof.Machine.execMma f s
  | .mloop f => Sys2Proof.Machine.execMloop f s
  | .mpoly f => Sys2Proof.Machine.execMpoly f s
  | .miter f => Sys2Proof.Machine.execMiter f s
  | .mldc f => Sys2Proof.Machine.execMldc f s
  | .mstc f => Sys2Proof.Machine.execMstc f s
  | .mmov f => Sys2Proof.Machine.execMmov f s
  | .mnrm f => Sys2Proof.Machine.execMnrm f s
  | .mqldOne f => Sys2Proof.Machine.execMqldOne f s
  | .mqldLs f => Sys2Proof.Machine.execMqldLs f s
  | .mqldVt f => Sys2Proof.Machine.execMqldVt f s
  | .mstat f => Sys2Proof.Machine.execMstat f s
  | .creg f => Sys2Proof.Machine.execCreg f s
  | .cunreg f => Sys2Proof.Machine.execCunreg f s
  | .recast f => Sys2Proof.Machine.execRecast f s
  | .recastFit f => Sys2Proof.Machine.execRecastFit f s
  | .cgen f => Sys2Proof.Machine.execCgen f s
  | .ceval f => Sys2Proof.Machine.execCeval f s
  | .cflash f => Sys2Proof.Machine.execCflash f s
  | .trapDelivery wp => Sys2Proof.Machine.execTrapDelivery wp s
  | .loadReturn core ix => Sys2Proof.Machine.execLoadReturn core ix s
  | .homeStore core ix => Sys2Proof.Machine.execHomeStore core ix s
  | .sliceRead core ix part => Sys2Proof.Machine.execSliceRead core ix part s
  | .pushFill core ix => Sys2Proof.Machine.execPushFill core ix s
  | .pushAck core ix => Sys2Proof.Machine.execPushAck core ix s
  | .dispatch core => Sys2Proof.Machine.execDispatch core s
  | .matrixOpPerform core => Sys2Proof.Machine.execMatrixOpPerform core s
  | .engineCommandComplete core cmd => Sys2Proof.Machine.execEngineCommandComplete core cmd s
  | .spinwExpiry wp sp => Sys2Proof.Machine.execSpinwExpiry wp sp s
  | .yieldExpiry wp sp => Sys2Proof.Machine.execYieldExpiry wp sp s
  | .forcedTurn wp => Sys2Proof.Machine.execForcedTurn wp s
  | .hang wp => Sys2Proof.Machine.execHang wp s
  | .monitorSample die mon value => Sys2Proof.Machine.execMonitorSample die mon value s
  | .vtimeTimerFire wp => Sys2Proof.Machine.execVtimeTimerFire wp s
  | .deadlineFire wp => Sys2Proof.Machine.execDeadlineFire wp s
  | .groupSave core grp area => Sys2Proof.Machine.execGroupSave core grp area s
  | .groupRestore core bindIx => Sys2Proof.Machine.execGroupRestore core bindIx s
  | .sideLogReplay core ix => Sys2Proof.Machine.execSideLogReplay core ix s
  | .pageFaultService req outcome pte => Sys2Proof.Machine.execPageFaultService req outcome pte s
  | .regenerationComplete req faulted pte => Sys2Proof.Machine.execRegenerationComplete req faulted pte s
  | .victimEvict asid va => Sys2Proof.Machine.execVictimEvict asid va s
  | .atomicWindowEnd core ix => Sys2Proof.Machine.execAtomicWindowEnd core ix s
  | .rds msg => Sys2Proof.Machine.execRds msg s
  | .rdx msg => Sys2Proof.Machine.execRdx msg s
  | .upg msg => Sys2Proof.Machine.execUpg msg s
  | .pute msg => Sys2Proof.Machine.execPute msg s
  | .putm msg => Sys2Proof.Machine.execPutm msg s
  | .evict msg => Sys2Proof.Machine.execEvict msg s
  | .invack msg => Sys2Proof.Machine.execInvack msg s
  | .rcldata msg => Sys2Proof.Machine.execRcldata msg s
  | .rclack msg => Sys2Proof.Machine.execRclack msg s
  | .data msg => Sys2Proof.Machine.execData msg s
  | .gntx msg => Sys2Proof.Machine.execGntx msg s
  | .inv msg => Sys2Proof.Machine.execInv msg s
  | .rcl msg => Sys2Proof.Machine.execRcl msg s
  | .putack msg => Sys2Proof.Machine.execPutack msg s
  | .fill msg => Sys2Proof.Machine.execFill msg s
  | .proxyEvict die line => Sys2Proof.Machine.execProxyEvict die line s
  | .copyUnitLand core cmd => Sys2Proof.Machine.execCopyUnitLand core cmd s
  | .phaseEnd core grp => Sys2Proof.Machine.execPhaseEnd core grp s
  | .weirBalance die => Sys2Proof.Machine.execWeirBalance die s
  | .launchComplete launch => Sys2Proof.Machine.execLaunchComplete launch s
  | .launchFaultedEnd launch => Sys2Proof.Machine.execLaunchFaultedEnd launch s
  | .graphLoad die queue => Sys2Proof.Machine.execGraphLoad die queue s
  | .nodeRun die node => Sys2Proof.Machine.execNodeRun die node s
  | .nodeComplete die node => Sys2Proof.Machine.execNodeComplete die node s
  | .queueEntryError die what ix slot shadowBad => Sys2Proof.Machine.execQueueEntryError die what ix slot shadowBad s
  | .castLoad core ix part => Sys2Proof.Machine.execCastLoad core ix part s
  | .castStore core ix => Sys2Proof.Machine.execCastStore core ix s
  | .regionBuildComplete region => Sys2Proof.Machine.execRegionBuildComplete region s
  | .regionCloseComplete region => Sys2Proof.Machine.execRegionCloseComplete region s
  | .recastScanDone region => Sys2Proof.Machine.execRecastScanDone region s
  | .evaluatorFreezeAck region slice => Sys2Proof.Machine.execEvaluatorFreezeAck region slice s
  | .msgEnqueue m => Sys2Proof.Machine.execMsgEnqueue m s
  | .msgRepair m => Sys2Proof.Machine.execMsgRepair m s
  | .msgMigrate m => Sys2Proof.Machine.execMsgMigrate m s
  | .msgPreempt m => Sys2Proof.Machine.execMsgPreempt m s
  | .msgBind m => Sys2Proof.Machine.execMsgBind m s
  | .msgMould m => Sys2Proof.Machine.execMsgMould m s
  | .msgPage m => Sys2Proof.Machine.execMsgPage m s
  | .msgMode m => Sys2Proof.Machine.execMsgMode m s
  | .msgKey m => Sys2Proof.Machine.execMsgKey m s
  | .msgKeyUnbind m => Sys2Proof.Machine.execMsgKeyUnbind m s
  | .msgAttest m => Sys2Proof.Machine.execMsgAttest m s
  | .msgRing m => Sys2Proof.Machine.execMsgRing m s
  | .msgReset m => Sys2Proof.Machine.execMsgReset m s
  | .coldReset => Sys2Proof.Machine.execColdReset s
  | .deviceLost => Sys2Proof.Machine.execDeviceLost s
  | .gatePrepComplete core => Sys2Proof.Machine.execGatePrepComplete core s
  | .gatePowerUp core => Sys2Proof.Machine.execGatePowerUp core s
  | .cxlLinkFail port => Sys2Proof.Machine.execCxlLinkFail port s
  | .logicalTimeTick die => Sys2Proof.Machine.execLogicalTimeTick die s
  | .avoshBindWrite core bindIx record => Sys2Proof.Machine.execAvoshBindWrite core bindIx record s
  | .avoshWarmReset => Sys2Proof.Machine.execAvoshWarmReset s
  | .msgUnlistedOp m => Sys2Proof.Machine.execMsgUnlistedOp m s

end Sys2Proof.Machine
end

