-- ==== Sys2Proof/WellFormed.lean ====
section
/-! DEFINITION. Well-formed instructions: the words the spec lets execute, as far as the word alone decides (R57 to R60,
R82 steps 1 to 4), and the events that name an item that can exist. -/

namespace Sys2Proof

open Sys2Proof.Machine

/-- R82 steps 1 to 4 of an instruction, as far as its word decides them: the trap it raises, or none. -/
def Instr.staticCheck : Instr → Option Cause
  | .sadd f => shS3.check f
  | .ssub f => shS3.check f
  | .smul f => shS3.check f
  | .smulh f => shS3.check f
  | .sdiv f => shS3.check f
  | .srem f => shS3.check f
  | .sand f => shS3.check f
  | .sor f => shS3.check f
  | .sxor f => shS3.check f
  | .sshl f => shS3.check f
  | .sshr f => shS3.check f
  | .ssar f => shS3.check f
  | .smin f => shS3.check f
  | .smax f => shS3.check f
  | .scmp f => (shScmp f).check f
  | .ssel f => shSsel.check f
  | .smov f => shS2.check f
  | .spopc f => shS2.check f
  | .sclz f => shS2.check f
  | .sbfe f => shSbf.check f
  | .sbfi f => shSbfi.check f
  | .sfadd f => (shSf2 f).check f
  | .sfmul f => (shSf2 f).check f
  | .sffma f => (shSf3 f).check f
  | .sfcmp f => (shSfcmp f).check f
  | .scvt f => (shScvt f).check f
  | .aadd f => shAadd.check f
  | .amov f => shAmov.check f
  | .ajoin f => shAjoin.check f
  | .asplit f => shAsplit.check f
  | .acmp f => (shAcmp f).check f
  | .kand f => shK3.check f
  | .kor f => shK3.check f
  | .kxor f => shK3.check f
  | .kandn f => shK3.check f
  | .knot f => shK2.check f
  | .kmov f => shK2.check f
  | .kpopc f => shKcount.check f
  | .kfirst f => shKcount.check f
  | .kset f => shKset.check f
  | .kget f => shKget.check f
  | .saddImm f => shSimm.checkI f
  | .ssubImm f => shSimm.checkI f
  | .smulImm f => shSimm.checkI f
  | .sandImm f => shSimm.checkI f
  | .sorImm f => shSimm.checkI f
  | .sxorImm f => shSimm.checkI f
  | .sshlImm f => shSimm.checkI f
  | .sshrImm f => shSimm.checkI f
  | .ssarImm f => shSimm.checkI f
  | .sminImm f => shSimm.checkI f
  | .smaxImm f => shSimm.checkI f
  | .scmpImm f => shSimm.checkI f
  | .sli f => shSli.checkI f
  | .slih f => shSlih.checkI f
  | .aaddi f => shAaddi.checkI f
  | .vadd f => (shV3sat f).check f
  | .vsub f => (shV3sat f).check f
  | .vmul f => (shV3 f).check f
  | .vmulh f => (shV3 f).check f
  | .vmad f => (shV4 f).check f
  | .vand f => (shV3 f).check f
  | .vor f => (shV3 f).check f
  | .vxor f => (shV3 f).check f
  | .vnot f => (shV2 f).check f
  | .vshl f => (shV3 f).check f
  | .vshr f => (shV3 f).check f
  | .vsar f => (shV3 f).check f
  | .vmin f => (shV3 f).check f
  | .vmax f => (shV3 f).check f
  | .vabs f => (shV2sat f).check f
  | .vneg f => (shV2sat f).check f
  | .vcmp f => (shVcmp f).check f
  | .vsel f => shVsel.check f
  | .vmov f => (shV2 f).check f
  | .vbfe f => (shV4 f).check f
  | .vbfi f => (shVbfi f).check f
  | .vpopc f => (shV2 f).check f
  | .vclz f => (shV2 f).check f
  | .vlane f => shVlane.check f
  | .vaddImm f => shVimm.checkI f
  | .vsubImm f => shVimm.checkI f
  | .vmulImm f => shVimm.checkI f
  | .vandImm f => shVimm.checkI f
  | .vorImm f => shVimm.checkI f
  | .vxorImm f => shVimm.checkI f
  | .vshlImm f => shVimm.checkI f
  | .vshrImm f => shVimm.checkI f
  | .vsarImm f => shVimm.checkI f
  | .vminImm f => shVimm.checkI f
  | .vmaxImm f => shVimm.checkI f
  | .vcmpImm f => shVcmpImm.checkI f
  | .vmovImm f => shVmovImm.checkI f
  | .fadd f => (shF3 f).check f
  | .fsub f => (shF3 f).check f
  | .fmul f => (shF3 f).check f
  | .ffma f => (shF4 f).check f
  | .fmin f => (shFmin f).check f
  | .fmax f => (shFmin f).check f
  | .fabs f => (shFabs f).check f
  | .fneg f => (shFabs f).check f
  | .fcmp f => (shFcmp f).check f
  | .frcp f => (shF2 f).check f
  | .frsq f => (shF2 f).check f
  | .fsqrt f => (shF2 f).check f
  | .fdiv f => (shF3 f).check f
  | .fexp2 f => (shF2 f).check f
  | .flog2 f => (shF2 f).check f
  | .fsin f => (shF2 f).check f
  | .fcos f => (shF2 f).check f
  | .frnd f => (shF2 f).check f
  | .hadd2 f => (shH3 f).check f
  | .hmul2 f => (shH3 f).check f
  | .hfma2 f => (shH4 f).check f
  | .vdot4 f => (shVdot4 f).check f
  | .vdot8 f => (shVdot8 f).check f
  | .faddImm f => shVimm.checkI f
  | .fsubImm f => shVimm.checkI f
  | .fmulImm f => shVimm.checkI f
  | .fminImm f => shVimm.checkI f
  | .fmaxImm f => shVimm.checkI f
  | .fcmpImm f => shVcmpImm.checkI f
  | .cvt f => (shCvt f).check f
  | .cvts f => (shCvts f).check f
  | .cvtp f => (shCvtp f).check f
  | .vshfl f => (shVshfl f).check f
  | .vbcast f => shVbcast.check f
  | .vred f => (shVred f).check f
  | .vscan f => (shVscan f).check f
  | .vvote f => (shVvote f).check f
  | .br f => shBr.checkI f
  | .brk f => (shBrk f).checkI f
  | .brx f => shBrx.check f
  | .call f => (shCall f).checkI f
  | .ret f => shRet.check f
  | .yield f => shNone.check f
  | .join f => shJoin.check f
  | .prio f => shUni1.check f
  | .exit f => (shExit f).check f
  | .nop f => shNone.check f
  | .spinw f => shUni1.check f
  | .trap f => shUni1.check f
  | .tret f => shTret.check f
  | .sysr f => (shSysr f).check f
  | .sysw f => (shSysw f).check f
  | .syswFpmode f => (shSysw f).check f
  | .syswAgelim f => (shSysw f).check f
  | .syswVtcmp f => (shSysw f).check f
  | .syswDeadline f => (shSysw f).check f
  | .syswPushq f => (shSysw f).check f
  | .cyc f => shCyc.check f
  | .cycVt f => shCyc.check f
  | .tarm f => shTarm.check f
  | .tarmDl f => shTarm.check f
  | .pmonRd f => (shPmonRd f).check f
  | .pmonSel f => shPmonSel.check f
  | .pmonClr f => shPmonClr.check f
  | .bkpt f => shUni1.check f
  | .cwb f => shCwb.check f
  | .cinvL1 f => shCinvL1.check f
  | .cinvL2 f => shCinvL2.check f
  | .tlbiVa f => (shTlbiVa f).check f
  | .tlbiAsid f => (shTlbiAsid f).check f
  | .tlbiAll f => (shTlbiAll f).check f
  | .wake f => shWake.check f
  | .pgate f => shPgate.check f
  | .mode f => (shMode f).check f
  | .modeRd f => (shModeRd f).check f
  | .ld f => (shLd f).check f
  | .ldRep f => (shLd f).check f
  | .ldu f => (shLdu f).check f
  | .lduRep f => (shLdu f).check f
  | .lda f => (shLda f).check f
  | .ldl f => (shLdl f).check f
  | .ldt f => (shLdt f).check f
  | .ldv f => (shLd f).check f
  | .pref f => (shPref f).check f
  | .st f => (shSt f).check f
  | .stu f => (shStu f).check f
  | .strl f => (shStrl f).check f
  | .stl f => (shStl f).check f
  | .stv f => (shSt f).check f
  | .pour f => (shPour f).check f
  | .atom f => (shAtom f).check f
  | .atomn f => (shAtomn f).check f
  | .cas f => (shCas f).check f
  | .fence f => (shFence f).check f
  | .cpy f => (shCpy f).check f
  | .cpyt f => (shCpyt f).check f
  | .cpytPinit f => (shCpytPinit f).check f
  | .slinit f => shSlinit.check f
  | .slarr f => shUni2.check f
  | .slwait f => shUni2.check f
  | .skim f => (shSkim f).check f
  | .drossRd f => (shDrossRd f).check f
  | .drossClr f => (shDrossClr f).check f
  | .bin f => (shSkim f).check f
  | .bpatch f => shBpatch.check f
  | .erls f => shNone.check f
  | .bar f => shUni2.check f
  | .phase f => shNone.check f
  | .carryRegs f => shCarryRegs.check f
  | .carryLs f => shCarryLs.check f
  | .vgive f => shUni1.check f
  | .vclaim f => shUni1.check f
  | .enq f => (shEnq f).check f
  | .launch f => (shLaunch f).check f
  | .gcond f => shUni2.check f
  | .cwait f => (shCwait f).check f
  | .migr f => shMigr.check f
  | .bind f => shBind.check f
  | .mdesc f => shMdesc.check f
  | .mdescGet f => shMdescGet.check f
  | .mzero f => shMzero.check f
  | .mma f => shMma.check f
  | .mloop f => shMloop.check f
  | .mpoly f => shMpoly.check f
  | .miter f => shMiter.check f
  | .mldc f => shMldc.check f
  | .mstc f => (shMstc f).check f
  | .mmov f => (shMmov f).check f
  | .mnrm f => (shMnrm f).check f
  | .mqldOne f => (shMqldOne f).check f
  | .mqldLs f => shMqldMem.check f
  | .mqldVt f => shMqldMem.check f
  | .mstat f => (shMstat f).check f
  | .creg f => (shCreg f).check f
  | .cunreg f => (shCunreg f).check f
  | .recast f => (shRecast f).check f
  | .recastFit f => (shRecastFit f).check f
  | .cgen f => (shCgen f).check f
  | .ceval f => shCeval.check f
  | .cflash f => shCflash.check f
  | .pairWord f => checkPair f
  | .illegalWord _ => some .illegalOpcode
  | .spinwExpiry _ _ => none
  | .yieldExpiry _ _ => none
  | .forcedTurn _ => none
  | .hang _ => none
  | .monitorSample _ _ _ => none
  | .trapDelivery _ => none
  | .vtimeTimerFire _ => none
  | .deadlineFire _ => none
  | .groupSave _ _ _ => none
  | .groupRestore _ _ => none
  | .loadReturn _ _ => none
  | .sideLogReplay _ _ => none
  | .pageFaultService _ _ _ => none
  | .regenerationComplete _ _ _ => none
  | .victimEvict _ _ => none
  | .atomicWindowEnd _ _ => none
  | .homeStore _ _ => none
  | .sliceRead _ _ _ => none
  | .pushFill _ _ => none
  | .pushAck _ _ => none
  | .rds _ => none
  | .rdx _ => none
  | .upg _ => none
  | .pute _ => none
  | .putm _ => none
  | .evict _ => none
  | .invack _ => none
  | .rcldata _ => none
  | .rclack _ => none
  | .data _ => none
  | .gntx _ => none
  | .inv _ => none
  | .rcl _ => none
  | .putack _ => none
  | .fill _ => none
  | .proxyEvict _ _ => none
  | .copyUnitLand _ _ => none
  | .engineCommandComplete _ _ => none
  | .phaseEnd _ _ => none
  | .dispatch _ => none
  | .weirBalance _ => none
  | .launchComplete _ => none
  | .launchFaultedEnd _ => none
  | .graphLoad _ _ => none
  | .nodeRun _ _ => none
  | .nodeComplete _ _ => none
  | .queueEntryError _ _ _ _ _ => none
  | .matrixOpPerform _ => none
  | .castLoad _ _ _ => none
  | .castStore _ _ => none
  | .regionBuildComplete _ => none
  | .regionCloseComplete _ => none
  | .recastScanDone _ => none
  | .evaluatorFreezeAck _ _ => none
  | .msgEnqueue _ => none
  | .msgRepair _ => none
  | .msgMigrate _ => none
  | .msgPreempt _ => none
  | .msgBind _ => none
  | .msgMould _ => none
  | .msgPage _ => none
  | .msgMode _ => none
  | .msgKey _ => none
  | .msgKeyUnbind _ => none
  | .msgAttest _ => none
  | .msgRing _ => none
  | .msgReset _ => none
  | .coldReset => none
  | .deviceLost => none
  | .gatePrepComplete _ => none
  | .gatePowerUp _ => none
  | .cxlLinkFail _ => none
  | .logicalTimeTick _ => none
  | .avoshBindWrite _ _ _ => none
  | .avoshWarmReset => none
  | .msgUnlistedOp _ => none

/-- Which of the rows that share one op the word's own bits select (R200, R317, R362, R391, R437, R190). -/
def Instr.variantOk : Instr → Bool
  | .sadd _ => true
  | .ssub _ => true
  | .smul _ => true
  | .smulh _ => true
  | .sdiv _ => true
  | .srem _ => true
  | .sand _ => true
  | .sor _ => true
  | .sxor _ => true
  | .sshl _ => true
  | .sshr _ => true
  | .ssar _ => true
  | .smin _ => true
  | .smax _ => true
  | .scmp _ => true
  | .ssel _ => true
  | .smov _ => true
  | .spopc _ => true
  | .sclz _ => true
  | .sbfe _ => true
  | .sbfi _ => true
  | .sfadd _ => true
  | .sfmul _ => true
  | .sffma _ => true
  | .sfcmp _ => true
  | .scvt _ => true
  | .aadd _ => true
  | .amov _ => true
  | .ajoin _ => true
  | .asplit _ => true
  | .acmp _ => true
  | .kand _ => true
  | .kor _ => true
  | .kxor _ => true
  | .kandn _ => true
  | .knot _ => true
  | .kmov _ => true
  | .kpopc _ => true
  | .kfirst _ => true
  | .kset _ => true
  | .kget _ => true
  | .saddImm _ => true
  | .ssubImm _ => true
  | .smulImm _ => true
  | .sandImm _ => true
  | .sorImm _ => true
  | .sxorImm _ => true
  | .sshlImm _ => true
  | .sshrImm _ => true
  | .ssarImm _ => true
  | .sminImm _ => true
  | .smaxImm _ => true
  | .scmpImm _ => true
  | .sli _ => true
  | .slih _ => true
  | .aaddi _ => true
  | .vadd _ => true
  | .vsub _ => true
  | .vmul _ => true
  | .vmulh _ => true
  | .vmad _ => true
  | .vand _ => true
  | .vor _ => true
  | .vxor _ => true
  | .vnot _ => true
  | .vshl _ => true
  | .vshr _ => true
  | .vsar _ => true
  | .vmin _ => true
  | .vmax _ => true
  | .vabs _ => true
  | .vneg _ => true
  | .vcmp _ => true
  | .vsel _ => true
  | .vmov _ => true
  | .vbfe _ => true
  | .vbfi _ => true
  | .vpopc _ => true
  | .vclz _ => true
  | .vlane _ => true
  | .vaddImm _ => true
  | .vsubImm _ => true
  | .vmulImm _ => true
  | .vandImm _ => true
  | .vorImm _ => true
  | .vxorImm _ => true
  | .vshlImm _ => true
  | .vshrImm _ => true
  | .vsarImm _ => true
  | .vminImm _ => true
  | .vmaxImm _ => true
  | .vcmpImm _ => true
  | .vmovImm _ => true
  | .fadd _ => true
  | .fsub _ => true
  | .fmul _ => true
  | .ffma _ => true
  | .fmin _ => true
  | .fmax _ => true
  | .fabs _ => true
  | .fneg _ => true
  | .fcmp _ => true
  | .frcp _ => true
  | .frsq _ => true
  | .fsqrt _ => true
  | .fdiv _ => true
  | .fexp2 _ => true
  | .flog2 _ => true
  | .fsin _ => true
  | .fcos _ => true
  | .frnd _ => true
  | .hadd2 _ => true
  | .hmul2 _ => true
  | .hfma2 _ => true
  | .vdot4 _ => true
  | .vdot8 _ => true
  | .faddImm _ => true
  | .fsubImm _ => true
  | .fmulImm _ => true
  | .fminImm _ => true
  | .fmaxImm _ => true
  | .fcmpImm _ => true
  | .cvt _ => true
  | .cvts _ => true
  | .cvtp _ => true
  | .vshfl _ => true
  | .vbcast _ => true
  | .vred _ => true
  | .vscan _ => true
  | .vvote _ => true
  | .br _ => true
  | .brk _ => true
  | .brx _ => true
  | .call _ => true
  | .ret _ => true
  | .yield _ => true
  | .join _ => true
  | .prio _ => true
  | .exit _ => true
  | .nop _ => true
  | .spinw _ => true
  | .trap _ => true
  | .tret _ => true
  | .sysr _ => true
  | .sysw f => !(f.dst == 0x017#9) && !(f.dst == 0x015#9) && !(f.dst == 0x013#9) && !(f.dst == 0x014#9) && !(f.dst == 0x018#9)
  | .syswFpmode f => f.dst == 0x017#9
  | .syswAgelim f => f.dst == 0x015#9
  | .syswVtcmp f => f.dst == 0x013#9
  | .syswDeadline f => f.dst == 0x014#9
  | .syswPushq f => f.dst == 0x018#9
  | .cyc f => !(f.m.getLsbD 0)
  | .cycVt f => f.m.getLsbD 0
  | .tarm f => !(f.m.getLsbD 0)
  | .tarmDl f => f.m.getLsbD 0
  | .pmonRd f => !(f.m.extractLsb' 0 2 == 1#2) && !(f.m.extractLsb' 0 2 == 2#2)
  | .pmonSel f => f.m.extractLsb' 0 2 == 1#2
  | .pmonClr f => f.m.extractLsb' 0 2 == 2#2
  | .bkpt _ => true
  | .cwb _ => true
  | .cinvL1 f => !(f.m.getLsbD 0)
  | .cinvL2 f => f.m.getLsbD 0
  | .tlbiVa f => !(f.m.extractLsb' 3 2 == 1#2) && !(f.m.extractLsb' 3 2 == 2#2)
  | .tlbiAsid f => f.m.extractLsb' 3 2 == 1#2
  | .tlbiAll f => f.m.extractLsb' 3 2 == 2#2
  | .wake _ => true
  | .pgate _ => true
  | .mode f => !(f.m.getLsbD 3)
  | .modeRd f => f.m.getLsbD 3
  | .ld _ => true
  | .ldRep _ => true
  | .ldu _ => true
  | .lduRep _ => true
  | .lda _ => true
  | .ldl _ => true
  | .ldt _ => true
  | .ldv _ => true
  | .pref _ => true
  | .st _ => true
  | .stu _ => true
  | .strl _ => true
  | .stl _ => true
  | .stv _ => true
  | .pour _ => true
  | .atom _ => true
  | .atomn _ => true
  | .cas _ => true
  | .fence _ => true
  | .cpy _ => true
  | .cpyt f => !(f.m.extractLsb' 3 2 == 3#2)
  | .cpytPinit f => f.m.extractLsb' 3 2 == 3#2
  | .slinit _ => true
  | .slarr _ => true
  | .slwait _ => true
  | .skim _ => true
  | .drossRd f => !(f.m.getLsbD 0)
  | .drossClr f => f.m.getLsbD 0
  | .bin _ => true
  | .bpatch _ => true
  | .erls _ => true
  | .bar _ => true
  | .phase _ => true
  | .carryRegs f => !(f.m.getLsbD 0)
  | .carryLs f => f.m.getLsbD 0
  | .vgive _ => true
  | .vclaim _ => true
  | .enq _ => true
  | .launch _ => true
  | .gcond _ => true
  | .cwait _ => true
  | .migr _ => true
  | .bind _ => true
  | .mdesc f => !(f.m.getLsbD 0)
  | .mdescGet f => f.m.getLsbD 0
  | .mzero _ => true
  | .mma _ => true
  | .mloop _ => true
  | .mpoly _ => true
  | .miter _ => true
  | .mldc _ => true
  | .mstc _ => true
  | .mmov _ => true
  | .mnrm _ => true
  | .mqldOne f => !(f.m.extractLsb' 0 2 == 1#2) && !(f.m.extractLsb' 0 2 == 2#2)
  | .mqldLs f => f.m.extractLsb' 0 2 == 1#2
  | .mqldVt f => f.m.extractLsb' 0 2 == 2#2
  | .mstat _ => true
  | .creg _ => true
  | .cunreg _ => true
  | .recast f => !(f.m.getLsbD 0)
  | .recastFit f => f.m.getLsbD 0
  | .cgen _ => true
  | .ceval _ => true
  | .cflash _ => true
  | .pairWord _ => true
  | .illegalWord _ => true
  | .spinwExpiry _ _ => true
  | .yieldExpiry _ _ => true
  | .forcedTurn _ => true
  | .hang _ => true
  | .monitorSample _ _ _ => true
  | .trapDelivery _ => true
  | .vtimeTimerFire _ => true
  | .deadlineFire _ => true
  | .groupSave _ _ _ => true
  | .groupRestore _ _ => true
  | .loadReturn _ _ => true
  | .sideLogReplay _ _ => true
  | .pageFaultService _ _ _ => true
  | .regenerationComplete _ _ _ => true
  | .victimEvict _ _ => true
  | .atomicWindowEnd _ _ => true
  | .homeStore _ _ => true
  | .sliceRead _ _ _ => true
  | .pushFill _ _ => true
  | .pushAck _ _ => true
  | .rds _ => true
  | .rdx _ => true
  | .upg _ => true
  | .pute _ => true
  | .putm _ => true
  | .evict _ => true
  | .invack _ => true
  | .rcldata _ => true
  | .rclack _ => true
  | .data _ => true
  | .gntx _ => true
  | .inv _ => true
  | .rcl _ => true
  | .putack _ => true
  | .fill _ => true
  | .proxyEvict _ _ => true
  | .copyUnitLand _ _ => true
  | .engineCommandComplete _ _ => true
  | .phaseEnd _ _ => true
  | .dispatch _ => true
  | .weirBalance _ => true
  | .launchComplete _ => true
  | .launchFaultedEnd _ => true
  | .graphLoad _ _ => true
  | .nodeRun _ _ => true
  | .nodeComplete _ _ => true
  | .queueEntryError _ _ _ _ _ => true
  | .matrixOpPerform _ => true
  | .castLoad _ _ _ => true
  | .castStore _ _ => true
  | .regionBuildComplete _ => true
  | .regionCloseComplete _ => true
  | .recastScanDone _ => true
  | .evaluatorFreezeAck _ _ => true
  | .msgEnqueue _ => true
  | .msgRepair _ => true
  | .msgMigrate _ => true
  | .msgPreempt _ => true
  | .msgBind _ => true
  | .msgMould _ => true
  | .msgPage _ => true
  | .msgMode _ => true
  | .msgKey _ => true
  | .msgKeyUnbind _ => true
  | .msgAttest _ => true
  | .msgRing _ => true
  | .msgReset _ => true
  | .coldReset => true
  | .deviceLost => true
  | .gatePrepComplete _ => true
  | .gatePowerUp _ => true
  | .cxlLinkFail _ => true
  | .logicalTimeTick _ => true
  | .avoshBindWrite _ _ _ => true
  | .avoshWarmReset => true
  | .msgUnlistedOp _ => true

/-- Do an event's arguments name an item that can exist: a die of 8, a core of 256, a warp slot of 8192, an entry of a
table (R5, R10, R11)? Every word's instruction passes. -/
def Instr.rangesOk : Instr → Bool
  | .spinwExpiry wp sp => decide (wp < 8192) && decide (sp < 8)
  | .yieldExpiry wp sp => decide (wp < 8192) && decide (sp < 8)
  | .forcedTurn wp => decide (wp < 8192)
  | .hang wp => decide (wp < 8192)
  | .monitorSample die mon _ => decide (die < 8) && decide (mon < 16)
  | .trapDelivery wp => decide (wp < 8192)
  | .vtimeTimerFire wp => decide (wp < 8192)
  | .deadlineFire wp => decide (wp < 8192)
  | .groupSave core _ _ => decide (core < 256)
  | .groupRestore core bindIx => decide (core < 256) && decide (bindIx < 16)
  | .loadReturn core _ => decide (core < 256)
  | .sideLogReplay core _ => decide (core < 256)
  | .pageFaultService _ _ _ => true
  | .regenerationComplete _ _ _ => true
  | .victimEvict _ _ => true
  | .atomicWindowEnd core _ => decide (core < 256)
  | .homeStore core _ => decide (core < 256)
  | .sliceRead core _ _ => decide (core < 256)
  | .pushFill core _ => decide (core < 256)
  | .pushAck core _ => decide (core < 256)
  | .rds _ => true
  | .rdx _ => true
  | .upg _ => true
  | .pute _ => true
  | .putm _ => true
  | .evict _ => true
  | .invack _ => true
  | .rcldata _ => true
  | .rclack _ => true
  | .data _ => true
  | .gntx _ => true
  | .inv _ => true
  | .rcl _ => true
  | .putack _ => true
  | .fill _ => true
  | .proxyEvict die _ => decide (die < 8)
  | .copyUnitLand core _ => decide (core < 256)
  | .engineCommandComplete core _ => decide (core < 256)
  | .phaseEnd core _ => decide (core < 256)
  | .dispatch core => decide (core < 256)
  | .weirBalance die => decide (die < 8)
  | .launchComplete _ => true
  | .launchFaultedEnd _ => true
  | .graphLoad die queue => decide (die < 8) && decide (queue < 256)
  | .nodeRun die node => decide (die < 8) && decide (node < 4096)
  | .nodeComplete die node => decide (die < 8) && decide (node < 4096)
  | .queueEntryError die _ _ _ _ => decide (die < 8)
  | .matrixOpPerform core => decide (core < 256)
  | .castLoad core _ _ => decide (core < 256)
  | .castStore core _ => decide (core < 256)
  | .regionBuildComplete region => decide (region < 256)
  | .regionCloseComplete region => decide (region < 256)
  | .recastScanDone region => decide (region < 256)
  | .evaluatorFreezeAck region slice => decide (region < 256) && decide (slice < 256)
  | .msgEnqueue _ => true
  | .msgRepair _ => true
  | .msgMigrate _ => true
  | .msgPreempt _ => true
  | .msgBind _ => true
  | .msgMould _ => true
  | .msgPage _ => true
  | .msgMode _ => true
  | .msgKey _ => true
  | .msgKeyUnbind _ => true
  | .msgAttest _ => true
  | .msgRing _ => true
  | .msgReset _ => true
  | .coldReset => true
  | .deviceLost => true
  | .gatePrepComplete core => decide (core < 256)
  | .gatePowerUp core => decide (core < 256)
  | .cxlLinkFail port => decide (port < 18)
  | .logicalTimeTick die => decide (die < 8)
  | .avoshBindWrite core bindIx _ => decide (core < 256) && decide (bindIx < 16)
  | .avoshWarmReset => true
  | .msgUnlistedOp _ => true
  | .pairWord _ => true
  | .illegalWord _ => true
  | .sadd _ => true
  | .ssub _ => true
  | .smul _ => true
  | .smulh _ => true
  | .sdiv _ => true
  | .srem _ => true
  | .sand _ => true
  | .sor _ => true
  | .sxor _ => true
  | .sshl _ => true
  | .sshr _ => true
  | .ssar _ => true
  | .smin _ => true
  | .smax _ => true
  | .scmp _ => true
  | .ssel _ => true
  | .smov _ => true
  | .spopc _ => true
  | .sclz _ => true
  | .sbfe _ => true
  | .sbfi _ => true
  | .sfadd _ => true
  | .sfmul _ => true
  | .sffma _ => true
  | .sfcmp _ => true
  | .scvt _ => true
  | .aadd _ => true
  | .amov _ => true
  | .ajoin _ => true
  | .asplit _ => true
  | .acmp _ => true
  | .kand _ => true
  | .kor _ => true
  | .kxor _ => true
  | .kandn _ => true
  | .knot _ => true
  | .kmov _ => true
  | .kpopc _ => true
  | .kfirst _ => true
  | .kset _ => true
  | .kget _ => true
  | .saddImm _ => true
  | .ssubImm _ => true
  | .smulImm _ => true
  | .sandImm _ => true
  | .sorImm _ => true
  | .sxorImm _ => true
  | .sshlImm _ => true
  | .sshrImm _ => true
  | .ssarImm _ => true
  | .sminImm _ => true
  | .smaxImm _ => true
  | .scmpImm _ => true
  | .sli _ => true
  | .slih _ => true
  | .aaddi _ => true
  | .vadd _ => true
  | .vsub _ => true
  | .vmul _ => true
  | .vmulh _ => true
  | .vmad _ => true
  | .vand _ => true
  | .vor _ => true
  | .vxor _ => true
  | .vnot _ => true
  | .vshl _ => true
  | .vshr _ => true
  | .vsar _ => true
  | .vmin _ => true
  | .vmax _ => true
  | .vabs _ => true
  | .vneg _ => true
  | .vcmp _ => true
  | .vsel _ => true
  | .vmov _ => true
  | .vbfe _ => true
  | .vbfi _ => true
  | .vpopc _ => true
  | .vclz _ => true
  | .vlane _ => true
  | .vaddImm _ => true
  | .vsubImm _ => true
  | .vmulImm _ => true
  | .vandImm _ => true
  | .vorImm _ => true
  | .vxorImm _ => true
  | .vshlImm _ => true
  | .vshrImm _ => true
  | .vsarImm _ => true
  | .vminImm _ => true
  | .vmaxImm _ => true
  | .vcmpImm _ => true
  | .vmovImm _ => true
  | .fadd _ => true
  | .fsub _ => true
  | .fmul _ => true
  | .ffma _ => true
  | .fmin _ => true
  | .fmax _ => true
  | .fabs _ => true
  | .fneg _ => true
  | .fcmp _ => true
  | .frcp _ => true
  | .frsq _ => true
  | .fsqrt _ => true
  | .fdiv _ => true
  | .fexp2 _ => true
  | .flog2 _ => true
  | .fsin _ => true
  | .fcos _ => true
  | .frnd _ => true
  | .hadd2 _ => true
  | .hmul2 _ => true
  | .hfma2 _ => true
  | .vdot4 _ => true
  | .vdot8 _ => true
  | .faddImm _ => true
  | .fsubImm _ => true
  | .fmulImm _ => true
  | .fminImm _ => true
  | .fmaxImm _ => true
  | .fcmpImm _ => true
  | .cvt _ => true
  | .cvts _ => true
  | .cvtp _ => true
  | .vshfl _ => true
  | .vbcast _ => true
  | .vred _ => true
  | .vscan _ => true
  | .vvote _ => true
  | .br _ => true
  | .brk _ => true
  | .brx _ => true
  | .call _ => true
  | .ret _ => true
  | .yield _ => true
  | .join _ => true
  | .prio _ => true
  | .exit _ => true
  | .nop _ => true
  | .spinw _ => true
  | .trap _ => true
  | .tret _ => true
  | .sysr _ => true
  | .sysw _ => true
  | .syswFpmode _ => true
  | .syswAgelim _ => true
  | .syswVtcmp _ => true
  | .syswDeadline _ => true
  | .syswPushq _ => true
  | .cyc _ => true
  | .cycVt _ => true
  | .tarm _ => true
  | .tarmDl _ => true
  | .pmonRd _ => true
  | .pmonSel _ => true
  | .pmonClr _ => true
  | .bkpt _ => true
  | .cwb _ => true
  | .cinvL1 _ => true
  | .cinvL2 _ => true
  | .tlbiVa _ => true
  | .tlbiAsid _ => true
  | .tlbiAll _ => true
  | .wake _ => true
  | .pgate _ => true
  | .mode _ => true
  | .modeRd _ => true
  | .ld _ => true
  | .ldRep _ => true
  | .ldu _ => true
  | .lduRep _ => true
  | .lda _ => true
  | .ldl _ => true
  | .ldt _ => true
  | .ldv _ => true
  | .pref _ => true
  | .st _ => true
  | .stu _ => true
  | .strl _ => true
  | .stl _ => true
  | .stv _ => true
  | .pour _ => true
  | .atom _ => true
  | .atomn _ => true
  | .cas _ => true
  | .fence _ => true
  | .cpy _ => true
  | .cpyt _ => true
  | .cpytPinit _ => true
  | .slinit _ => true
  | .slarr _ => true
  | .slwait _ => true
  | .skim _ => true
  | .drossRd _ => true
  | .drossClr _ => true
  | .bin _ => true
  | .bpatch _ => true
  | .erls _ => true
  | .bar _ => true
  | .phase _ => true
  | .carryRegs _ => true
  | .carryLs _ => true
  | .vgive _ => true
  | .vclaim _ => true
  | .enq _ => true
  | .launch _ => true
  | .gcond _ => true
  | .cwait _ => true
  | .migr _ => true
  | .bind _ => true
  | .mdesc _ => true
  | .mdescGet _ => true
  | .mzero _ => true
  | .mma _ => true
  | .mloop _ => true
  | .mpoly _ => true
  | .miter _ => true
  | .mldc _ => true
  | .mstc _ => true
  | .mmov _ => true
  | .mnrm _ => true
  | .mqldOne _ => true
  | .mqldLs _ => true
  | .mqldVt _ => true
  | .mstat _ => true
  | .creg _ => true
  | .cunreg _ => true
  | .recast _ => true
  | .recastFit _ => true
  | .cgen _ => true
  | .ceval _ => true
  | .cflash _ => true

/-- A word's instruction that raises no trap of R82 steps 1 to 4 on its word alone, or an event that names an item
that can exist. -/
def Instr.wellFormed (i : Instr) : Bool := i.staticCheck == none && i.variantOk && i.rangesOk

end Sys2Proof
end

