-- ==== Sys2Proof/Decode.lean ====
section
/-! DEFINITION. Decoding, total on any bytes, from the encoding tables of R53 to R55, R67 and R73 to R80; then the
encoder, from the same tables. An unassigned word decodes to `illegalWord` (R81). -/

namespace Sys2Proof

/-- The fields of a full word of the register layout (R54). -/
def rword (x : Word) : RWord where
  dst := x.extractLsb' 43 9
  w := x.getLsbD 42
  h := x.getLsbD 41
  a := x.extractLsb' 32 9
  b := x.extractLsb' 23 9
  c := x.extractLsb' 14 9
  k := x.extractLsb' 10 4
  m := x.extractLsb' 0 10

/-- The fields of a full word of the immediate layout (R55). -/
def iword (x : Word) : IWord where
  dst := x.extractLsb' 43 9
  w := x.getLsbD 42
  h := x.getLsbD 41
  a := x.extractLsb' 32 9
  imm := x.extractLsb' 0 32

/-- The fields of a pair word (R67). -/
def pword (x : Word) : PWord where
  sa :=
    { cls := x.extractLsb' 60 3, op := x.extractLsb' 54 6, dst := x.extractLsb' 46 8, src := x.extractLsb' 38 8,
      k := x.extractLsb' 35 3, flags := x.extractLsb' 32 3 }
  serial := x.getLsbD 31
  sb :=
    { cls := x.extractLsb' 28 3, op := x.extractLsb' 22 6, dst := x.extractLsb' 14 8, src := x.extractLsb' 6 8,
      k := x.extractLsb' 3 3, flags := x.extractLsb' 0 3 }

/-- The op map of class 0 (R73). -/
def decodeClass0 (op : Nat) (x : Word) : Instr :=
  match op with
  | 0x00 => .sadd (rword x)
  | 0x01 => .ssub (rword x)
  | 0x02 => .smul (rword x)
  | 0x03 => .smulh (rword x)
  | 0x04 => .sdiv (rword x)
  | 0x05 => .srem (rword x)
  | 0x06 => .sand (rword x)
  | 0x07 => .sor (rword x)
  | 0x08 => .sxor (rword x)
  | 0x09 => .sshl (rword x)
  | 0x0A => .sshr (rword x)
  | 0x0B => .ssar (rword x)
  | 0x0C => .smin (rword x)
  | 0x0D => .smax (rword x)
  | 0x0E => .scmp (rword x)
  | 0x0F => .ssel (rword x)
  | 0x10 => .smov (rword x)
  | 0x11 => .spopc (rword x)
  | 0x12 => .sclz (rword x)
  | 0x13 => .sbfe (rword x)
  | 0x14 => .sbfi (rword x)
  | 0x18 => .sfadd (rword x)
  | 0x19 => .sfmul (rword x)
  | 0x1A => .sffma (rword x)
  | 0x1B => .sfcmp (rword x)
  | 0x1C => .scvt (rword x)
  | 0x20 => .aadd (rword x)
  | 0x21 => .amov (rword x)
  | 0x22 => .ajoin (rword x)
  | 0x23 => .asplit (rword x)
  | 0x24 => .acmp (rword x)
  | 0x30 => .kand (rword x)
  | 0x31 => .kor (rword x)
  | 0x32 => .kxor (rword x)
  | 0x33 => .kandn (rword x)
  | 0x34 => .knot (rword x)
  | 0x35 => .kmov (rword x)
  | 0x36 => .kpopc (rword x)
  | 0x37 => .kfirst (rword x)
  | 0x38 => .kset (rword x)
  | 0x39 => .kget (rword x)
  | 0x40 => .saddImm (iword x)
  | 0x41 => .ssubImm (iword x)
  | 0x42 => .smulImm (iword x)
  | 0x46 => .sandImm (iword x)
  | 0x47 => .sorImm (iword x)
  | 0x48 => .sxorImm (iword x)
  | 0x49 => .sshlImm (iword x)
  | 0x4A => .sshrImm (iword x)
  | 0x4B => .ssarImm (iword x)
  | 0x4C => .sminImm (iword x)
  | 0x4D => .smaxImm (iword x)
  | 0x4E => .scmpImm (iword x)
  | 0x50 => .sli (iword x)
  | 0x51 => .slih (iword x)
  | 0x60 => .aaddi (iword x)
  | _ => .illegalWord x

/-- The op map of class 1 (R74). -/
def decodeClass1 (op : Nat) (x : Word) : Instr :=
  match op with
  | 0x00 => .vadd (rword x)
  | 0x01 => .vsub (rword x)
  | 0x02 => .vmul (rword x)
  | 0x03 => .vmulh (rword x)
  | 0x04 => .vmad (rword x)
  | 0x05 => .vand (rword x)
  | 0x06 => .vor (rword x)
  | 0x07 => .vxor (rword x)
  | 0x08 => .vnot (rword x)
  | 0x09 => .vshl (rword x)
  | 0x0A => .vshr (rword x)
  | 0x0B => .vsar (rword x)
  | 0x0C => .vmin (rword x)
  | 0x0D => .vmax (rword x)
  | 0x0E => .vabs (rword x)
  | 0x0F => .vneg (rword x)
  | 0x10 => .vcmp (rword x)
  | 0x11 => .vsel (rword x)
  | 0x12 => .vmov (rword x)
  | 0x13 => .vbfe (rword x)
  | 0x14 => .vbfi (rword x)
  | 0x15 => .vpopc (rword x)
  | 0x16 => .vclz (rword x)
  | 0x17 => .vlane (rword x)
  | 0x40 => .vaddImm (iword x)
  | 0x41 => .vsubImm (iword x)
  | 0x42 => .vmulImm (iword x)
  | 0x45 => .vandImm (iword x)
  | 0x46 => .vorImm (iword x)
  | 0x47 => .vxorImm (iword x)
  | 0x49 => .vshlImm (iword x)
  | 0x4A => .vshrImm (iword x)
  | 0x4B => .vsarImm (iword x)
  | 0x4C => .vminImm (iword x)
  | 0x4D => .vmaxImm (iword x)
  | 0x50 => .vcmpImm (iword x)
  | 0x52 => .vmovImm (iword x)
  | _ => .illegalWord x

/-- The op map of class 2 (R75). -/
def decodeClass2 (op : Nat) (x : Word) : Instr :=
  match op with
  | 0x00 => .fadd (rword x)
  | 0x01 => .fsub (rword x)
  | 0x02 => .fmul (rword x)
  | 0x03 => .ffma (rword x)
  | 0x04 => .fmin (rword x)
  | 0x05 => .fmax (rword x)
  | 0x06 => .fabs (rword x)
  | 0x07 => .fneg (rword x)
  | 0x08 => .fcmp (rword x)
  | 0x09 => .frcp (rword x)
  | 0x0A => .frsq (rword x)
  | 0x0B => .fsqrt (rword x)
  | 0x0C => .fdiv (rword x)
  | 0x0D => .fexp2 (rword x)
  | 0x0E => .flog2 (rword x)
  | 0x0F => .fsin (rword x)
  | 0x10 => .fcos (rword x)
  | 0x11 => .frnd (rword x)
  | 0x18 => .hadd2 (rword x)
  | 0x19 => .hmul2 (rword x)
  | 0x1A => .hfma2 (rword x)
  | 0x1B => .vdot4 (rword x)
  | 0x1C => .vdot8 (rword x)
  | 0x40 => .faddImm (iword x)
  | 0x41 => .fsubImm (iword x)
  | 0x42 => .fmulImm (iword x)
  | 0x44 => .fminImm (iword x)
  | 0x45 => .fmaxImm (iword x)
  | 0x48 => .fcmpImm (iword x)
  | _ => .illegalWord x

/-- The op map of class 3 (R76). -/
def decodeClass3 (op : Nat) (x : Word) : Instr :=
  match op with
  | 0x00 => .cvt (rword x)
  | 0x01 => .cvts (rword x)
  | 0x02 => .cvtp (rword x)
  | 0x08 => .vshfl (rword x)
  | 0x09 => .vbcast (rword x)
  | 0x0A => .vred (rword x)
  | 0x0B => .vscan (rword x)
  | 0x0C => .vvote (rword x)
  | _ => .illegalWord x

/-- The op map of class 4 (R77). -/
def decodeClass4 (op : Nat) (x : Word) : Instr :=
  match op with
  | 0x00 => .br (iword x)
  | 0x01 => .brk (iword x)
  | 0x02 => .brx (rword x)
  | 0x03 => .call (iword x)
  | 0x04 => .ret (rword x)
  | 0x05 => .yield (rword x)
  | 0x06 => .join (rword x)
  | 0x07 => .prio (rword x)
  | 0x08 => .exit (rword x)
  | 0x09 => .nop (rword x)
  | 0x0A => .spinw (rword x)
  | _ => .illegalWord x

/-- The op map of class 5 (R77). -/
def decodeClass5 (op : Nat) (x : Word) : Instr :=
  match op with
  | 0x00 => .trap (rword x)
  | 0x01 => .tret (rword x)
  | 0x02 => .sysr (rword x)
  | 0x03 => let f := rword x; if f.dst == 0x017#9 then .syswFpmode f else if f.dst == 0x015#9 then .syswAgelim f else if f.dst == 0x013#9 then .syswVtcmp f else if f.dst == 0x014#9 then .syswDeadline f else if f.dst == 0x018#9 then .syswPushq f else .sysw f
  | 0x04 => let f := rword x; if f.m.getLsbD 0 then .cycVt f else .cyc f
  | 0x05 => let f := rword x; if f.m.getLsbD 0 then .tarmDl f else .tarm f
  | 0x06 => let f := rword x; if f.m.extractLsb' 0 2 == 1#2 then .pmonSel f else if f.m.extractLsb' 0 2 == 2#2 then .pmonClr f else .pmonRd f
  | 0x07 => .bkpt (rword x)
  | 0x08 => .cwb (rword x)
  | 0x09 => let f := rword x; if f.m.getLsbD 0 then .cinvL2 f else .cinvL1 f
  | 0x0A => let f := rword x; if f.m.extractLsb' 3 2 == 1#2 then .tlbiAsid f else if f.m.extractLsb' 3 2 == 2#2 then .tlbiAll f else .tlbiVa f
  | 0x0B => .wake (rword x)
  | 0x0C => .pgate (rword x)
  | 0x0D => let f := rword x; if f.m.getLsbD 3 then .modeRd f else .mode f
  | _ => .illegalWord x

/-- The op map of class 6 (R78). -/
def decodeClass6 (op : Nat) (x : Word) : Instr :=
  match op with
  | 0x00 => .ld (rword x)
  | 0x01 => .ldRep (rword x)
  | 0x02 => .ldu (rword x)
  | 0x03 => .lduRep (rword x)
  | 0x04 => .lda (rword x)
  | 0x05 => .ldl (rword x)
  | 0x06 => .ldt (rword x)
  | 0x07 => .ldv (rword x)
  | 0x08 => .pref (rword x)
  | _ => .illegalWord x

/-- The op map of class 7 (R78). -/
def decodeClass7 (op : Nat) (x : Word) : Instr :=
  match op with
  | 0x00 => .st (rword x)
  | 0x01 => .stu (rword x)
  | 0x02 => .strl (rword x)
  | 0x03 => .stl (rword x)
  | 0x04 => .stv (rword x)
  | 0x05 => .pour (rword x)
  | 0x06 => .atom (rword x)
  | 0x07 => .atomn (rword x)
  | 0x08 => .cas (rword x)
  | 0x09 => .fence (rword x)
  | _ => .illegalWord x

/-- The op map of class 8 (R79). -/
def decodeClass8 (op : Nat) (x : Word) : Instr :=
  match op with
  | 0x00 => .cpy (rword x)
  | 0x01 => let f := rword x; if f.m.extractLsb' 3 2 == 3#2 then .cpytPinit f else .cpyt f
  | 0x08 => .slinit (rword x)
  | 0x09 => .slarr (rword x)
  | 0x0A => .slwait (rword x)
  | 0x10 => .skim (rword x)
  | 0x11 => let f := rword x; if f.m.getLsbD 0 then .drossClr f else .drossRd f
  | 0x18 => .bin (rword x)
  | 0x19 => .bpatch (rword x)
  | 0x1A => .erls (rword x)
  | _ => .illegalWord x

/-- The op map of class 9 (R79). -/
def decodeClass9 (op : Nat) (x : Word) : Instr :=
  match op with
  | 0x00 => .bar (rword x)
  | 0x01 => .phase (rword x)
  | 0x02 => let f := rword x; if f.m.getLsbD 0 then .carryLs f else .carryRegs f
  | 0x03 => .vgive (rword x)
  | 0x04 => .vclaim (rword x)
  | 0x08 => .enq (rword x)
  | 0x09 => .launch (rword x)
  | 0x0A => .gcond (rword x)
  | 0x0B => .cwait (rword x)
  | 0x0C => .migr (rword x)
  | 0x0D => .bind (rword x)
  | _ => .illegalWord x

/-- The op map of class 10 (R80). -/
def decodeClass10 (op : Nat) (x : Word) : Instr :=
  match op with
  | 0x00 => let f := rword x; if f.m.getLsbD 0 then .mdescGet f else .mdesc f
  | 0x01 => .mzero (rword x)
  | 0x02 => .mma (rword x)
  | 0x03 => .mloop (rword x)
  | 0x04 => .mpoly (rword x)
  | 0x05 => .miter (rword x)
  | 0x06 => .mldc (rword x)
  | 0x07 => .mstc (rword x)
  | 0x08 => .mmov (rword x)
  | 0x09 => .mnrm (rword x)
  | 0x0A => let f := rword x; if f.m.extractLsb' 0 2 == 1#2 then .mqldLs f else if f.m.extractLsb' 0 2 == 2#2 then .mqldVt f else .mqldOne f
  | 0x0B => .mstat (rword x)
  | _ => .illegalWord x

/-- The op map of class 11 (R80). -/
def decodeClass11 (op : Nat) (x : Word) : Instr :=
  match op with
  | 0x00 => .creg (rword x)
  | 0x01 => .cunreg (rword x)
  | 0x02 => let f := rword x; if f.m.getLsbD 0 then .recastFit f else .recast f
  | 0x03 => .cgen (rword x)
  | 0x04 => .ceval (rword x)
  | 0x05 => .cflash (rword x)
  | _ => .illegalWord x

/-- The instruction a word stands for: the all-zero and all-ones words and every unassigned class and op are illegal
(R72, R81); bit 63 selects the pair word (R53). -/
def decodeWord (x : Word) : Instr :=
  if x = 0 || x = BitVec.allOnes 64 then .illegalWord x
  else if x.getLsbD 63 then .pairWord (pword x)
  else
    let op := (x.extractLsb' 52 7).toNat
    match (x.extractLsb' 59 4).toNat with
    | 0 => decodeClass0 op x
    | 1 => decodeClass1 op x
    | 2 => decodeClass2 op x
    | 3 => decodeClass3 op x
    | 4 => decodeClass4 op x
    | 5 => decodeClass5 op x
    | 6 => decodeClass6 op x
    | 7 => decodeClass7 op x
    | 8 => decodeClass8 op x
    | 9 => decodeClass9 op x
    | 10 => decodeClass10 op x
    | 11 => decodeClass11 op x
    | _ => .illegalWord x

/-- Eight bytes, the lowest address first, as a word (R53). -/
def wordOfBytes (l : List Byte) : Word :=
  l.foldr (fun b acc => (acc <<< 8) ||| b.setWidth 64) 0

/-- The eight bytes of a word, the lowest address first (R53). -/
def bytesOfWord (x : Word) : List Byte :=
  (List.range 8).map (fun i => x.extractLsb' (8 * i) 8)

/-- The instruction at the head of a list of bytes, with the bytes after it; none when fewer than eight bytes stand
there. -/
def decode (l : List Byte) : Option (Instr × List Byte) :=
  if l.length < 8 then none else some (decodeWord (wordOfBytes (l.take 8)), l.drop 8)

/-- The instruction the decoder reads from an instruction whose bits are w, bit 0 the lowest bit of the first byte; the
bits above nbits are 0. -/
def decodeTableWord (nbits w : Nat) : Option Instr :=
  (decode (bytesOfWord (BitVec.ofNat 64 (w % 2 ^ nbits)))).map Prod.fst

/-! ### The encoder -/

/-- The word of a class, an op and the fields of the register layout (R54). -/
def encR (cls op : Nat) (f : RWord) : Word :=
  0#1 ++ BitVec.ofNat 4 cls ++ BitVec.ofNat 7 op ++ f.dst ++ BitVec.ofBool f.w ++ BitVec.ofBool f.h ++ f.a ++ f.b ++ f.c ++ f.k ++ f.m

/-- The word of a class, an op and the fields of the immediate layout (R55). -/
def encI (cls op : Nat) (f : IWord) : Word :=
  0#1 ++ BitVec.ofNat 4 cls ++ BitVec.ofNat 7 op ++ f.dst ++ BitVec.ofBool f.w ++ BitVec.ofBool f.h ++ f.a ++ f.imm

/-- The 31 bits of a pair word's slot (R67). -/
def encSlot (s : Slot) : BitVec 31 := s.cls ++ s.op ++ s.dst ++ s.src ++ s.k ++ s.flags

/-- The word of a pair (R67). -/
def encP (p : PWord) : Word := 1#1 ++ encSlot p.sa ++ BitVec.ofBool p.serial ++ encSlot p.sb

/-- The word of an instruction; none for an event, which no word encodes. -/
def encode : Instr → Option Word
  | .sadd f => some (encR 0 0x00 f)
  | .ssub f => some (encR 0 0x01 f)
  | .smul f => some (encR 0 0x02 f)
  | .smulh f => some (encR 0 0x03 f)
  | .sdiv f => some (encR 0 0x04 f)
  | .srem f => some (encR 0 0x05 f)
  | .sand f => some (encR 0 0x06 f)
  | .sor f => some (encR 0 0x07 f)
  | .sxor f => some (encR 0 0x08 f)
  | .sshl f => some (encR 0 0x09 f)
  | .sshr f => some (encR 0 0x0A f)
  | .ssar f => some (encR 0 0x0B f)
  | .smin f => some (encR 0 0x0C f)
  | .smax f => some (encR 0 0x0D f)
  | .scmp f => some (encR 0 0x0E f)
  | .ssel f => some (encR 0 0x0F f)
  | .smov f => some (encR 0 0x10 f)
  | .spopc f => some (encR 0 0x11 f)
  | .sclz f => some (encR 0 0x12 f)
  | .sbfe f => some (encR 0 0x13 f)
  | .sbfi f => some (encR 0 0x14 f)
  | .sfadd f => some (encR 0 0x18 f)
  | .sfmul f => some (encR 0 0x19 f)
  | .sffma f => some (encR 0 0x1A f)
  | .sfcmp f => some (encR 0 0x1B f)
  | .scvt f => some (encR 0 0x1C f)
  | .aadd f => some (encR 0 0x20 f)
  | .amov f => some (encR 0 0x21 f)
  | .ajoin f => some (encR 0 0x22 f)
  | .asplit f => some (encR 0 0x23 f)
  | .acmp f => some (encR 0 0x24 f)
  | .kand f => some (encR 0 0x30 f)
  | .kor f => some (encR 0 0x31 f)
  | .kxor f => some (encR 0 0x32 f)
  | .kandn f => some (encR 0 0x33 f)
  | .knot f => some (encR 0 0x34 f)
  | .kmov f => some (encR 0 0x35 f)
  | .kpopc f => some (encR 0 0x36 f)
  | .kfirst f => some (encR 0 0x37 f)
  | .kset f => some (encR 0 0x38 f)
  | .kget f => some (encR 0 0x39 f)
  | .saddImm f => some (encI 0 0x40 f)
  | .ssubImm f => some (encI 0 0x41 f)
  | .smulImm f => some (encI 0 0x42 f)
  | .sandImm f => some (encI 0 0x46 f)
  | .sorImm f => some (encI 0 0x47 f)
  | .sxorImm f => some (encI 0 0x48 f)
  | .sshlImm f => some (encI 0 0x49 f)
  | .sshrImm f => some (encI 0 0x4A f)
  | .ssarImm f => some (encI 0 0x4B f)
  | .sminImm f => some (encI 0 0x4C f)
  | .smaxImm f => some (encI 0 0x4D f)
  | .scmpImm f => some (encI 0 0x4E f)
  | .sli f => some (encI 0 0x50 f)
  | .slih f => some (encI 0 0x51 f)
  | .aaddi f => some (encI 0 0x60 f)
  | .vadd f => some (encR 1 0x00 f)
  | .vsub f => some (encR 1 0x01 f)
  | .vmul f => some (encR 1 0x02 f)
  | .vmulh f => some (encR 1 0x03 f)
  | .vmad f => some (encR 1 0x04 f)
  | .vand f => some (encR 1 0x05 f)
  | .vor f => some (encR 1 0x06 f)
  | .vxor f => some (encR 1 0x07 f)
  | .vnot f => some (encR 1 0x08 f)
  | .vshl f => some (encR 1 0x09 f)
  | .vshr f => some (encR 1 0x0A f)
  | .vsar f => some (encR 1 0x0B f)
  | .vmin f => some (encR 1 0x0C f)
  | .vmax f => some (encR 1 0x0D f)
  | .vabs f => some (encR 1 0x0E f)
  | .vneg f => some (encR 1 0x0F f)
  | .vcmp f => some (encR 1 0x10 f)
  | .vsel f => some (encR 1 0x11 f)
  | .vmov f => some (encR 1 0x12 f)
  | .vbfe f => some (encR 1 0x13 f)
  | .vbfi f => some (encR 1 0x14 f)
  | .vpopc f => some (encR 1 0x15 f)
  | .vclz f => some (encR 1 0x16 f)
  | .vlane f => some (encR 1 0x17 f)
  | .vaddImm f => some (encI 1 0x40 f)
  | .vsubImm f => some (encI 1 0x41 f)
  | .vmulImm f => some (encI 1 0x42 f)
  | .vandImm f => some (encI 1 0x45 f)
  | .vorImm f => some (encI 1 0x46 f)
  | .vxorImm f => some (encI 1 0x47 f)
  | .vshlImm f => some (encI 1 0x49 f)
  | .vshrImm f => some (encI 1 0x4A f)
  | .vsarImm f => some (encI 1 0x4B f)
  | .vminImm f => some (encI 1 0x4C f)
  | .vmaxImm f => some (encI 1 0x4D f)
  | .vcmpImm f => some (encI 1 0x50 f)
  | .vmovImm f => some (encI 1 0x52 f)
  | .fadd f => some (encR 2 0x00 f)
  | .fsub f => some (encR 2 0x01 f)
  | .fmul f => some (encR 2 0x02 f)
  | .ffma f => some (encR 2 0x03 f)
  | .fmin f => some (encR 2 0x04 f)
  | .fmax f => some (encR 2 0x05 f)
  | .fabs f => some (encR 2 0x06 f)
  | .fneg f => some (encR 2 0x07 f)
  | .fcmp f => some (encR 2 0x08 f)
  | .frcp f => some (encR 2 0x09 f)
  | .frsq f => some (encR 2 0x0A f)
  | .fsqrt f => some (encR 2 0x0B f)
  | .fdiv f => some (encR 2 0x0C f)
  | .fexp2 f => some (encR 2 0x0D f)
  | .flog2 f => some (encR 2 0x0E f)
  | .fsin f => some (encR 2 0x0F f)
  | .fcos f => some (encR 2 0x10 f)
  | .frnd f => some (encR 2 0x11 f)
  | .hadd2 f => some (encR 2 0x18 f)
  | .hmul2 f => some (encR 2 0x19 f)
  | .hfma2 f => some (encR 2 0x1A f)
  | .vdot4 f => some (encR 2 0x1B f)
  | .vdot8 f => some (encR 2 0x1C f)
  | .faddImm f => some (encI 2 0x40 f)
  | .fsubImm f => some (encI 2 0x41 f)
  | .fmulImm f => some (encI 2 0x42 f)
  | .fminImm f => some (encI 2 0x44 f)
  | .fmaxImm f => some (encI 2 0x45 f)
  | .fcmpImm f => some (encI 2 0x48 f)
  | .cvt f => some (encR 3 0x00 f)
  | .cvts f => some (encR 3 0x01 f)
  | .cvtp f => some (encR 3 0x02 f)
  | .vshfl f => some (encR 3 0x08 f)
  | .vbcast f => some (encR 3 0x09 f)
  | .vred f => some (encR 3 0x0A f)
  | .vscan f => some (encR 3 0x0B f)
  | .vvote f => some (encR 3 0x0C f)
  | .br f => some (encI 4 0x00 f)
  | .brk f => some (encI 4 0x01 f)
  | .brx f => some (encR 4 0x02 f)
  | .call f => some (encI 4 0x03 f)
  | .ret f => some (encR 4 0x04 f)
  | .yield f => some (encR 4 0x05 f)
  | .join f => some (encR 4 0x06 f)
  | .prio f => some (encR 4 0x07 f)
  | .exit f => some (encR 4 0x08 f)
  | .nop f => some (encR 4 0x09 f)
  | .spinw f => some (encR 4 0x0A f)
  | .trap f => some (encR 5 0x00 f)
  | .tret f => some (encR 5 0x01 f)
  | .sysr f => some (encR 5 0x02 f)
  | .sysw f => some (encR 5 0x03 f)
  | .syswFpmode f => some (encR 5 0x03 f)
  | .syswAgelim f => some (encR 5 0x03 f)
  | .syswVtcmp f => some (encR 5 0x03 f)
  | .syswDeadline f => some (encR 5 0x03 f)
  | .syswPushq f => some (encR 5 0x03 f)
  | .cyc f => some (encR 5 0x04 f)
  | .cycVt f => some (encR 5 0x04 f)
  | .tarm f => some (encR 5 0x05 f)
  | .tarmDl f => some (encR 5 0x05 f)
  | .pmonRd f => some (encR 5 0x06 f)
  | .pmonSel f => some (encR 5 0x06 f)
  | .pmonClr f => some (encR 5 0x06 f)
  | .bkpt f => some (encR 5 0x07 f)
  | .cwb f => some (encR 5 0x08 f)
  | .cinvL1 f => some (encR 5 0x09 f)
  | .cinvL2 f => some (encR 5 0x09 f)
  | .tlbiVa f => some (encR 5 0x0A f)
  | .tlbiAsid f => some (encR 5 0x0A f)
  | .tlbiAll f => some (encR 5 0x0A f)
  | .wake f => some (encR 5 0x0B f)
  | .pgate f => some (encR 5 0x0C f)
  | .mode f => some (encR 5 0x0D f)
  | .modeRd f => some (encR 5 0x0D f)
  | .ld f => some (encR 6 0x00 f)
  | .ldRep f => some (encR 6 0x01 f)
  | .ldu f => some (encR 6 0x02 f)
  | .lduRep f => some (encR 6 0x03 f)
  | .lda f => some (encR 6 0x04 f)
  | .ldl f => some (encR 6 0x05 f)
  | .ldt f => some (encR 6 0x06 f)
  | .ldv f => some (encR 6 0x07 f)
  | .pref f => some (encR 6 0x08 f)
  | .st f => some (encR 7 0x00 f)
  | .stu f => some (encR 7 0x01 f)
  | .strl f => some (encR 7 0x02 f)
  | .stl f => some (encR 7 0x03 f)
  | .stv f => some (encR 7 0x04 f)
  | .pour f => some (encR 7 0x05 f)
  | .atom f => some (encR 7 0x06 f)
  | .atomn f => some (encR 7 0x07 f)
  | .cas f => some (encR 7 0x08 f)
  | .fence f => some (encR 7 0x09 f)
  | .cpy f => some (encR 8 0x00 f)
  | .cpyt f => some (encR 8 0x01 f)
  | .cpytPinit f => some (encR 8 0x01 f)
  | .slinit f => some (encR 8 0x08 f)
  | .slarr f => some (encR 8 0x09 f)
  | .slwait f => some (encR 8 0x0A f)
  | .skim f => some (encR 8 0x10 f)
  | .drossRd f => some (encR 8 0x11 f)
  | .drossClr f => some (encR 8 0x11 f)
  | .bin f => some (encR 8 0x18 f)
  | .bpatch f => some (encR 8 0x19 f)
  | .erls f => some (encR 8 0x1A f)
  | .bar f => some (encR 9 0x00 f)
  | .phase f => some (encR 9 0x01 f)
  | .carryRegs f => some (encR 9 0x02 f)
  | .carryLs f => some (encR 9 0x02 f)
  | .vgive f => some (encR 9 0x03 f)
  | .vclaim f => some (encR 9 0x04 f)
  | .enq f => some (encR 9 0x08 f)
  | .launch f => some (encR 9 0x09 f)
  | .gcond f => some (encR 9 0x0A f)
  | .cwait f => some (encR 9 0x0B f)
  | .migr f => some (encR 9 0x0C f)
  | .bind f => some (encR 9 0x0D f)
  | .mdesc f => some (encR 10 0x00 f)
  | .mdescGet f => some (encR 10 0x00 f)
  | .mzero f => some (encR 10 0x01 f)
  | .mma f => some (encR 10 0x02 f)
  | .mloop f => some (encR 10 0x03 f)
  | .mpoly f => some (encR 10 0x04 f)
  | .miter f => some (encR 10 0x05 f)
  | .mldc f => some (encR 10 0x06 f)
  | .mstc f => some (encR 10 0x07 f)
  | .mmov f => some (encR 10 0x08 f)
  | .mnrm f => some (encR 10 0x09 f)
  | .mqldOne f => some (encR 10 0x0A f)
  | .mqldLs f => some (encR 10 0x0A f)
  | .mqldVt f => some (encR 10 0x0A f)
  | .mstat f => some (encR 10 0x0B f)
  | .creg f => some (encR 11 0x00 f)
  | .cunreg f => some (encR 11 0x01 f)
  | .recast f => some (encR 11 0x02 f)
  | .recastFit f => some (encR 11 0x02 f)
  | .cgen f => some (encR 11 0x03 f)
  | .ceval f => some (encR 11 0x04 f)
  | .cflash f => some (encR 11 0x05 f)
  | .pairWord f => some (encP f)
  | .illegalWord raw => some raw
  | .spinwExpiry _ _ => none
  | .yieldExpiry _ _ => none
  | .forcedTurn _ => none
  | .hang _ => none
  | .monitorSample _ _ _ => none
  | .trapDelivery _ => none
  | .vtimeTimerFire _ => none
  | .deadlineFire _ => none
  | .groupSave _ _ _ => none
  | .groupRestore _ _ => none
  | .loadReturn _ _ => none
  | .sideLogReplay _ _ => none
  | .pageFaultService _ _ _ => none
  | .regenerationComplete _ _ _ => none
  | .victimEvict _ _ => none
  | .atomicWindowEnd _ _ => none
  | .homeStore _ _ => none
  | .sliceRead _ _ _ => none
  | .pushFill _ _ => none
  | .pushAck _ _ => none
  | .rds _ => none
  | .rdx _ => none
  | .upg _ => none
  | .pute _ => none
  | .putm _ => none
  | .evict _ => none
  | .invack _ => none
  | .rcldata _ => none
  | .rclack _ => none
  | .data _ => none
  | .gntx _ => none
  | .inv _ => none
  | .rcl _ => none
  | .putack _ => none
  | .fill _ => none
  | .proxyEvict _ _ => none
  | .copyUnitLand _ _ => none
  | .engineCommandComplete _ _ => none
  | .phaseEnd _ _ => none
  | .dispatch _ => none
  | .weirBalance _ => none
  | .launchComplete _ => none
  | .launchFaultedEnd _ => none
  | .graphLoad _ _ => none
  | .nodeRun _ _ => none
  | .nodeComplete _ _ => none
  | .queueEntryError _ _ _ _ _ => none
  | .matrixOpPerform _ => none
  | .castLoad _ _ _ => none
  | .castStore _ _ => none
  | .regionBuildComplete _ => none
  | .regionCloseComplete _ => none
  | .recastScanDone _ => none
  | .evaluatorFreezeAck _ _ => none
  | .msgEnqueue _ => none
  | .msgRepair _ => none
  | .msgMigrate _ => none
  | .msgPreempt _ => none
  | .msgBind _ => none
  | .msgMould _ => none
  | .msgPage _ => none
  | .msgMode _ => none
  | .msgKey _ => none
  | .msgKeyUnbind _ => none
  | .msgAttest _ => none
  | .msgRing _ => none
  | .msgReset _ => none
  | .coldReset => none
  | .deviceLost => none
  | .gatePrepComplete _ => none
  | .gatePowerUp _ => none
  | .cxlLinkFail _ => none
  | .logicalTimeTick _ => none
  | .avoshBindWrite _ _ _ => none
  | .avoshWarmReset => none
  | .msgUnlistedOp _ => none

/-- An instruction that a word encodes. -/
def Instr.isWord (i : Instr) : Bool := (encode i).isSome

end Sys2Proof
end

