-- ==== Sys2Proof/Machine/Fetch.lean ====
section
/-! DEFINITION. Instruction fetch (R252), what a turn of a warp does before its word, and the placing of a word where the next
turn fetches it. -/

namespace Sys2Proof.Machine

/-- The VA of a word (R252): 8 bytes a word from the code base. -/
def fetchVa (g : Group) (pc : BitVec 32) : Nat := (g.codeBase.toNat + 8 * pc.toNat) % 2 ^ 80

/-- What a fetch gives. -/
inductive Fetched where
  | word (s : State) (x : Word)
  | wait (s : State)
  deriving Repr

/-- The word that a warp's selected split stands at; a fault waits for the page-fault service, as a load's does (R252, R256).
TRAPPC is the pc fetched, within a chain too, whose changes to the frontier are discarded (R164). A poisoned word ends its group, as a poisoned load does (R17). DEDUCED: log 14. DEDUCED: log 105. DEDUCED: log 130. DEDUCED: log 143. -/
def fetch (s : State) (wp i : Nat) (sp : Split) : Fetched :=
  let w := s.warp wp
  let g := s.group w.grp
  let va := fetchVa g sp.pc
  let c : Ctx := { wp := wp, i := i, sp := sp, act := sp.mask }
  match translate s (coreOf wp) g.asid g.root va .execute with
  | (s1, .ok pa pte) => match unitLine s1 (coreOf wp) (pa / 128) g.asid pte .execute (halvesAt (pa % 128) 8) with
    | (s2, false) => .wait s2
    | (s2, true) =>
      if sysBad s2 pa 8 g.asid pte then .wait (tryRelease (poisonFault s2 wp sp.pc (pa / 128 * 128)) w.grp)
      else .word s2 (wordOfBytes (sysBytes s2 pa 8 g.asid pte))
  | (s1, .busy line) => .wait (recallHost s1 line)
  | (s1, .fault perm _) =>
    match raiseFaults s1 c g .execute [(lowest sp.mask, va, perm, false)] with
    | some (.trap cause info _) =>
      .wait (trapEnd (raisePrecise (trapBase s1 wp i false) wp i cause info sp.mask sp.pc) wp (s1.warp wp) false)
    | some (.stay s2) => .wait s2
    | _ => .wait s1

/-- May a warp's turn do anything: is it resident, with a split, in a group that runs, and free? -/
def warpRuns (s : State) (wp : Nat) : Bool :=
  let w := s.warp wp
  let g := s.group w.grp
  SMap.has s.warps wp && SMap.has s.groups w.grp && !w.frontier.isEmpty && w.block == .free
    && !g.faulted && !g.saving && !g.ending && (s.core (coreOf wp)).power == .on

/-- The split that issues: the chain's, the one that waits at a chain head, the one of an instruction that PXI tells is in progress, or
R163's. -/
def issueIdx (w : Warp) : Option Nat :=
  if w.pos ≠ 0 then some w.cur
  else if (w.chosen || w.pxi != 0) = true ∧ ((w.frontier[w.cur]?).any Split.canIssue) then some w.cur
  else selectIdx w

/-- A move of the machine. -/
abbrev Move := State → Host.Outcome State Fault Refusal

/-- What is due of a warp before its next word: an event of its own (R171, R198, R206, R169, R183). -/
def dueEvent (s : State) (wp : Nat) : Option Move :=
  let w := s.warp wp
  if 2 ^ 20 ≤ w.hang then some (execHang wp)
  else if w.pos ≠ 0 then none
  else if timerDue w.vtcmp w.vtime then some (execVtimeTimerFire wp)
  else if timerDue w.deadline s.cycle then some (execDeadlineFire wp)
  else if trapDue w then some (execTrapDelivery wp)
  else if !w.chosen && (forcedDue w).isSome then some (execForcedTurn wp)
  else
    match (List.range w.frontier.length).find? (fun i => (w.frontier[i]?).any (fun x => spinOver s w i x && !x.held)) with
    | some i => some (execSpinwExpiry wp i)
    | none => none

/-- A warp set up to issue from pc 0 of an address space whose page 0 is mapped onto page 0 of memory, for execution. -/
def fetchWarp (s : State) : State :=
  let g : Group := { launch := 1, warps := [0] }
  let w : Warp :=
    { frontier := [{ pc := 0, prio := 0, depth := 0, mask := BitVec.allOnes 128 }], live := BitVec.allOnes 128
      alloc := 0xFF, grp := 0 }
  let e : TlbEntry := { asid := 0, shift := 16, page := 0, pte := 0x7F }
  let s := if SMap.has s.launches 1 then s else s.setLaunch 1 {}
  { (s.setGroup 0 g).setWarp 0 w with tlb := SMap.set 0 (e :: (SMap.look [] s.tlb 0)) s.tlb }

/-- The physical address at which warp wp's next word is fetched, if its code page is mapped. -/
def fetchPlace (s : State) (wp : Nat) : Option Nat :=
  let w := s.warp wp
  let g := s.group w.grp
  match (issueIdx w).bind (fun i => w.frontier[i]?) with
  | none => none
  | some sp =>
    match translate s (coreOf wp) g.asid g.root (fetchVa g sp.pc) .execute with
    | (_, .ok pa pte) =>
      if warpRuns s wp && (dueEvent s wp).isNone && !lineShared s (pa / 128) && !sysBad s pa 8 g.asid pte then some pa else none
    | _ => none

/-- The other warps of a warp's partition (R358). -/
def mates (s : State) (wp : Nat) : List Nat := (s.warps.filter (fun u => u.1 / 8 == wp / 8 && u.1 != wp)).map Prod.fst

/-- A warp put back at the head of its chain, as a pre-emption between members puts it (R65), with no slot passed over. -/
def Warp.atHead (w : Warp) : Warp :=
  { w with
    frontier := if w.pos = 0 then w.frontier else w.frontier.modify w.cur (fun x => { x with pc := w.headPc })
    kwrites := [], gen := if w.pos = 0 then w.gen else w.headGen, pos := 0, since := 0 }

/-- The word that is to be fetched, put where warp 0's next turn fetches it, and that turn made the next (log 40). A warp 0 that
can fetch is kept as it is; its partition's slot is kept for it. -/
def placeWord (s : State) (x : Word) : State :=
  let s := (mates s 0).foldl (fun s u => s.setWarp u (s.warp u).atHead) s
  let s := if (fetchPlace s 0).isSome then s else fetchWarp s
  let s := match fetchPlace s 0 with
    | some pa => sysPut s pa (bytesOfWord x) 0 0 none
    | none => s
  { s with agenda := { act := .issue 0 } :: s.agenda }

end Sys2Proof.Machine
end

