-- ==== Sys2Proof/Machine/Sched.lean ====
section
/-! DEFINITION. One turn (log 2): a warp's issue slot, an event, or what an agent outside the device does to its memory; and
what comes next when the agenda names nothing. -/

namespace Sys2Proof.Machine

/-- A group's first instruction ends its dispatch, whose latency the monitors sample (R208). -/
def noteFirst (s : State) (wp : Nat) : State :=
  let key := (s.warp wp).grp
  match (s.group key).queued with
  | none => s
  | some t => (s.note (coreOf key) 0x08 (s.cycle - t).toNat).setGroup key { s.group key with queued := none }

/-- A turn of a warp: what is due first, else the word that its selected split stands at. -/
def warpTurn (s : State) (wp : Nat) : Host.Outcome State Fault Refusal :=
  if !warpRuns s wp then .next s
  else
    match dueEvent s wp with
    | some move => move s
    | none =>
      let w := s.warp wp
      match issueIdx w with
      | none => .next (emptySlot s wp)
      | some i =>
        match w.frontier[i]? with
        | none => .next s
        | some sp =>
          match fetch (s.setWarp wp { w with cur := i, chosen := true }) wp i sp with
          | .wait s => .next s
          | .word s x => exec (decodeWord x) (noteFirst { s with issuer := wp } wp)

/-- What a turn of a warp would make of it. -/
def afterTurn (s : State) (wp : Nat) : Warp :=
  match warpTurn s wp with
  | .next t => t.warp wp
  | _ => s.warp wp

/-- Does a warp of a group that goes on stand inside a chain, with a member of it to be issued? -/
def inChain (s : State) (wp : Nat) : Bool :=
  let g := s.groupOf wp
  (s.warp wp).pos != 0 && SMap.has s.warps wp && SMap.has s.groups (s.warp wp).grp && !g.faulted && !g.saving && !g.ending
    && (s.core (coreOf wp)).power == .on

/-- Can a warp issue, or take what is due of it? -/
def canTurn (s : State) (wp : Nat) : Bool :=
  let w := s.warp wp
  let x := afterTurn s wp
  x.frontier != w.frontier || x.pos != w.pos || x.vtime != w.vtime || x.hang != w.hang || x.pend != w.pend || x.claim != w.claim

/-- The warp that an issue slot offered to a warp serves, of those of its partition: one that stands inside a chain keeps the slot, while
its next member waits too (R63); a warp that can issue and has been passed over too often comes next (R467); else the one it is offered to.
DESIGN CHOICE: log 131. -/
def servedWarp (s : State) (wp : Nat) : Nat :=
  match (wp :: mates s wp).find? (inChain s) with
  | some u => u
  | none =>
    (((mates s wp).filter (warpRuns s)).find? (fun u =>
      (s.warp u).since != 0 && decide (Config.serveBound ≤ (s.warp u).since) && canTurn s u)).getD wp

/-- The slots that pass over the warps of a partition are counted (R467). -/
def countSlots (s : State) (wp : Nat) : State :=
  let s := ((mates s wp).filter (warpRuns s)).foldl (fun s u => s.setWarp u { s.warp u with since := (s.warp u).since + 1 }) s
  if (s.warp wp).since = 0 then s else s.setWarp wp { s.warp wp with since := 0 }

/-- An issue slot of a warp's partition (R467). -/
def issueTurn (s : State) (wp : Nat) : Host.Outcome State Fault Refusal :=
  let u := servedWarp s wp
  warpTurn (countSlots s u) u

/-- Bytes stored by an agent outside. Those of its own memory lie there: the device is not told (R453). Those of the device's memory are
performed at each line's home (R12, R288); a line that a host agent holds or shares is claimed first, and the agent stores again.
DESIGN CHOICE: log 28. -/
def outsideWrite (s : State) (pa : Nat) (bytes : List Byte) : State :=
  let lines := rangeOf pa bytes.length
  let halves (line : Nat) : BitVec 2 :=
    let lo := max pa (line * 128)
    halvesAt (lo % 128) (min (pa + bytes.length) (line * 128 + 128) - lo)
  if lines.any hostLine then { s with phys := Memory.storeBytes s.phys pa bytes, physBad := clearWhole s.physBad pa bytes.length }
  else if lines.any (fun l => lineShared s l (halves l)) then
    (lines.filter (fun l => lineShared s l (halves l))).foldl (fun s l => claimLine s l (halves l)) s
  else sysPut s pa bytes 0 0 none

/-- The record of an uncorrectable error that meets a granule of a local store (0), a vault (1) or memory (2): it names the granule
(R17, R456). DEDUCED: log 137. -/
def decayRecord (space a : Nat) : Rec :=
  let x := a / 128 * 128
  match space with
  | 0 => { cls := 0x03, sev := 1, die := x / 2 ^ 20 / 32 % 256, core := x / 2 ^ 20 % 32, addr := x % 2 ^ 20 }
  | 1 => { cls := 0x03, sev := 1, die := vaultDie (x / 128), addr := x }
  | _ => { cls := 0x03, sev := 1, die := if hostLine (x / 128) then 0xFF else homeDie (x / 128), addr := x }

/-- An uncorrectable error meets a granule of a local store (0), a vault (1) or memory (2) (R17, R98). -/
def decay (s : State) (space a : Nat) : State :=
  let s := s.record (decayRecord space a)
  match space with
  | 0 => { s with lsBad := setPoison s.lsBad (a / 128) true }
  | 1 => { s with vaultBad := setPoison s.vaultBad (a / 128) true }
  | _ => { s with physBad := setPoison s.physBad (a / 128) true }

/-- An uncorrectable error meets a region's mould copy (R445). -/
def mouldError (s : State) (n : Nat) : State :=
  match s.region n with
  | none => s
  | some r => regionRecord (s.setRegion n { r with bad := true }) n r 0x09 0

/-- Is an event row a host message (R451)? -/
def isHostMsg (i : Instr) : Bool :=
  match i with
  | .msgEnqueue _ | .msgRepair _ | .msgMigrate _ | .msgPreempt _ | .msgBind _ | .msgMould _ | .msgPage _ | .msgMode _ | .msgKey _
  | .msgKeyUnbind _ | .msgAttest _ | .msgRing _ | .msgReset _ | .msgUnlistedOp _ => true
  | _ => false

/-- Does an act ask something of the device's endpoint (R307, R450 to R453)? -/
def Act.asks : Act → Bool
  | .host _ => true
  | .write pa bytes => !(rangeOf pa bytes.length).any hostLine
  | .event i => isHostMsg i
  | _ => false

/-- A device that has lost its power answers every request with a device-lost error response (R307, R462). -/
def lostAct (s : State) (a : Act) : State := if a.asks then { s with lostAnswers := s.lostAnswers ++ [a] } else s

/-- A turn's act. A device that has lost its power restarts only (R462), and one without an image accepts no coherent request and no
store (R457); what lies outside it goes on. DESIGN CHOICE: log 1. -/
def runAct (s : State) (a : Act) : Host.Outcome State Fault Refusal :=
  match a with
  | .hostWrite va bytes => .next { s with hostMem := Memory.storeBytes s.hostMem va bytes }
  | .flash io l => .next { s with flash := SMap.put [] io l s.flash }
  | .event .coldReset => exec .coldReset s
  | a =>
    if s.lost then .next (lostAct s a)
    else
      match a with
      | .event i => if i.isWord then .next s else exec i s
      | .issue wp => issueTurn s wp
      | .host m => .next (if s.boot = .failed then s else hostRequest s m)
      | .write pa bytes => .next (if s.boot = .failed && a.asks then s else outsideWrite s pa bytes)
      | .directory line e => .next (directoryError s line e)
      | .shadow die what ix slot => .next (shadowError s die what ix slot)
      | .storage core vault a => .next (storageError s core vault a)
      | .decay space a => .next (decay s space a)
      | .mould n => .next (mouldError s n)
      | .graph die queue e => .next (if (s.queue die queue).room then appendEntry s die queue { e with kind := 4 } else s)
      | _ => .next s

/-- Is a turn the end of a window? -/
def Act.endsWindow : Act → Bool
  | .event (.atomicWindowEnd _ _) => true
  | _ => false

/-- The windows that a turn finds at their end. -/
def endPast (a : Act) (s : State) : State := if a.endsWindow then s else endPastWindows s

/-- The clocks of a turn (R203, R204, R285). A cycle's requests at the homes, and what reached the gates in it, are past once another
begins (R296, R416), the samples made are taken (R208), and the windows whose 64 cycles have passed end, unless the turn is to end one (R250). -/
def tick (s : State) (t : Turn) : State :=
  let micros := (s.cycle.toNat + t.ref) / 1000 - s.cycle.toNat / 1000
  let s := microsecond (if t.arith = 0 then s else takeSamples s) micros
  resetGoesOn (endPast t.act (tickDies { s with
    cycle := s.cycle + BitVec.ofNat 64 t.ref, arith := s.arith + t.arith, slot := t.arith
    arrivals := if t.arith = 0 then s.arrivals else []
    cores := if t.arith = 0 then s.cores else s.cores.map (fun k => (k.1, { k.2 with gateSeen := [] })) }))

/-- The move that takes a directory message. -/
def msgMove (kind : MsgKind) (ix : Nat) : Move :=
  match kind with
  | .rdS => execRds ix
  | .rdX => execRdx ix
  | .upg => execUpg ix
  | .putE => execPute ix
  | .putM => execPutm ix
  | .evict => execEvict ix
  | .invAck => execInvack ix
  | .rclData => execRcldata ix
  | .rclAck => execRclack ix
  | .data => execData ix
  | .gntX => execGntx ix
  | .inv => execInv ix
  | .rcl => execRcl ix
  | .putAck => execPutack ix
  | .fill => execFill ix

/-- The part of a load that comes next: that of an atomic's first lane. -/
def turnPart (l : Load) : Nat :=
  ((l.atoms.head?).bind (fun a => l.todo.findIdx? (fun p => p.vline == a.addr / 128))).getD 0

/-- The moves that a core's items call for. -/
def coreMoves (core : Nat) (k : Core) : List Move :=
  (k.loads.zipIdx.map (fun p =>
      if p.1.todo.isEmpty then execLoadReturn core p.2
      else if (p.1.todo.head?).any (fun x => x.region.isSome) then execCastLoad core p.2 0
      else execSliceRead core p.2 (turnPart p.1)))
    ++ (k.stores.zipIdx.map (fun p => if p.1.cast.isSome then execCastStore core p.2 else execHomeStore core p.2))
    ++ (k.sidelog.zipIdx.map (fun p => execSideLogReplay core p.2))
    ++ (k.pushes.zipIdx.map (fun p => if p.1.stage = .acked then execPushAck core p.2 else execPushFill core p.2))
    ++ (k.cmds.map (fun c => execCopyUnitLand core c.1)) ++ (k.cmds.map (fun c => execEngineCommandComplete core c.1))
    ++ (if k.mq.isEmpty then [] else [execMatrixOpPerform core])
    ++ (if k.slots.isEmpty then [] else [execDispatch core])
    ++ (if k.power == .prep || k.power == .commit then [execGatePrepComplete core] else [])
    ++ (if k.power == .off && k.wake then [execGatePowerUp core] else [])

/-- The moves that a resident group calls for. -/
def groupMoves (key : Nat) (g : Group) : List Move :=
  (if g.saving then [execGroupSave (coreOf key) key g.saveAt] else []) ++ (if g.ending then [execPhaseEnd (coreOf key) key] else [])

/-- The moves that a die's tasks call for. -/
def dieMoves (s : State) (n : Nat) (d : Die) : List Move :=
  ((s.queues.filter (fun q => q.1 / 256 == n && (q.2.entries.head?).any (fun e => decide (4 ≤ e.kind)))).map (fun q => execGraphLoad n (q.1 % 256)))
    ++ ((d.readyList.take 1).map (fun x => execNodeRun n x))
    ++ ((d.nodes.filter (fun x => x.2.running)).map (fun x => execNodeComplete n x.1))
    ++ (if d.ticks < s.arith / 256 then [execLogicalTimeTick n] else [])
    ++ [execWeirBalance n]

/-- The moves that a cast region calls for. -/
def regionMoves (n : Nat) (r : Region) : List Move :=
  match r.st with
  | .building => [execRegionBuildComplete n]
  | .closing => [execRegionCloseComplete n]
  | .recasting =>
    match r.recast.bind (fun x => x.freeze) with
    | some (e :: _) => [execEvaluatorFreezeAck n e]
    | _ => [execRecastScanDone n]
  | .live => []

/-- The moves that the state calls for. -/
def dueMoves (s : State) : List Move :=
  ((s.msgs.take 1).map (fun m => msgMove m.kind 0))
    ++ (s.cores.map (fun k => coreMoves k.1 k.2)).flatten
    ++ (s.groups.map (fun g => groupMoves g.1 g.2)).flatten
    ++ (s.dies.map (fun d => dieMoves s d.1 d.2)).flatten
    ++ (s.regions.map (fun r => regionMoves r.1 r.2)).flatten
    ++ (s.regToks.map (fun x => execRegionCloseComplete x.1))
    ++ (s.launches.map (fun l => if l.2.faulted then execLaunchFaultedEnd l.1 else execLaunchComplete l.1))
    ++ (s.warps.map (fun w s => issueTurn s w.1))
    ++ (s.windows.map (fun x => execAtomicWindowEnd (l1Core x.key) 0))

/-- The move after those the agenda names: what the state calls for comes in turn. DESIGN CHOICE: log 41. -/
def nextMove (s : State) : Option Move :=
  let l := dueMoves s
  l[s.cycle.toNat % l.length]?

/-- One turn of the module. A device that has lost its power and has no turn left stops. -/
def runTurn (s : State) : Host.Outcome State Fault Refusal :=
  match s.agenda with
  | t :: rest => runAct (tick { s with agenda := rest } t) t.act
  | [] =>
    if s.lost then .fault .deviceLost
    else
      match nextMove s with
      | some move => move (tick s { act := .issue 0 })
      | none => .next (tick s { act := .issue 0 })

end Sys2Proof.Machine
end

