-- ==== Sys2Proof/Machine/Step.lean ====
section
/-! DEFINITION. One step of the module, and the placing of a word that its next step fetches. -/

namespace Sys2Proof.Machine

/-- One step: one turn. -/
def step (s : State) : Host.Outcome State Fault Refusal := runTurn s

/-- The state with a word stored where the next step fetches; bits above nbits are 0. DESIGN CHOICE: log 40. -/
def State.withFetchWord (s : State) (nbits w : Nat) : State := placeWord s (BitVec.ofNat 64 (w % 2 ^ nbits))

end Sys2Proof.Machine
end

