-- ==== Sys2Proof/Safety.lean ====
section
/-! DEFINITION. What counts as a safe run: no step stops; and the terms in which the claims about single words are stated:
when a word issues, and the state in which its slot ends. -/

namespace Sys2Proof

/-- A step that answers a next state. -/
def Runs (o : Host.Outcome Machine.State Machine.Fault Machine.Refusal) : Prop := ∃ s, o = .next s

/-- A run of n steps that stops nowhere. -/
def SafeRun (n : Nat) (s : Machine.State) : Prop := Runs (core.run n s)

open Machine

/-- The warp of the slot, as its word sees it: latches invalid at a chain head (R63), the other splits aged (R163). -/
def seen (s : State) (sp : Split) : Warp := slotWarp (s.warp s.issuer) (s.warp s.issuer).cur sp

/-- The context of a word: the warp of the slot, its split, and the lanes that its mask operand lets act (R126). -/
def slotCtx (s : State) (f : RWord) (sp : Split) : Ctx :=
  { wp := s.issuer, i := (s.warp s.issuer).cur, sp := sp, act := sp.mask &&& (seen s sp).k sp.mask f.k.toNat }

/-- WHEN A WORD ISSUES: nothing of R82 stops it, and nothing of R234 and R319 holds it. `readsD` tells that its destination
is an operand too; `regs` are registers that it names beyond its fields. -/
structure Issues (sh : Shape) (f : RWord) (readsD : Bool) (regs : List Nat) (s : State) (sp : Split) : Prop where
  /-- the split of the slot -/
  split : (s.warp s.issuer).frontier[(s.warp s.issuer).cur]? = some sp
  /-- its fields hold what its form lists (R57 to R60) -/
  form : sh.check f = none
  /-- its registers are allocated (R60) -/
  allocated : ∀ n ∈ sh.regs f ++ regs, regOk (seen s sp) (s.group (seen s sp).grp).sregs n = true
  /-- the latches it reads are valid, of a kind its places take, and arrived (R63, R234) -/
  latches : ∀ p ∈ sh.latches f, latchKindOk (seen s sp) p.1 p.2 = true ∧
    ∃ y, (seen s sp).latch p.2 = some y ∧ ∀ l u, y ≠ .awaited l u
  /-- it stands where a chain lets it stand (R64) -/
  chain : chainViolation (seen s sp) f sh.inner = false
  /-- a privileged form runs in supervisor state (R189) -/
  level : sh.priv = true → (seen s sp).sup = true
  /-- no load and no token is still to write a register that it names (R234, R319) -/
  free : mustWait s s.issuer (sh.regs f ++ regs) = false
  /-- no register that it reads holds an error token (R321) -/
  clean : taggedRead (seen s sp) ((({ sh with dst := if readsD then sh.dst else .unused } : Shape).regs f) ++ regs) = none

/-- The state after a word that completes with the warp w and the latch y: the slot's end (R63, R163, R171, R363). -/
def ended (s : State) (f : RWord) (sp : Split) (ctl : Bool) (w : Warp) (y : Option Latch) : State :=
  conclude s (slotCtx s f sp) f.h false ctl (.done (s.setWarp s.issuer w) y)

end Sys2Proof
end

