-- ==== Sys2Proof/Safety/Claims.lean ====
section
/-! DEFINITION. The terms of the claims: what the rules give as values, written over the integers and bit strings of the
rules and apart from the functions that the meanings use. -/

namespace Sys2Proof.Claims

open Machine

/-! ### Integer types (R56, R115) -/

/-- The width of a type code. -/
def bits (t : Nat) : Nat := [32, 32, 16, 16, 8, 8, 64, 64].getD t 64
/-- `.i` types are signed. -/
def signed (t : Nat) : Bool := t % 2 == 0
/-- The low n bits of a value, read as an unsigned number. -/
def low (t : Nat) (x : Word) : Nat := x.toNat % 2 ^ bits t
/-- The integer that the low bits of a value stand for under a type. -/
def val (t : Nat) (x : Word) : Int := if signed t then Int.bmod x.toNat (2 ^ bits t) else low t x
/-- An integer taken modulo 2^n and extended from its type to 64 bits: ext. -/
def put (t : Nat) (z : Int) : Word :=
  BitVec.ofInt 64 (if signed t then Int.bmod z (2 ^ bits t) else z % 2 ^ bits t)
/-- A condition code of R114 on two integers. -/
def holds (c : Nat) (x y : Int) : Bool :=
  [decide (x = y), decide (x ≠ y), decide (x < y), decide (x ≤ y), decide (x > y), decide (x ≥ y)].getD c false
/-- 1 when a condition holds, else 0. -/
def flag (b : Bool) : Word := if b then 1 else 0
/-- The greatest and the least integer of a type. -/
def top (t : Nat) : Int := if signed t then 2 ^ (bits t - 1) - 1 else 2 ^ bits t - 1
def bottom (t : Nat) : Int := if signed t then -2 ^ (bits t - 1) else 0
/-- An integer moved to the nearest end of a type's range when it lies outside. -/
def clamp (t : Nat) (z : Int) : Int := max (bottom t) (min (top t) z)

/-- R116's two-source results, on the n-bit values of A and B, as integers still to be taken modulo 2^n. -/
def addV (t : Nat) (a b : Word) : Int := val t a + val t b
def subV (t : Nat) (a b : Word) : Int := val t a - val t b
def mulV (t : Nat) (a b : Word) : Int := val t a * val t b
def mulhV (t : Nat) (a b : Word) : Int := val t a * val t b / 2 ^ bits t
/-- R117. -/
def divV (t : Nat) (a b : Word) : Int := if val t b = 0 then -1 else Int.tdiv (val t a) (val t b)
def remV (t : Nat) (a b : Word) : Int := if val t b = 0 then val t a else val t a - val t b * Int.tdiv (val t a) (val t b)
def andV (_ : Nat) (a b : Word) : Int := (a &&& b).toNat
def orV (_ : Nat) (a b : Word) : Int := (a ||| b).toNat
def xorV (_ : Nat) (a b : Word) : Int := (a ^^^ b).toNat
/-- R118. -/
def shlV (t : Nat) (a b : Word) : Int := if bits t ≤ low t b then 0 else val t a * 2 ^ low t b
def shrV (t : Nat) (a b : Word) : Int := if bits t ≤ low t b then 0 else (low t a / 2 ^ low t b : Nat)
def sarV (t : Nat) (a b : Word) : Int :=
  if bits t ≤ low t b then (if Int.bmod a.toNat (2 ^ bits t) < 0 then -1 else 0)
  else Int.bmod a.toNat (2 ^ bits t) / 2 ^ low t b
def minV (t : Nat) (a b : Word) : Int := min (val t a) (val t b)
def maxV (t : Nat) (a b : Word) : Int := max (val t a) (val t b)
/-- How many of the low n bits are 1. -/
def ones (t : Nat) (a : Word) : Nat := ((List.range (bits t)).map (fun i => (a.getLsbD i).toNat)).sum
/-- How many 0 bits stand above the highest 1 of the low n bits. -/
def leadingZeros (t : Nat) (a : Word) : Nat := bits t - Nat.size (low t a)
/-- R119: the field's first bit and its width, inside n bits. -/
def fieldPos (b : Word) : Nat := b.toNat % 128
def fieldLen (t : Nat) (b c : Word) : Nat := min (c.toNat % 128) (bits t - fieldPos b)
/-- SBFE's field, as the integer its own width stands for. -/
def bfeV (t : Nat) (a b c : Word) : Int :=
  let f : Nat := low t a / 2 ^ fieldPos b % 2 ^ fieldLen t b c
  if signed t ∧ fieldLen t b c ≠ 0 then Int.bmod f (2 ^ fieldLen t b c) else f
/-- Bit i of SBFI's result: of A inside the field, of D outside it. -/
def bfiBit (t : Nat) (d a b c : Word) (i : Nat) : Bool :=
  if fieldPos b ≤ i ∧ i < fieldPos b + fieldLen t b c then a.getLsbD (i - fieldPos b) else d.getLsbD i
def bfiV (t : Nat) (d a b c : Word) : Int :=
  ((List.range (bits t)).map (fun i => (bfiBit t d a b c i).toNat * 2 ^ i)).sum

/-- The two-source forms of class 0 and what they give. -/
def scalarForms : List ((RWord → Instr) × (Nat → Word → Word → Int)) :=
  [(.sadd, addV), (.ssub, subV), (.smul, mulV), (.smulh, mulhV), (.sdiv, divV), (.srem, remV), (.sand, andV), (.sor, orV),
   (.sxor, xorV), (.sshl, shlV), (.sshr, shrV), (.ssar, sarV), (.smin, minV), (.smax, maxV)]
/-- Their immediate forms, of type `.i32`. -/
def scalarImmForms : List ((IWord → Instr) × (Nat → Word → Word → Int)) :=
  [(.saddImm, addV), (.ssubImm, subV), (.smulImm, mulV), (.sandImm, andV), (.sorImm, orV), (.sxorImm, xorV),
   (.sshlImm, shlV), (.sshrImm, shrV), (.ssarImm, sarV), (.sminImm, minV), (.smaxImm, maxV)]
/-- The two-source forms of class 1, without saturation, and what they give in a lane. -/
def vectorForms : List ((RWord → Instr) × (Nat → Word → Word → Int)) :=
  [(.vmul, mulV), (.vmulh, mulhV), (.vand, andV), (.vor, orV), (.vxor, xorV), (.vshl, shlV), (.vshr, shrV), (.vsar, sarV),
   (.vmin, minV), (.vmax, maxV)]
def vectorImmForms : List ((IWord → Instr) × (Nat → Word → Word → Int)) :=
  [(.vaddImm, addV), (.vsubImm, subV), (.vmulImm, mulV), (.vandImm, andV), (.vorImm, orV), (.vxorImm, xorV),
   (.vshlImm, shlV), (.vshrImm, shrV), (.vsarImm, sarV), (.vminImm, minV), (.vmaxImm, maxV)]

/-- The warp with a result in an s register, which a word with w = 1 does not write (R61). -/
def wroteS (w : Warp) (f : RWord) (x : Word) : Warp := if f.w then w else w.setS (f.dst.toNat - 0x100) x
/-- The same for an a register and for a k register. -/
def wroteA (w : Warp) (f : RWord) (x : Addr) : Warp := if f.w then w else w.setA (f.dst.toNat - 0x144) x
def wroteK (w : Warp) (f : RWord) (m : Mask) : Warp := if f.w then w else w.setK f.dst.toNat m

/-- A word completes with a uniform result x in an s register and in y0, and changes nothing else of its warp. -/
def GivesS (i : Instr) (f : RWord) (s : State) (sp : Split) (x : Word) : Prop :=
  exec i s = .next (ended s f sp false (wroteS (seen s sp) f x) (some (.uniform x)))
/-- The same for an address, of which y0 takes bits 63:0. -/
def GivesA (i : Instr) (f : RWord) (s : State) (sp : Split) (x : Addr) : Prop :=
  exec i s = .next (ended s f sp false (wroteA (seen s sp) f x) (some (.uniform (x.setWidth 64))))
/-- The same for a lane mask. -/
def GivesK (i : Instr) (f : RWord) (s : State) (sp : Split) (m : Mask) : Prop :=
  exec i s = .next (ended s f sp false (wroteK (seen s sp) f m) (some (.mask m)))

/-! ### Vector results (R63, R134, R135) -/

/-- The acting lanes of a word (R126). -/
def acts (s : State) (f : RWord) (sp : Split) (t : Nat) : Bool := (slotCtx s f sp).act.getLsbD t

/-- The 32 bits that a lane of register n holds after a result x of that lane is placed in register d, or, for a 64-bit
type, in the pair that begins there. -/
def placed (d : Nat) (wide : Bool) (n : Nat) (x : Word) (old : Lane) : Lane :=
  if n = d then x.extractLsb' 0 32 else if wide ∧ n = d + 1 then x.extractLsb' 32 32 else old

/-- The union of the flags that the acting lanes set. -/
def unionFlags (act : Nat → Bool) (x : Nat → Flags) : Flags :=
  (List.range 128).foldl (fun acc t => if act t then acc ||| x t else acc) 0

/-- The warp w holds a vector result, given lane by lane, in register `f.dst`, where a word with w = 1 writes nothing; the
lanes that do not act keep what they held. -/
def HoldsV (s : State) (f : RWord) (sp : Split) (wide : Bool) (x : Nat → Word) (w : Warp) : Prop :=
  ∀ n t, t < 128 → w.vlane n t =
    if f.w = false ∧ acts s f sp t = true then placed f.dst.toNat wide n (x t) ((seen s sp).vlane n t)
    else (seen s sp).vlane n t

/-- A latch holds a vector result in its acting lanes, in the bits that the type has. -/
def LatchV (s : State) (f : RWord) (sp : Split) (wide : Bool) (x : Nat → Word) (y : Lanes Word) : Prop :=
  ∀ t, t < 128 → acts s f sp t = true →
    if wide then y.at t = x t else (y.at t).extractLsb' 0 32 = (x t).extractLsb' 0 32

/-- A word completes with a vector result in a v register and in y0, with the union of its lanes' flags in FPMODE, with
`draws` draws of each acting lane in the mode `.rs`, and changes nothing else of its warp. -/
def GivesV (i : Instr) (f : RWord) (s : State) (sp : Split) (wide : Bool) (mode draws : Nat) (x : Nat → Word × Flags) : Prop :=
  ∃ (w : Warp) (y : Lanes Word),
    exec i s = .next (ended { s with fresh := s.fresh + 1 } f sp false w (some (.vector y)))
    ∧ HoldsV s f sp wide (fun t => (x t).1) w
    ∧ LatchV s f sp wide (fun t => (x t).1) y
    ∧ w.fpmode = (seen s sp).fpmode ||| (unionFlags (acts s f sp) (fun t => (x t).2)).setWidth 64
    ∧ (∀ t, w.genOf t =
        if mode = 4 ∧ t < 128 ∧ acts s f sp t = true then nextGen^[draws] ((seen s sp).genOf t) else (seen s sp).genOf t)
    ∧ { w with v := (seen s sp).v, fpmode := (seen s sp).fpmode, gen := (seen s sp).gen } = seen s sp

/-- An integer result: no flag, no draw. -/
def GivesVI (i : Instr) (f : RWord) (s : State) (sp : Split) (wide : Bool) (x : Nat → Word) : Prop :=
  GivesV i f s sp wide 0 0 (fun t => (x t, 0))

/-- A word completes with a lane mask whose bit t is p t for an acting lane t and 0 for any other, with the union of its
lanes' flags in FPMODE, and changes nothing else of its warp. -/
def GivesM (i : Instr) (f : RWord) (s : State) (sp : Split) (p : Nat → Bool × Flags) : Prop :=
  ∃ m : Mask, (∀ t, t < 128 → m.getLsbD t = (acts s f sp t && (p t).1))
    ∧ exec i s = .next (ended s f sp false
        (wroteK ((seen s sp).flag (unionFlags (acts s f sp) (fun t => (p t).2))) f m) (some (.mask m)))

/-- A word completes with a scalar float result: its code in the low bits of an s register and in y0, its flags in FPMODE, one
draw of lane 128 in the mode `.rs` (R120). -/
def GivesF (i : Instr) (f : RWord) (s : State) (sp : Split) (mode : Nat) (x : Nat × Flags) : Prop :=
  ∃ w : Warp,
    exec i s = .next (ended s f sp false (wroteS w f (BitVec.ofNat 64 x.1)) (some (.uniform (BitVec.ofNat 64 x.1))))
    ∧ w.fpmode = (seen s sp).fpmode ||| x.2.setWidth 64
    ∧ (∀ t, w.genOf t = if mode = 4 ∧ t = 128 then nextGen ((seen s sp).genOf 128) else (seen s sp).genOf t)
    ∧ { w with fpmode := (seen s sp).fpmode, gen := (seen s sp).gen } = seen s sp

/-- The rounding of a lane's element j: its mode and, in `.rs`, the draw (R90). -/
def roundOf (w : Warp) (mode t j : Nat) : Rnd :=
  { mode := mode, draw := if mode = 4 then (nextGen^[j + 1] (w.genOf t)).toNat else 0 }

/-! ### Float forms (R140 to R145) -/

/-- The two-source float forms, which round in the mode of the word. -/
def float2Forms : List ((RWord → Instr) × (Fmt → Rnd → Bool → Nat → Nat → Nat × Flags)) :=
  [(.fadd, Fmt.add), (.fsub, Fmt.sub), (.fmul, Fmt.mul), (.fdiv, Fmt.div)]
/-- The one-source float forms. -/
def float1Forms : List ((RWord → Instr) × (Fmt → Rnd → Bool → Nat → Nat × Flags)) :=
  [(.frcp, Fmt.recip), (.frsq, Fmt.rsqrt), (.fsqrt, Fmt.sqrt), (.fexp2, Fmt.exp2), (.flog2, Fmt.log2),
   (.fsin, fun F => F.sinCos false), (.fcos, fun F => F.sinCos true), (.frnd, Fmt.integral)]
/-- The float immediate forms, of type `.f32` and mode `.rn`. -/
def floatImmForms : List ((IWord → Instr) × (Bool → Nat → Nat → Nat × Flags)) :=
  [(.faddImm, f32.add rne), (.fsubImm, f32.sub rne), (.fmulImm, f32.mul rne), (.fminImm, fun z => f32.minmax z false),
   (.fmaxImm, fun z => f32.minmax z true)]

/-- The number that a finite value is, and on which side of every number an infinity lies. -/
def numOf : FV → ℚ
  | .fin neg m e => (if neg then -1 else 1) * (m : ℚ) * (2 : ℚ) ^ e
  | _ => 0
def sideOf : FV → Int
  | .inf neg => if neg then -1 else 1
  | _ => 0
/-- The order and the equality of values that are no NaN; −0 and +0 are equal. -/
def FVless (x y : FV) : Prop := sideOf x < sideOf y ∨ (sideOf x = sideOf y ∧ numOf x < numOf y)
def FVequal (x y : FV) : Prop := sideOf x = sideOf y ∧ numOf x = numOf y
/-- A subnormal code as a zero of its sign (R85). -/
def flushed (F : Fmt) (x : Nat) : Nat :=
  if x % 2 ^ (F.eb + F.fb) < 2 ^ F.fb then x / 2 ^ (F.eb + F.fb) * 2 ^ (F.eb + F.fb) else x

/-- R122's table: p tells whether a condition holds of two codes of a format, fl the flags that the comparison sets. -/
def FcmpTable (F : Fmt) (cond a b : Nat) (p : Bool) (fl : Flags) : Prop :=
  let sign := 2 ^ (F.eb + F.fb)
  let top := (2 ^ F.eb - 1) * 2 ^ F.fb
  let nan (x : Nat) : Bool := decide (top < x % sign)
  let sig (x : Nat) : Bool := nan x && decide (x % sign < top + 2 ^ (F.fb - 1))
  let x := F.read a
  let y := F.read b
  let un := nan a || nan b
  (fl = if sig a || sig b || (un && decide (2 ≤ cond) && decide (cond ≤ 5)) then 0x20 else 0)
  ∧ (cond = 0 → (p = true ↔ un = false ∧ FVequal x y)) ∧ (cond = 1 → (p = true ↔ un = true ∨ ¬ FVequal x y))
  ∧ (cond = 2 → (p = true ↔ un = false ∧ FVless x y)) ∧ (cond = 3 → (p = true ↔ un = false ∧ (FVless x y ∨ FVequal x y)))
  ∧ (cond = 4 → (p = true ↔ un = false ∧ FVless y x)) ∧ (cond = 5 → (p = true ↔ un = false ∧ (FVless y x ∨ FVequal x y)))
  ∧ (cond = 6 → p = un) ∧ (cond = 7 → p = !un)

/-- A float result as a lane's word. -/
def lane (x : Nat × Flags) : Word × Flags := (BitVec.ofNat 64 x.1, x.2)

/-- Element j of a packed operand at a lane (R144). -/
def half (w : Warp) (F : Fmt) (c : BitVec 9) (t j : Nat) : Nat :=
  if isInline c then F.ofInline c else ((w.vsrc false c t).extractLsb' (16 * j) 16).toNat
/-- The packed result of two elements. -/
def packTwo (x0 x1 : Nat × Flags) : Word × Flags := (BitVec.ofNat 64 (x0.1 + 2 ^ 16 * x1.1), x0.2 ||| x1.2)

/-- Byte j and nibble j of a 32-bit operand. -/
def byteOf (x : Word) (j : Nat) : Nat := (x.extractLsb' (8 * j) 8).toNat
def nibbleOf (x : Word) (j : Nat) : Nat := (x.extractLsb' (4 * j) 4).toNat

/-! ### Cross-lane forms (R106, R107, R151 to R156) -/

/-- ⊕ on what two lanes contribute: a lane that contributes nothing leaves the other's value, and raises no flag. -/
def meet (op : Nat → Nat → Nat × Flags) (x y : Option Nat) : Option Nat × Flags :=
  match x, y with
  | some a, some b => (some (op a b).1, (op a b).2)
  | some a, none => (some a, 0)
  | none, y => (y, 0)

/-- R106: the value of the 2^n lanes from lane `base`, and the flags of the steps that gave it. -/
def treeOf (op : Nat → Nat → Nat × Flags) (x : Nat → Option Nat) : Nat → Nat → Option Nat × Flags
  | 0, base => (x base, 0)
  | n + 1, base =>
    let l := treeOf op x n base
    let r := treeOf op x n (base + 2 ^ n)
    let z := meet op l.1 r.1
    (z.1, l.2 ||| r.2 ||| z.2)

/-- R107: a lane's value after n steps. -/
def scanOf (op : Nat → Nat → Nat × Flags) (x : Nat → Option Nat) : Nat → Nat → Option Nat
  | 0, t => x t
  | n + 1, t => if t < 2 ^ n then scanOf op x n t else (meet op (scanOf op x n (t - 2 ^ n)) (scanOf op x n t)).1
/-- The flags of all the steps of a scan. -/
def scanFlags (op : Nat → Nat → Nat × Flags) (x : Nat → Option Nat) : Flags :=
  (List.range 7).foldl (fun acc n => (List.range 128).foldl (fun acc t =>
    if t < 2 ^ n then acc else acc ||| (meet op (scanOf op x n (t - 2 ^ n)) (scanOf op x n t)).2) acc) 0

/-- R155's ⊕ of an integer type, on n-bit codes. -/
def intReduce (op t a b : Nat) : Nat :=
  let x := BitVec.ofNat 64 a
  let y := BitVec.ofNat 64 b
  let z : Int := [addV t x y, minV t x y, maxV t x y, andV t x y, orV t x y, xorV t x y].getD op 0
  (z % 2 ^ bits t).toNat
/-- R155's identity of an integer type. -/
def intIdentity (op t : Nat) : Nat :=
  (([0, top t, bottom t, 2 ^ bits t - 1, 0, 0].getD op 0 : Int) % 2 ^ bits t).toNat

/-- The lane from which VSHFL takes lane t's value (R152). -/
def shuffleFrom (mode width t b : Nat) : Nat :=
  let base : Int := t / width * width
  let src : Int :=
    if mode = 0 then base + b % width
    else if mode = 1 then (t : Int) - b
    else if mode = 2 then (t : Int) + b
    else base + ((t % width) ^^^ (b % width) : Nat)
  if src < base ∨ base + width ≤ src then t else src.toNat

/-- A float code as FPMODE.ftz lets an instruction read it (R85): a subnormal one as a zero of its sign. -/
def asRead (w : Warp) (F : Fmt) (x : Nat) : Nat :=
  if w.ftz = true ∧ x % 2 ^ (F.eb + F.fb) < 2 ^ F.fb then x / 2 ^ (F.eb + F.fb) * 2 ^ (F.eb + F.fb) else x
/-- What an acting lane contributes to a reduction of a type of R151. -/
def redSource (w : Warp) (f : RWord) (act : Nat → Bool) (t : Nat) : Option Nat :=
  if act t then
    some (match rtypeF (f.mod 5 3) with
      | some F => asRead w F (w.vsrcF F f.a t)
      | none => low (ctypeI (f.mod 5 3)) (w.vsrc (wideR (f.mod 5 3)) f.a t))
  else none
/-- ⊕ of a word of R151, with its flags. -/
def redStep (w : Warp) (f : RWord) (a b : Nat) : Nat × Flags :=
  match rtypeF (f.mod 5 3) with
  | some F => if f.mod 8 6 = 0 then F.add { mode := f.rnd } w.ftz a b else F.minmax w.ftz (f.mod 8 6 == 2) a b
  | none => (intReduce (f.mod 8 6) (ctypeI (f.mod 5 3)) a b, 0)
/-- Its identity. -/
def redUnit (f : RWord) : Nat :=
  match rtypeF (f.mod 5 3) with
  | some F => [0, F.infinity false, F.infinity true].getD (f.mod 8 6) 0
  | none => intIdentity (f.mod 8 6) (ctypeI (f.mod 5 3))
/-- The result of a reduction as a word: an integer extended from its type, a float code as it is. -/
def redWord (f : RWord) (x : Nat) : Word :=
  if f.mod 5 3 < 4 then put (ctypeI (f.mod 5 3)) x else BitVec.ofNat 64 x

/-! ### Pair words (R67 to R71) -/

/-- When a pair word issues: no check of R82 stops it, no load or token holds it. -/
structure PairIssues (p : PWord) (s : State) (sp : Split) : Prop where
  split : (s.warp s.issuer).frontier[(s.warp s.issuer).cur]? = some sp
  checked : pairTrap (seen s sp) (s.group (s.warp s.issuer).grp).sregs p = none
  free : mustWait s s.issuer (slotRegs p.sa ++ slotRegs p.sb) = false
  clean : taggedRead (seen s sp) (slotReads p.sa ++ slotReads p.sb) = none

/-- What an integer slot computes from D and A (R68, R70, R73, R74). -/
def pairForm (cls op : Nat) : Option (Nat → Word → Word → Int) :=
  if cls = 0 then
    [some addV, some subV, some mulV, none, none, none, some andV, some orV, some xorV, some shlV, some shrV, some sarV, some minV,
     some maxV, none, none, some (fun t _ a => val t a), some (fun t _ a => ones t a), some (fun t _ a => leadingZeros t a)].getD op none
  else if cls = 1 then
    [some addV, some subV, some mulV, none, none, some andV, some orV, some xorV, some (fun t _ a => -1 - val t a), some shlV,
     some shrV, some sarV, some minV, some maxV, some (fun t _ a => |val t a|), some (fun t _ a => -val t a), none, none,
     some (fun t _ a => val t a), none, none, some (fun t _ a => ones t a), some (fun t _ a => leadingZeros t a)].getD op none
  else none

/-- What an 8-bit operand code names at a lane (R69). -/
def pairRead (w : Warp) (code : Byte) (t : Nat) : Word :=
  if code.toNat < 0x80 then (w.vlane code.toNat t).setWidth 64 else w.s (code.toNat - 0x80)

/-- A slot writes D op A to its D in the warp w, giving w'; A's values are given lane by lane, `sure` in the lanes where
they are known. -/
def SlotWrites (x : Slot) (op : Nat → Word → Word → Int) (k0 : Mask) (from' : Warp) (a : Nat → Word) (sure : Nat → Prop)
    (w w' : Warp) : Prop :=
  let t := x.flags.toNat
  if x.cls = 0 then w' = w.setS (x.dst.toNat - 0x80) (put t (op t (pairRead from' x.dst 0) (a 0)))
  else
    let act (n : Nat) : Bool := (k0 &&& from'.k k0 x.k.toNat).getLsbD n
    (∀ r n, n < 128 → act n = true → sure n → w'.vlane r n =
        placed x.dst.toNat false r (put t (op t (pairRead from' x.dst n) (a n))) (w.vlane r n))
    ∧ (∀ r n, n < 128 → (act n = false ∨ r ≠ x.dst.toNat) → w'.vlane r n = w.vlane r n)
    ∧ { w' with v := w.v } = w

/-- What a scalar float slot computes (R68, R120). -/
def pairScalarF (x : Slot) : Option (Rnd → Bool → Nat → Nat → Nat × Flags) :=
  if x.cls = 0 ∧ x.op = 0x18 then some f64.add else if x.cls = 0 ∧ x.op = 0x19 then some f64.mul else none

/-- What a float or packed slot computes in a lane from the low 32 bits of D and A, and how often the lane draws (R68, R75, R142, R144). -/
def pairFloat (x : Slot) : Option (Nat × (Bool → (Nat → Rnd) → Nat → Nat → Word × Flags)) :=
  let two (op : Rnd → Bool → Nat → Nat → Nat × Flags) : Option (Nat × (Bool → (Nat → Rnd) → Nat → Nat → Word × Flags)) :=
    some (1, fun z r d a => lane (op (r 0) z d a))
  let one (op : Rnd → Bool → Nat → Nat × Flags) : Option (Nat × (Bool → (Nat → Rnd) → Nat → Nat → Word × Flags)) :=
    some (1, fun z r _ a => lane (op (r 0) z a))
  let packed (op : Rnd → Bool → Nat → Nat → Nat × Flags) : Option (Nat × (Bool → (Nat → Rnd) → Nat → Nat → Word × Flags)) :=
    some (2, fun z r d a => packTwo (op (r 0) z (d % 2 ^ 16) (a % 2 ^ 16)) (op (r 1) z (d / 2 ^ 16) (a / 2 ^ 16)))
  if x.cls ≠ 2 then none
  else if x.op = 0x18 then packed f16.add
  else if x.op = 0x19 then packed f16.mul
  else
    [two f32.add, two f32.sub, two f32.mul, none, some (0, fun z _ d a => lane (f32.minmax z false d a)),
     some (0, fun z _ d a => lane (f32.minmax z true d a)), some (0, fun _ _ _ a => lane (a % 2 ^ 31, 0)),
     some (0, fun _ _ _ a => lane ((a + 2 ^ 31) % 2 ^ 32, 0)), none, one f32.recip, one f32.rsqrt, one f32.sqrt].getD x.op.toNat none

/-- What a mask slot gives (R68, R127). -/
def pairMaskV (x : Slot) (d a : Mask) : Mask :=
  [d &&& a, d ||| a, d ^^^ a, d &&& ~~~ a, ~~~ a, a].getD x.op.toNat 0

/-- A slot of any class performs D := D op A in the warp w, giving w': its operands are read in rd, A's values given lane by lane (`sure` in
the lanes where they are known) or as a mask; a float slot sets its flags and draws from w's generators (R68, R70). -/
def SlotGives (x : Slot) (k0 : Mask) (rd : Warp) (a : Nat → Word) (am : Mask) (sure : Nat → Prop) (w w' : Warp) : Prop :=
  let mode := x.flags.toNat
  let act (n : Nat) : Bool := (k0 &&& rd.k k0 x.k.toNat).getLsbD n
  let drew (p : Nat → Prop) (n : Nat) : Prop :=
    ∀ t, (mode = 4 ∧ p t → w'.genOf t = nextGen^[n] (w.genOf t)) ∧ (¬(mode = 4 ∧ p t) → w'.genOf t = w.genOf t)
  (∀ op, pairForm x.cls.toNat x.op.toNat = some op → SlotWrites x op k0 rd a sure w w')
  ∧ (∀ op, pairScalarF x = some op →
      let y := op (roundOf w mode 128 0) rd.ftz (pairRead rd x.dst 0).toNat (a 0).toNat
      ∃ w1 : Warp, w' = w1.setS (x.dst.toNat - 0x80) (BitVec.ofNat 64 y.1)
        ∧ w1.fpmode = w.fpmode ||| y.2.setWidth 64 ∧ drew (fun t => t = 128) 1
        ∧ { w1 with fpmode := w.fpmode, gen := w.gen } = w)
  ∧ (∀ n op, pairFloat x = some (n, op) →
      let y (t : Nat) := op rd.ftz (roundOf w mode t) ((pairRead rd x.dst t).toNat % 2 ^ 32) ((a t).toNat % 2 ^ 32)
      (∀ r t, t < 128 → act t = true → sure t → w'.vlane r t = placed x.dst.toNat false r (y t).1 (w.vlane r t))
      ∧ (∀ r t, t < 128 → (act t = false ∨ r ≠ x.dst.toNat) → w'.vlane r t = w.vlane r t)
      ∧ (∃ fl : Flags, w'.fpmode = w.fpmode ||| fl.setWidth 64
          ∧ ((∀ t, t < 128 → act t = true → sure t) → fl = unionFlags act (fun t => (y t).2)))
      ∧ drew (fun t => t < 128 ∧ act t = true) n
      ∧ { w' with v := w.v, fpmode := w.fpmode, gen := w.gen } = w)
  ∧ (x.cls = 3 → w' = w.setK x.dst.toNat (pairMaskV x (rd.k k0 x.dst.toNat) am))

/-! ### Control and system words -/

/-- A class 4 word completes and moves its split itself, leaving the warp w. -/
def Moves (i : Instr) (f : RWord) (s : State) (sp : Split) (w : Warp) : Prop :=
  exec i s = .next (conclude s (slotCtx s f sp) f.h false true (.moved (s.setWarp s.issuer w)))

/-- The warp of a slot whose split sends its lanes to targets (R167). -/
def sends (s : State) (sp : Split) (l : List Target) : Warp :=
  { seen s sp with frontier := branch (seen s sp).frontier (s.warp s.issuer).cur l }

/-- The pair that a link value names (R174). -/
def linkPc (x : Word) : BitVec 32 := x.extractLsb' 0 32
def linkPrio (x : Word) : Byte := x.extractLsb' 32 8

/-- Does a target go where another split of S's frontier stands (R167 step 2)? -/
def joinsOne (others : List Split) (sp : Split) (t : Target) : Bool :=
  others.any (fun x => x.pc == t.pc && x.depth == t.depth && x.held == sp.held)
/-- The targets with lanes that form groups of their own, and the number of those groups (R167 steps 1 to 3). -/
def ownTargets (others : List Split) (sp : Split) (ts : List Target) : List Target :=
  ts.filter (fun t => t.mask != 0 && !joinsOne others sp t)
def ownGroups (l : List Target) : Nat := ((l.map (fun t => (t.pc, t.depth))).dedup).length
/-- The highest prio and the lanes of the targets that share t's pc and depth (R167 step 1). -/
def groupPrio (l : List Target) (t : Target) : Nat :=
  ((l.filter (fun u => u.pc = t.pc ∧ u.depth = t.depth)).map (fun u => u.prio.toNat)).foldl max 0
def groupMask (l : List Target) (p : Target → Bool) : Mask := (l.filter p).foldl (fun m t => m ||| t.mask) 0
/-- Does t's group rank before u's (R159)? -/
def groupBefore (l : List Target) (t u : Target) : Prop :=
  groupPrio l u < groupPrio l t ∨ (groupPrio l u = groupPrio l t ∧ (t.pc.toNat < u.pc.toNat ∨ (t.pc = u.pc ∧ u.depth.toNat < t.depth.toNat)))

/-- The warp of a slot with its own split changed. -/
def withSplit (s : State) (sp : Split) (g : Split → Split) : Warp :=
  { seen s sp with frontier := (seen s sp).frontier.modify (s.warp s.issuer).cur g }

/-- A word without a result completes with the warp w. -/
def Completes (i : Instr) (f : RWord) (s : State) (sp : Split) (ctl : Bool) (w : Warp) : Prop :=
  exec i s = .next (ended s f sp ctl w none)

/-- A TIMER set to fire when a clock has gone on by a count (R206). -/
def armed (clock after : Word) : Word :=
  if after = 0 then 0 else BitVec.ofNat 64 (2 ^ 63 + min (clock.toNat + after.toNat % 2 ^ 63) (2 ^ 63 - 1))

/-! ### Memory (R223 to R260) -/

/-- A translation unit's entry lets a core's access reach a line of the space, on a page that is no cast page (R253, R255). -/
def Granted (s : State) (core asid v : Nat) (need : Need) (e : TlbEntry) : Prop :=
  tlbFind s (core / 4) asid (v * 128) = some e
    ∧ pteAllows s asid e.pte need (pteFrame e.pte + v * 128 % 2 ^ e.shift) = true
    ∧ (need = .read ∨ pteD e.pte = true) ∧ pteCast e.pte = false

/-- The physical line of a line of a page. -/
def lineIn (e : TlbEntry) (v : Nat) : Nat := (pteFrame e.pte + v * 128 % 2 ^ e.shift) / 128

/-- When a load of some lanes' bytes issues at once: its warp has no acquire under way and nothing of its lines in the side log,
an acquire beyond the warp has no release to wait for, its bytes are aligned where they must be, and every line is granted. -/
structure LoadReady (s : State) (acc : List (Nat × Nat)) (n : Nat) (need : Need) (aligned acq : Bool) (scope : Nat) : Prop where
  acquired : acquirePending (s.core (coreOf s.issuer)) s.issuer = false
  logged : ∀ v ∈ pieceLines (pieces acc n), heldLine s s.issuer (s.group (s.warp s.issuer).grp).asid v = false
  ordered : acq = true → 1 ≤ scope → releasePending s s.issuer = false
  aligned : aligned = true → ∀ p ∈ acc, p.2 % n = 0
  granted : ∀ v ∈ pieceLines (pieces acc n), ∃ e, Granted s (coreOf s.issuer) (s.group (s.warp s.issuer).grp).asid v need e

/-- A load enters its core's list and awaits its data: what it is to read and where it is to place it; memory stays. -/
def EntersLoad (i : Instr) (f : RWord) (s : State) (sp : Split) (resetHang : Bool) (need : Need) (acc : List (Nat × Nat)) (n : Nat)
    (y : Option Bool) (p : Load → Prop) : Prop :=
  ∃ (s1 : State) (l : Load),
    exec i s = .next (conclude s (slotCtx s f sp) f.h resetHang false
      (.done (s1.setWarp s.issuer { seen s sp with pxi := 0, gather := none }) (y.map (.awaited s.nextId))))
    ∧ s1.warps = s.warps ∧ s1.phys = s.phys ∧ s1.ls = s.ls ∧ s1.vault = s.vault
    ∧ l ∈ (s1.core (coreOf s.issuer)).loads
    ∧ l.id = s.nextId ∧ l.warp = s.issuer ∧ l.pc = sp.pc ∧ l.asid = (s.group (s.warp s.issuer).grp).asid
    ∧ l.space = .virt ∧ l.addrs = acc ∧ l.size = n
    ∧ (∀ v ∈ pieceLines (pieces acc n), SMap.find s.l1 (l1Key (coreOf s.issuer) l.asid v) = none →
        windowOf s (l1Key (coreOf s.issuer) l.asid v) = none → ∀ e, Granted s (coreOf s.issuer) l.asid v need e →
        ∃ q ∈ l.todo, q.vline = v ∧ q.line = lineIn e v ∧ q.region = none)
    ∧ p l

/-- The number in n bytes of memory, the first the lowest (R225). -/
def little (m : Memory) (a n : Nat) : Nat := ((List.range n).map (fun i => (Memory.byte m (a + i)).toNat * 256 ^ i)).sum

/-- The lane whose byte a store instruction leaves at an address: the highest acting one that writes there (R232); `ea` gives
the lanes' addresses. -/
def writer (lanes : List Nat) (ea : Nat → Nat) (n a : Nat) : Option (Nat × Nat) :=
  ((lanes.reverse.map (fun t => ((List.range n).filter (fun i => byteAt (ea t) i = a)).map (fun i => (t, i)))).flatten).head?

/-- The entry of one line of a store instruction: the bytes of that line that its lanes write, and whose they are. -/
def IsEntry (x : Store) (v : Nat) (lanes : List Nat) (ea : Nat → Nat) (data : Nat → Word) (n : Nat) : Prop :=
  x.va = v * 128 ∧ ∀ j, j < 128 →
    match writer lanes ea n (v * 128 + j) with
    | some (t, i) => x.bmask.getLsbD j = true ∧ lineByte x.data j = (data t).extractLsb' (8 * i) 8
    | none => x.bmask.getLsbD j = false

/-- A store instruction is accepted: its entries wait to be performed, in order; memory stays until then. -/
def Accepted (i : Instr) (f : RWord) (s : State) (sp : Split) (need : Need) (p : List Store → Prop) : Prop :=
  let g := s.group (s.warp s.issuer).grp
  ∃ (s1 : State) (l : List Store),
    exec i s = .next (conclude s (slotCtx s f sp) f.h true false (.done (s1.setWarp s.issuer (seen s sp)) none))
    ∧ s1.warps = s.warps ∧ s1.phys = s.phys ∧ s1.ls = s.ls ∧ s1.vault = s.vault
    ∧ (s1.core (coreOf s.issuer)).stores = (s.core (coreOf s.issuer)).stores ++ l
    ∧ (∀ x ∈ l, s.nextId ≤ x.id ∧ x.warp = s.issuer ∧ x.asid = g.asid ∧ x.pc = sp.pc ∧ x.launch = g.launch ∧ x.exits = 0
        ∧ x.space = .virt ∧ x.cast = none
        ∧ ∀ e, Granted s (coreOf s.issuer) g.asid (x.va / 128) need e → x.line = lineIn e (x.va / 128))
    ∧ p l

/-- One entry for each of its lines. -/
def EntersStore (i : Instr) (f : RWord) (s : State) (sp : Split) (lanes : List Nat) (ea : Nat → Nat) (data : Nat → Word) (n : Nat)
    (need : Need) (p : Store → Prop) : Prop :=
  Accepted i f s sp need (fun l => l.map (fun x => x.va / 128) = pieceLines (pieces (lanes.map (fun t => (t, ea t))) n)
    ∧ ∀ x ∈ l, IsEntry x (x.va / 128) lanes ea data n ∧ p x)

/-- When a store instruction is accepted at once. -/
def StoreReady (s : State) (lanes : List Nat) (ea : Nat → Nat) (n : Nat) (need : Need) (aligned : Bool) : Prop :=
  (s.core (coreOf s.issuer)).sidelog.length ≤ 256
    ∧ LoadReady s (lanes.map (fun t => (t, ea t))) n need aligned false 0

/-- The acting lanes of a word, ascending. -/
def lanesIn (s : State) (f : RWord) (sp : Split) : List Nat := (List.range 128).filter (fun t => acts s f sp t)
/-- The bytes of a type of layout A. -/
def sizeA (f : RWord) : Nat := bits (f.mod 6 4) / 8
/-- The lanes' addresses in layout A (R228) and in layouts P and M (R229). -/
def eaA (s : State) (sp : Split) (f : RWord) (t : Nat) : Nat := eaAt (seen s sp) f (offsetA (seen s sp) f t)
def eaP (s : State) (sp : Split) (f : RWord) (n t : Nat) : Nat := eaAt (seen s sp) f (offsetP (seen s sp) f n t)

/-! ### Events of memory (R234, R243, R250, R287 to R303) -/

/-- The number that a lane's bytes make in a load that has read them. -/
def gotValue (l : Load) (a : Nat) : Nat := ((List.range l.size).map (fun i => (SMap.look 0 l.got (byteAt a i)).toNat * 256 ^ i)).sum

/-- A line's home serves a request for it at once: none of it has arrived in this cycle (R296), and its slice holds it or has a place
for it. -/
def HomeServes (s : State) (line : Nat) : Prop := (∀ x ∈ s.arrivals, x.1 ≠ line) ∧ sliceRoom s (homeDie line) line = true

/-- Nothing but its home holds a line of the device's memory: no agent shares or owns it, no request of it runs, no window of it
is open; and the home serves it at once. -/
def AtHome (s : State) (line : Nat) : Prop :=
  hostLine line = false ∧ s.dirAt line = {} ∧ (∀ x ∈ s.windows, x.line ≠ line) ∧ HomeServes s line

/-- The lines that hold the entries of a walk can be read as they stand: in no window, with no owner, in no block that a read reports
(R250, R254, R265). -/
def WalkCalm (s : State) (va asid : Nat) : Nat → Nat → Prop
  | 0, _ => True
  | n + 1, table =>
    let place := entryPlace va n table
    let line := place / 128
    let x := entryWord s place asid
    (∀ y ∈ s.windows, y.line ≠ line) ∧ ownerDie s line = none
      ∧ ((s.l2At (homeDie line) line).isSome = true ∨ hostLine line = true ∨ blockReports s line asid = false)
      ∧ (pteV x = true → pteLeaf x = false → WalkCalm s va asid n (pteFrame x))

/-- Byte j of a line, as its home holds it. -/
def homeByte (s : State) (line j : Nat) : Byte := lineByte (homeLine s line).1 j

/-- The next lanes of an atomic with return may be performed: no earlier access of their line is left, and a release has what it waits for
(R247, R248). -/
structure AtomicDue (s : State) (core ix k : Nat) (l : Load) (p : Part) : Prop where
  load : (s.core core).loads[ix]? = some l ∧ l.space = .virt ∧ l.form = .atomic
  part : l.todo[k]? = some p ∧ p.region = none ∧ p.vline < 2 ^ 73
  here : (s.core core).loads.find? (fun x => x.id == l.id) = some l ∧ l.todo.find? (fun q => q.vline == p.vline) = some p
  next : ∃ a, l.atoms.head? = some a ∧ a.addr / 128 = p.vline
  free : earlierOnLine s core l.warp (s.nameOf l.warp) l.id p.line .virt = false ∧ engineHolds s p.line l.id = false
  release : l.rep = true → releaseReady s l.warp l.id l.scope = true

/-- The load has its performed lanes' old values, and the lanes that follow are left. -/
def TookOld (t : State) (core : Nat) (l : Load) (olds : SMap Word) (bad : Option Nat) : Prop :=
  ∃ y ∈ (t.core core).loads, y.id = l.id ∧ y.atoms = l.atoms.drop (atomRun l.atoms).length ∧ y.bad = bad
    ∧ ∀ a ∈ atomRun l.atoms, ∀ i, i < 8 → SMap.look 0 y.got (a.lane * 16 + i) = (SMap.look 0 olds a.lane).extractLsb' (8 * i) 8

/-- No byte of memory changes but those of a line that a mask names. -/
def WroteAt (s t : State) (line : Nat) (m : Mask) (data : Line) : Prop :=
  ∀ l j, l < 2 ^ 45 → j < 128 → homeByte t l j = if l = line ∧ m.getLsbD j = true then lineByte data j else homeByte s l j

/-- A message of a kind is the first of its agent, line and direction (R295). -/
def Arrives (s : State) (ix : Nat) (m : Msg) (k : MsgKind) : Prop :=
  s.msgs[ix]? = some m ∧ m.kind = k
    ∧ ∀ x ∈ s.msgs.take ix, ¬(x.line = m.line ∧ x.agent = m.agent ∧ x.kind.toHome = k.toHome)

/-- The home answers a message: the event's next state has taken it out and holds one message more, of a kind, to an agent. -/
def Answers (i : Instr) (s : State) (ix : Nat) (k : MsgKind) (line agent : Nat) (p : State → Msg → Prop) : Prop :=
  ∃ (t : State) (r : Msg), exec i s = .next t ∧ t.msgs = s.msgs.eraseIdx ix ++ [r]
    ∧ r.kind = k ∧ r.line = line ∧ r.agent = agent ∧ p t r

/-! ### Maintenance (R210 to R214) -/

/-- A message between two dies and its answer: each die's time is then the greater of theirs (R288). -/
def Crossed (s t : State) (a b : Nat) : Prop :=
  { t with dies := s.dies } = s ∧ ∀ d, { t.die d with dt := (s.die d).dt } = s.die d
    ∧ (t.die d).dt = if d = a ∨ d = b then max (s.die a).dt (s.die b).dt else (s.die d).dt

/-- The state after reads that may have crossed to other dies: it differs in the dies' times alone, which have not fallen (R288). -/
def Learned (s t : State) : Prop :=
  { t with dies := s.dies } = s ∧ ∀ d, { t.die d with dt := (s.die d).dt } = s.die d ∧ (s.die d).dt ≤ (t.die d).dt

/-- A turn of CWB or CINV at line k of the n lines of its range: PXI counts the lines done, and the last line ends the instruction
with PXI = 0; p tells what the line's turn did. -/
def RangeTurn (i : Instr) (f : RWord) (s : State) (sp : Split) (kind n k : Nat) (p : State → Prop) : Prop :=
  ∃ t : State, t.warps = s.warps ∧ t.issuer = s.issuer ∧ p t
    ∧ (k + 1 < n → exec i s = .next (t.setWarp s.issuer { s.warp s.issuer with pxi := BitVec.ofNat 64 (kind * 2 ^ 60 + (k + 1)) }))
    ∧ (k + 1 = n → exec i s = .next (ended t f sp false { seen s sp with pxi := 0 } none))

/-- The lines that a range of `len` bytes from an address touches. -/
def linesOf (a len : Nat) : Nat := if len = 0 then 0 else (a + len - 1) / 128 - a / 128 + 1

/-- A line's modified copy is in its memory, and the copy that stays is clean; other lines' memory stays. -/
def Cleaned (s t : State) (line : Nat) : Prop :=
  (∀ l, s.l2At (homeDie line) line = some l → l.dirty = true → rawLine t line = l.data)
    ∧ (∀ n, n ≠ line → rawLine t n = rawLine s n)

/-! ### Engines (R316 to R346) -/

/-- The scoreboard's entry of a range, in granules (R323). -/
def granules (lo n : Nat) (write : Bool) : List (Nat × Nat × Bool) := if n = 0 then [] else [(lo / 128, (lo + n - 1) / 128, write)]

/-- A work command issues: it takes the lowest free slot, its token is pending, and its ranges enter the scoreboard unless it is
held; the memories stay, and the hang detector begins anew (R171), but for LAUNCH. -/
def TakesSlot (i : Instr) (f : RWord) (s : State) (sp : Split) (held : Bool) (entries : List (Nat × Nat × Bool)) (p : State → Cmd → Prop) :
    Prop :=
  let w := seen s sp
  let core := s.issuer / 32
  let k := s.core core
  let token := f.dst.toNat - 0x100
  (k.cmds.filter (fun x => x.2.grp == w.grp)).length < 16 → (held = false → k.board.length + entries.length ≤ 32) →
  ∀ slot, slot < 32 → SMap.find k.cmds slot = none → (∀ n, n < slot → SMap.find k.cmds n ≠ none) →
  ∃ (t : State) (m : Cmd) (added : List Range),
    exec i s = .next (conclude t (slotCtx t f sp) f.h (m.kind != .launch) false
        (.done (t.setWarp s.issuer { w with tokPend := w.tokPend ||| (1#64 <<< token) }) none))
    ∧ t.warps = s.warps ∧ t.issuer = s.issuer ∧ t.phys = s.phys ∧ t.ls = s.ls ∧ t.vault = s.vault
    ∧ (∀ n, SMap.find (t.core core).cmds n = if n = slot then some m else SMap.find k.cmds n)
    ∧ (t.core core).board = k.board ++ added ∧ (∀ r ∈ added, r.cmd = slot ∧ r.seq = m.seq)
    ∧ added.map (fun r => (r.lo, r.hi, r.write)) = (if held then [] else entries)
    ∧ m.warp = s.issuer ∧ m.grp = w.grp ∧ m.token = token ∧ m.scope = f.scope ∧ m.held = held ∧ m.done = 0 ∧ m.finished = false
    ∧ m.err = none ∧ m.req = none ∧ m.patch = none ∧ p t m

/-- A command ends: its slot and its entries are free, and its token holds x, tagged when x tells an error (R319 to R321). -/
def EndsCommand (s : State) (core n : Nat) (m : Cmd) (x : Word) (q : State → Prop) : Prop :=
  ∃ t, exec (.engineCommandComplete core n) s = .next t ∧ SMap.find (t.core core).cmds n = none
    ∧ (∀ r ∈ (t.core core).board, r.cmd ≠ n)
    ∧ (t.warp m.warp).s m.token = x ∧ (t.warp m.warp).tokPend.getLsbD m.token = false
    ∧ (t.warp m.warp).tokTag.getLsbD m.token = x.getLsbD 63 ∧ t.phys = s.phys ∧ t.vault = s.vault ∧ q t

/-- A command of a resident warp whose group goes on. -/
def Live (s : State) (m : Cmd) : Prop :=
  (∃ w, SMap.find s.warps m.warp = some w ∧ w.frontier ≠ []) ∧ (s.group m.grp).faulted = false ∧ m.warp ∈ (s.group m.grp).warps
    ∧ m.token < 64

/-- The byte at an address of one of CPY's spaces: the group's local store, a vault, or virtual memory, at its line's home. -/
def cellAt (s : State) (core : Nat) (g : Group) (x : Space) (a : Nat) : Byte :=
  match x with
  | .ls => Memory.byte s.ls (core * 2 ^ 20 + g.lsBase + a)
  | .vault => Memory.byte s.vault a
  | .virt => match tlbFind s (core / 4) g.asid (a / 128 * 128) with
    | some e => homeByte s (lineIn e (a / 128)) (a % 128)
    | none => 0

/-- Bytes of a space that an engine reaches at once: those of virtual memory on granted lines that are at home. -/
def Reaches (s : State) (core : Nat) (g : Group) (x : Space) (a n : Nat) (need : Need) : Prop :=
  x = .virt → a + n ≤ 2 ^ 80 ∧ (∀ e ∈ SMap.look [] s.tlb (core / 4), 7 ≤ e.shift)
    ∧ ∀ v, a / 128 ≤ v → v ≤ (a + n - 1) / 128 → ∃ e, Granted s core g.asid v need e ∧ AtHome s (lineIn e v)

/-! ### Tasks (R349 to R382) -/

/-- The byte that some chunks leave at a place, a later chunk over an earlier one; 0 where none reaches. -/
def imageOf (l : List (Nat × List Byte)) (a : Nat) : Byte :=
  l.foldl (fun acc c => if c.1 ≤ a ∧ a < c.1 + c.2.length then (c.2[a - c.1]?).getD 0 else acc) 0

/-- Different lines of a range of virtual memory lie on different lines of memory. -/
def Apart (s : State) (core asid a n : Nat) : Prop :=
  ∀ u v e x, a / 128 ≤ u → u ≤ (a + n - 1) / 128 → a / 128 ≤ v → v ≤ (a + n - 1) / 128 →
    tlbFind s (core / 4) asid (u * 128) = some e → tlbFind s (core / 4) asid (v * 128) = some x → lineIn e u = lineIn x v → u = v

/-- No line of a range of virtual memory holds poison, or a block that the key of the address space does not open. -/
def Sound (s : State) (core asid a n : Nat) : Prop :=
  ∀ v e, a / 128 ≤ v → v ≤ (a + n - 1) / 128 → tlbFind s (core / 4) asid (v * 128) = some e →
    (homeLine s (lineIn e v) asid).2 = false

/-- The nodes that a node releases when it completes, for a condition word c (R378); none where it halts the graph. -/
def releases (x : Node) (c : Nat) : Option (List Nat) :=
  if x.kind = 4 then (x.succ[min c (x.succ.length - 1)]?).map (fun m => [m])
  else if x.kind = 5 then some (if c = 0 then x.succ.tail else x.succ.take 1)
  else some x.succ

/-- A node has completed: its counter is reloaded, and each released node's counter has fallen by 1, ready at 0; what is written to a
counter is written to its shadow copy (R356). -/
def NodeDone (s t : State) (die node : Nat) (x : Node) (out : List Nat) : Prop :=
  t.node die node = { x.write x.init with running := false, launch := none, ready := false, held := false }
    ∧ ∀ m, m ≠ node → t.node die m =
        let y := s.node die m
        if m ∈ out ∧ y.kind ≠ 0 ∧ y.count ≠ 0 then { y.write (y.count - 1) with ready := y.ready || y.count == 1 } else y

/-! ### The matrix unit (R383 to R412) -/

/-- When a record may be used (R388 to R390, R392): `tile` tells that a tile record may stand there, `wide` that FP32 and A96 may;
n steps are served. -/
structure RecordOk (g : Group) (r : MRec) (tile wide : Bool) (n : Nat) : Prop where
  codes : r.fmt < 12 ∧ r.space < 3 ∧ (r.fmt = 8 → r.pcode ≠ 1) ∧ (r.fmt ≠ 8 → r.pcode = 0)
  inTile : r.space = 2 → tile = true ∧ (r.fmt = 0 ∨ r.fmt = 9) ∧ r.packed = false ∧ r.scaled = false ∧ r.stride = 0 ∧ r.sofs = 0
    ∧ r.bstep = 0 ∧ r.sstep = 0 ∧ r.base < 4
  inMemory : r.space ≠ 2 → r.fmt ≠ 9 ∧ (10 ≤ r.fmt → wide = true) ∧ (r.space = 0 → r.base < 2 ^ 20)
    ∧ (r.scaled = true → 2 ≤ r.fmt ∧ r.fmt ≤ 8)
  lines : r.space ≠ 2 → r.minor * r.width % 8 = 0 ∧ (r.block ≠ 0 → r.minor % r.block = 0)
    ∧ (r.packed = true → packedOk g r n = true) ∧ (r.packed = false → r.stride = 0 ∨ r.len ≤ r.stride)
  ranges : ∀ st, st < n → ∀ x ∈ r.spans g st,
    if r.space = 0 then 0 ≤ x.1 ∧ x.1 + x.2 ≤ (g.lsSize : Int) else vaultRefuses g.grant (x.1 % 2 ^ 80).toNat x.2 = false

/-- What a product asks of its two records together (R390, R394). -/
structure PairOk (a b : MRec) : Prop where
  inner : a.cols = b.rows ∧ (a.fmt = 8 ↔ b.fmt = 8)
  outer : a.rows ≤ 64 ∧ b.cols ≤ 64
  tile : 64 < a.cols → a.space ≠ 2 ∧ b.space ≠ 2
  scales : (a.block ≠ 0 → a.col = false) ∧ (b.block ≠ 0 → b.col = true)

/-- An operation enters the unit's queue, its tiles claimed for its group: a claim clears a tile that nobody owned; a held one holds its
warp, with a value of PXI. Memory and registers stay. -/
def EntersMatrix (i : Instr) (f : RWord) (s : State) (sp : Split) (held : Option Word) (op : MatOp) (tiles : List Nat) : Prop :=
  let core := s.issuer / 32
  let k := s.core core
  let g := (seen s sp).grp
  (∀ n ∈ tiles, (k.tile n).owner = none ∨ (k.tile n).owner = some g) → acquirePending k s.issuer = false →
  ∃ (t : State) (j : MatJob),
    exec i s = .next (match held with
      | some x => t.setWarp s.issuer { s.warp s.issuer with block := .matrix, pxi := x }
      | none => ended t f sp false (seen s sp) none)
    ∧ t.warps = s.warps ∧ t.issuer = s.issuer ∧ t.groups = s.groups ∧ t.phys = s.phys ∧ t.ls = s.ls ∧ t.vault = s.vault
    ∧ (t.core core).mq = k.mq ++ [j] ∧ j.op = op ∧ j.warp = s.issuer ∧ j.grp = g ∧ j.pc = sp.pc
    ∧ (∀ n, (t.core core).tile n = if n ∈ tiles ∧ (k.tile n).owner = none then { owner := some g } else k.tile n)

/-- A field of PXI from which an instruction may go on: 0, or its own kind with a progress that it accepts (R408, R409). -/
def Resumes (pxi : Word) (kind : Nat) (ok : Nat → Prop) : Prop :=
  pxi = 0 ∨ ∃ p, p < 2 ^ 16 ∧ ok p ∧ pxi = BitVec.ofNat 64 (kind * 2 ^ 60 + p)

/-- PXI of an instruction of a kind as it starts: progress 0, or the progress that it goes on from (R408). -/
def pxiAtStart (pxi : Word) (kind : Nat) : Word := if pxi = 0 then BitVec.ofNat 64 (kind * 2 ^ 60) else pxi

/-- A tile element as an operand of a pass: hi, or the whole value, in part 0, lo in part 1 (R404). -/
def feed (ff : Bool) (part x : Nat) : FV := if part = 0 then feedbackHi ff x else feedbackLo x
/-- The passes of a product, as parts of the left and of the right operand (R399). -/
def passList (a b : Bool) : List (Nat × Nat) :=
  if a && b then [(0, 0), (0, 1), (1, 0)] else if a then [(0, 0), (1, 0)] else if b then [(0, 0), (0, 1)] else [(0, 0)]
/-- An accumulator element after a product over K inner places, in ascending groups of gs, pass after pass (R103, R399). -/
def sumOf (gs K : Nat) (passes : List (Nat × Nat)) (a b : Nat → Nat → FV) (acc : Nat) : Nat :=
  passes.foldl (fun acc p => (List.range ((K + gs - 1) / gs)).foldl (fun acc q =>
    accGroup acc ((List.range (min gs (K - gs * q))).map (fun r => (a p.1 (gs * q + r)).times (b p.2 (gs * q + r))))) acc) acc

/-- Element (i, j) of a record's operand at a step (R389, R394, R404), and whether it is poisoned (R395). -/
def elemOf (s : State) (core : Nat) (g : Group) (r : MRec) (st part i j : Nat) : FV :=
  let a := if r.col then j else i
  let b := if r.col then i else j
  if r.space = 2 then feed (r.fmt == 9) part (((s.core core).tile (r.base % 4)).at a b)
  else
    let d := (r.line s core g st a).1
    r.value d (natOfBytes d) (r.scales s core g st a).1 b
def elemPoison (s : State) (core : Nat) (g : Group) (r : MRec) (st i j : Nat) : Bool :=
  let a := if r.col then j else i
  let b := if r.col then i else j
  if r.space = 2 then ((s.core core).tile (r.base % 4)).poison.getLsbD a
  else r.elemBad (r.line s core g st a).2 (r.scales s core g st a).2 b
def rowPoison (s : State) (core : Nat) (g : Group) (r : MRec) (st i : Nat) : Bool :=
  (List.range r.cols).any (fun j => elemPoison s core g r st i j)
/-- The element that one step of a product gives, and the poison of its row. -/
def productOf (s : State) (core : Nat) (g : Group) (a b : MRec) (st i j acc : Nat) : Nat :=
  sumOf (min (groupSize a.fmt) (groupSize b.fmt)) (min a.cols b.rows) (passList (a.space == 2 && a.fmt == 9) (b.space == 2 && b.fmt == 9))
    (fun part k => elemOf s core g a st part i k) (fun part k => elemOf s core g b st part k j) acc
def productPoison (s : State) (core : Nat) (g : Group) (a b : MRec) (st i : Nat) : Bool :=
  rowPoison s core g a st i || (List.range b.rows).any (fun k => rowPoison s core g b st k)

/-- One tile of a core has the elements and the row poison given; its owner and status stay, and so do the other tiles. -/
def TileBecomes (k k2 : Core) (c : Nat) (val : Nat → Nat → Nat) (bad : Nat → Bool) : Prop :=
  (∀ i j, i < 64 → j < 64 → (k2.tile c).at i j = val i j % 2 ^ 96) ∧ (∀ i, i < 64 → (k2.tile c).poison.getLsbD i = bad i)
    ∧ (k2.tile c).owner = (k.tile c).owner ∧ (k2.tile c).status = (k.tile c).status ∧ ∀ n, n ≠ c → k2.tile n = k.tile n

/-- The unit performs its oldest operation, or a step of it; of the state only its core's tiles and queue change, and the dies' times
where it reaches a vault of another die, before `ends` gives the warp its part, and before a group that has ended leaves. -/
def PerformsMatrix (s : State) (core : Nat) (j : MatJob) (leaves : Bool) (ends : State → State) (p : Core → Prop) : Prop :=
  ∃ t : State, exec (.matrixOpPerform core) s = .next (tryRelease (ends t) j.grp)
    ∧ t = { crossRanges s core j with cores := t.cores }
    ∧ (∀ c, c ≠ core → t.core c = s.core c)
    ∧ t.core core = { s.core core with
        mq := if leaves then (s.core core).mq.filter (fun x => x.id != j.id) else (s.core core).mq, tiles := (t.core core).tiles }
    ∧ p (t.core core)

/-- A held instruction completes, its warp changed by g. -/
def heldEnds (wp : Nat) (sp : Split) (g : Warp → Warp) (y : Option Latch) (t : State) : State :=
  let w : Warp := { t.warp wp with block := .free }
  conclude (t.setWarp wp w) { wp := wp, i := w.cur, sp := sp, act := sp.mask } false false false
    (.done ((t.setWarp wp w).setWarp wp (g (slotWarp w w.cur sp))) y)
/-- A held instruction traps, its progress in PXI (R412). -/
def heldTraps (wp : Nat) (sp : Split) (cause : Cause) (pxi info : Word) (t : State) : State :=
  let w : Warp := { t.warp wp with block := .free }
  conclude (t.setWarp wp { w with pxi := pxi }) { wp := wp, i := w.cur, sp := sp, act := sp.mask } false false false
    (.trap cause info sp.mask)
/-- A held instruction goes on, its progress in PXI. -/
def heldGoes (wp : Nat) (pxi : Nat) (t : State) : State := t.setWarp wp { t.warp wp with pxi := BitVec.ofNat 64 pxi }

/-- R406's reduction of FP32 codes in row-major order: kinds 0 and 1 the Frobenius norm, 2 the greatest magnitude. -/
def normOf (kind rows cols : Nat) (e : Nat → Nat → Nat) : Nat :=
  let l := ((List.range rows).map (fun i => (List.range cols).map (e i))).flatten
  if kind = 2 then
    l.foldl (fun s x => if (f32.read s).isNan then s else if (f32.read x).isNan then x % 2 ^ 31 else max s (x % 2 ^ 31)) 0
  else (f32.sqrt rne false (l.foldl (fun s x => (f32.fma rne false x x s).1) 0)).1
/-- An element less the identity's. -/
def lessOne (v : FV) (diagonal : Bool) : FV := if diagonal then v.plus (.fin true 1 0) else v

/-! ### Cast regions (R419 to R446) -/

/-- A warp may read bytes of virtual memory for itself at once (R256): its page is granted, nothing of its lines is on the way, no
earlier command of an engine is still to write them, and no line holds poison. -/
def Readable (s : State) (core : Nat) (g : Group) (va n : Nat) : Prop :=
  s.msgs = [] ∧ acquirePending (s.core core) s.issuer = false ∧ Reaches s core g .virt va n .read ∧ Sound s core g.asid va n
    ∧ ∀ v, va / 128 ≤ v → v ≤ (va + n - 1) / 128 → heldLine s s.issuer g.asid v = false
        ∧ ∀ e, tlbFind s (core / 4) g.asid (v * 128) = some e → engineHolds s (lineIn e v) s.nextId = false

/-- A class 11 command's token is written to its warp, if that is resident (R319, R438). -/
def TokenGets (s t : State) (k : RegTok) (x : Word) : Prop :=
  ∀ gk g wp, findGroup s k.launch k.gid = some (gk, g) → g.warps[k.index]? = some wp → SMap.has s.warps wp = true → k.token < 64 →
    (t.warp wp).s k.token = x ∧ (t.warp wp).tokPend.getLsbD k.token = false

/-- The warps that wait for a region go on; `freed` fails their accesses (R465). -/
def Wakes (s t : State) (n : Nat) (freed : Bool) : Prop :=
  ∀ wp w pages, SMap.find s.warps wp = some w → w.block = .region n pages →
    (t.warp wp).block = .free ∧ (t.warp wp).verdict = w.verdict ++ (if freed then pages.map (fun x => (x, true)) else [])

/-- The key of a slot of a table: 0 where it is free (R425). -/
def slotKey (s : State) (r : Region) (table slot : Nat) : Nat := field (areaRead s r (r.slotOff table slot) 8).1 0 8
/-- A table as the region home keeps it: every key is found in its slot, and the count is that of the keys. -/
def TableSound (s : State) (r : Region) (table : Nat) : Prop :=
  (∀ slot, slot < r.slots → slotKey s r table slot ≠ 0 → slotKey s r table slot < 2 ^ 64 ∧
      (probe s r table (slotKey s r table slot - 1)).found = true ∧ (probe s r table (slotKey s r table slot - 1)).slot = slot)
    ∧ flashCount s r table = (List.range r.slots).countP (fun slot => slotKey s r table slot != 0) ∧ flashCount s r table ≤ r.cap

/-- A region whose flash list lies in a vault, with its reference copy at home and sound: the engine works on it alone. -/
def Quiet (s : State) (r : Region) : Prop :=
  r.flashVault = true ∧ 1 ≤ r.cap ∧ r.cap ≤ 2 ^ 24 ∧ r.efmt ≤ 2 ∧ r.size ≤ 2 ^ 48 ∧ r.refPa % r.elem = 0 ∧ r.base % r.elem = 0
    ∧ regionBusy s r = none ∧ s.msgs = []
    ∧ ∀ off, off < r.size → AtHome s ((r.refPa + off) / 128) ∧ (homeLine s ((r.refPa + off) / 128) r.asid).2 = false
/-- Byte `off` of a reference copy, and the reference value of a point (R428). -/
def refByte (s : State) (r : Region) (off : Nat) : Byte := homeByte s ((r.refPa + off) / 128) ((r.refPa + off) % 128)
def refValue (s : State) (r : Region) (i : Nat) : Nat :=
  ((List.range r.elem).map (fun j => (refByte s r (r.elem * i + j)).toNat * 256 ^ j)).sum
/-- A point that the mould misses by more than ε (R432). -/
def misses (s : State) (r : Region) (mould : List Byte) (i : Nat) : Bool := !r.within (r.valueAt mould i) (refValue s r i)

/-- Table entries as a search finds them: the same entry, or none. -/
def SameEntry (s t : State) (r : Region) (table i : Nat) : Prop :=
  (probe t r table i).found = (probe s r table i).found ∧ (probe t r table i).value = (probe s r table i).value
    ∧ (probe t r table i).pin = (probe s r table i).pin

end Sys2Proof.Claims
end

