-- ==== Sys2Proof/Certificates/Slice0/Obligations.lean ====
section
/-! DEFINITION. The statements about the machine that are to be proved. `Issues` says when a word issues, `ended` is the
state after a word that completes: the warp it leaves, its latch, and the slot's end. -/

open Sys2Proof Sys2Proof.Machine Sys2Proof.Claims

/-! ### Class 0 (R111 to R127) -/

/-- R116 to R118: what each two-source integer form of class 0, and each immediate form, writes to its destination and to
y0.
R116, R119: the one-source, field, comparison and selection forms of class 0, and the constants. That SSEL tests C as a 64-bit value is
the model's reading (log 133). -/
def Obligations.ScalarIntegerResults : Prop := (
  (∀ p ∈ scalarForms, ∀ (f : RWord) (s : State) (sp : Split), Issues shS3 f false [] s sp →
    GivesS (p.1 f) f s sp (put f.itype (p.2 f.itype ((seen s sp).uni f.a) ((seen s sp).uni f.b))))
  ∧ (∀ p ∈ scalarImmForms, ∀ (f : IWord) (s : State) (sp : Split), Issues shSimm (immR f) false [] s sp →
    GivesS (p.1 f) (immR f) s sp (put 0 (p.2 0 ((seen s sp).uni f.a) (f.imm.signExtend 64))))) ∧ (
  ∀ (f : RWord) (g : IWord) (s : State) (sp : Split),
    let a := (seen s sp).uni f.a
    let b := (seen s sp).uni f.b
    let c := (seen s sp).uni f.c
    let t := f.itype
    (Issues shS2 f false [] s sp →
      GivesS (.smov f) f s sp (put t (val t a))
      ∧ GivesS (.spopc f) f s sp (BitVec.ofNat 64 (ones t a))
      ∧ GivesS (.sclz f) f s sp (BitVec.ofNat 64 (leadingZeros t a)))
    ∧ (Issues shSbf f false [] s sp → GivesS (.sbfe f) f s sp (put t (bfeV t a b c)))
    ∧ (Issues shSbfi f true [] s sp → GivesS (.sbfi f) f s sp (put t (bfiV t ((seen s sp).uni f.dst) a b c)))
    ∧ (Issues (shScmp f) f false [] s sp → GivesS (.scmp f) f s sp (flag (holds f.cond (val t a) (val t b))))
    ∧ (Issues shSsel f false [] s sp → GivesS (.ssel f) f s sp (if c = 0 then b else a))
    ∧ (Issues shSimm (immR g) false [] s sp →
      GivesS (.scmpImm g) (immR g) s sp (flag (holds 0 (val 0 ((seen s sp).uni g.a)) (val 0 (g.imm.setWidth 64)))))
    ∧ (Issues shSli (immR g) false [] s sp → GivesS (.sli g) (immR g) s sp (g.imm.signExtend 64))
    ∧ (Issues shSlih (immR g) true [] s sp →
      GivesS (.slih g) (immR g) s sp (g.imm ++ ((seen s sp).uni g.dst).extractLsb' 0 32)))

/-- R120 to R123: the scalar float forms and SCVT round as the formats' operations do, raise their flags, and draw once
in `.rs`.
R122: SFCMP writes 1 when its condition holds and 0 otherwise, by the table of the predicates, with its flags. -/
def Obligations.ScalarFloatResults : Prop :=
  ∀ (f : RWord) (s : State) (sp : Split),
    let w := seen s sp
    let F := ftypeS f.vtype
    let r := roundOf w f.rnd 128 0
    (Issues (shSf2 f) f false [] s sp →
      GivesF (.sfadd f) f s sp f.rnd (F.add r w.ftz (w.uniF F f.a) (w.uniF F f.b))
      ∧ GivesF (.sfmul f) f s sp f.rnd (F.mul r w.ftz (w.uniF F f.a) (w.uniF F f.b)))
    ∧ (Issues (shSf3 f) f false [] s sp →
      GivesF (.sffma f) f s sp f.rnd (F.fma r w.ftz (w.uniF F f.a) (w.uniF F f.b) (w.uniF F f.c)))
    ∧ (Issues (shSfcmp f) f false [] s sp →
      let read (c : BitVec 9) : Nat := if w.ftz then flushed F (w.uniF F c) else w.uniF F c
      ∃ (p : Bool) (fl : Flags), FcmpTable F f.fcond (read f.a) (read f.b) p fl ∧ GivesF (.sfcmp f) f s sp 0 ((flag p).toNat, fl))
    ∧ (Issues (shScvt f) f false [] s sp →
      (∀ G H : Fmt, ctypeF (f.mod 5 3) = some G → ctypeF (f.mod 8 6) = some H →
        GivesF (.scvt f) f s sp f.rnd (H.convert G r w.ftz (w.uniF H f.a)))
      ∧ (∀ G : Fmt, ctypeF (f.mod 5 3) = some G → f.mod 8 6 < 4 →
        GivesF (.scvt f) f s sp f.rnd (G.ofInt r w.ftz (val (ctypeI (f.mod 8 6)) (w.uni f.a))))
      ∧ (∀ H : Fmt, f.mod 5 3 < 4 → ctypeF (f.mod 8 6) = some H →
        let t := ctypeI (f.mod 5 3)
        let x := H.toInt r w.ftz (signed t) (bits t) (w.uniF H f.a)
        GivesF (.scvt f) f s sp f.rnd ((put t x.1).toNat, x.2))
      ∧ (f.mod 5 3 < 4 → f.mod 8 6 < 4 →
        GivesS (.scvt f) f s sp (put (ctypeI (f.mod 5 3)) (val (ctypeI (f.mod 8 6)) (w.uni f.a)))))

/-- R124: the address forms, modulo 2^80.
R127: the mask forms, bit by bit; the masks that KPOPC and KFIRST count and search. -/
def Obligations.AddressAndMaskResults : Prop := (
  ∀ (f : RWord) (g : IWord) (s : State) (sp : Split),
    let w := seen s sp
    (Issues shAadd f false [] s sp →
      GivesA (.aadd f) f s sp (BitVec.ofInt 80 ((w.areg f.a).toNat + (w.uni f.b).toInt)))
    ∧ (Issues shAaddi (immR g) false [] s sp →
      GivesA (.aaddi g) (immR g) s sp (BitVec.ofInt 80 ((w.areg g.a).toNat + g.imm.toInt)))
    ∧ (Issues shAmov f false [] s sp → GivesA (.amov f) f s sp (w.areg f.a))
    ∧ (Issues shAjoin f false [] s sp →
      GivesA (.ajoin f) f s sp (BitVec.ofNat 80 ((w.uni f.b).toNat % 2 ^ 16 * 2 ^ 64 + (w.uni f.a).toNat)))
    ∧ (Issues shAsplit f false [] s sp →
      GivesS (.asplit f) f s sp
        (BitVec.ofNat 64 (if f.mod 0 0 = 0 then (w.areg f.a).toNat % 2 ^ 64 else (w.areg f.a).toNat / 2 ^ 64)))
    ∧ (Issues (shAcmp f) f false [] s sp →
      GivesS (.acmp f) f s sp (flag (holds f.cond (w.areg f.a).toNat (w.areg f.b).toNat)))) ∧ (
  ∀ (f : RWord) (s : State) (sp : Split),
    let w := seen s sp
    let a := w.k sp.mask f.a.toNat
    let b := w.k sp.mask f.b.toNat
    let gives (i : Instr) (p : Nat → Bool) : Prop := ∃ m : Mask, (∀ t, t < 128 → m.getLsbD t = p t) ∧ GivesK i f s sp m
    (Issues shK3 f false [] s sp →
      gives (.kand f) (fun t => a.getLsbD t && b.getLsbD t)
      ∧ gives (.kor f) (fun t => a.getLsbD t || b.getLsbD t)
      ∧ gives (.kxor f) (fun t => a.getLsbD t != b.getLsbD t)
      ∧ gives (.kandn f) (fun t => a.getLsbD t && !b.getLsbD t))
    ∧ (Issues shK2 f false [] s sp →
      gives (.knot f) (fun t => !a.getLsbD t) ∧ gives (.kmov f) (fun t => a.getLsbD t))
    ∧ (Issues shKset f false [] s sp →
      gives (.kset f) (fun t => if t < 64 then (w.uni f.a).getLsbD t else (w.uni f.b).getLsbD (t - 64)))
    ∧ (Issues shKget f false [] s sp → GivesS (.kget f) f s sp (a.extractLsb' (if f.mod 0 0 = 0 then 0 else 64) 64))
    ∧ (Issues shKcount f false [] s sp →
      GivesS (.kpopc f) f s sp (BitVec.ofNat 64 ((List.range 128).countP (fun t => a.getLsbD t)))
      ∧ ∃ n : Nat, GivesS (.kfirst f) f s sp (BitVec.ofNat 64 n)
        ∧ (∀ t, t < n → a.getLsbD t = false) ∧ n ≤ 128 ∧ (n < 128 → a.getLsbD n = true)))

/-! ### Classes 1 to 3 (R130 to R156) -/

/-- R136, R137: what the two-source integer forms of class 1, and the immediate forms, write to each acting lane; VADD and
VSUB clamp with the saturation bit.
R137: the other integer forms of class 1.
R138, R143: the comparisons write all 128 bits of a k register; FCMP raises its lanes' flags. -/
def Obligations.VectorIntegerResults : Prop := (
  (∀ p ∈ vectorForms, ∀ (f : RWord) (s : State) (sp : Split), Issues (shV3 f) f false [] s sp →
    GivesVI (p.1 f) f s sp (6 ≤ f.itype) (fun t => put f.itype
      (p.2 f.itype ((seen s sp).vsrc (6 ≤ f.itype) f.a t) ((seen s sp).vsrc (6 ≤ f.itype) f.b t))))
  ∧ (∀ (f : RWord) (s : State) (sp : Split), Issues (shV3sat f) f false [] s sp →
    let a (t : Nat) : Int := val f.itype ((seen s sp).vsrc (6 ≤ f.itype) f.a t)
    let b (t : Nat) : Int := val f.itype ((seen s sp).vsrc (6 ≤ f.itype) f.b t)
    let fit (z : Int) : Word := put f.itype (if f.m.getLsbD 7 then clamp f.itype z else z)
    GivesVI (.vadd f) f s sp (6 ≤ f.itype) (fun t => fit (a t + b t))
    ∧ GivesVI (.vsub f) f s sp (6 ≤ f.itype) (fun t => fit (a t - b t)))
  ∧ (∀ p ∈ vectorImmForms, ∀ (f : IWord) (s : State) (sp : Split), Issues shVimm (immR f) false [] s sp →
    GivesVI (p.1 f) (immR f) s sp false (fun t => put 0 (p.2 0 ((seen s sp).vsrc false f.a t) (f.imm.signExtend 64))))) ∧ (
  ∀ (f : RWord) (g : IWord) (s : State) (sp : Split),
    let w := seen s sp
    let t := f.itype
    let wide : Bool := 6 ≤ t
    let a (n : Nat) : Word := w.vsrc wide f.a n
    let b (n : Nat) : Word := w.vsrc wide f.b n
    let c (n : Nat) : Word := w.vsrc wide f.c n
    let fit (z : Int) : Word := put t (if f.m.getLsbD 7 then clamp t z else z)
    (Issues (shV4 f) f false [] s sp →
      GivesVI (.vmad f) f s sp wide (fun n => put t (val t (a n) * val t (b n) + val t (c n)))
      ∧ GivesVI (.vbfe f) f s sp wide (fun n => put t (bfeV t (a n) (b n) (c n))))
    ∧ (Issues (shVbfi f) f true [] s sp →
      GivesVI (.vbfi f) f s sp wide (fun n => put t (bfiV t (w.vsrc wide f.dst n) (a n) (b n) (c n))))
    ∧ (Issues (shV2sat f) f false [] s sp →
      GivesVI (.vabs f) f s sp wide (fun n => fit |val t (a n)|) ∧ GivesVI (.vneg f) f s sp wide (fun n => fit (-val t (a n))))
    ∧ (Issues (shV2 f) f false [] s sp →
      GivesVI (.vnot f) f s sp wide (fun n => put t (-1 - val t (a n)))
      ∧ GivesVI (.vmov f) f s sp wide (fun n => put t (val t (a n)))
      ∧ GivesVI (.vpopc f) f s sp wide (fun n => BitVec.ofNat 64 (ones t (a n)))
      ∧ GivesVI (.vclz f) f s sp wide (fun n => BitVec.ofNat 64 (leadingZeros t (a n))))
    ∧ (Issues shVlane f false [] s sp →
      GivesVI (.vlane f) f s sp false (fun n => BitVec.ofNat 64 n + w.vsrc false f.a n))
    ∧ (Issues shVsel f false [] s sp →
      GivesVI (.vsel f) f s sp false (fun n =>
        if (w.k sp.mask f.c.toNat).getLsbD n then w.vsrc false f.a n else w.vsrc false f.b n))
    ∧ (Issues shVmovImm (immR g) false [] s sp → GivesVI (.vmovImm g) (immR g) s sp false (fun _ => g.imm.setWidth 64))) ∧ (
  ∀ (f : RWord) (g : IWord) (s : State) (sp : Split),
    let w := seen s sp
    let F := ftypeV f.vtype
    (Issues (shVcmp f) f false [] s sp →
      GivesM (.vcmp f) f s sp (fun t =>
        (holds f.cond (val f.itype (w.vsrc (6 ≤ f.itype) f.a t)) (val f.itype (w.vsrc (6 ≤ f.itype) f.b t)), 0)))
    ∧ (Issues (shFcmp f) f false [] s sp →
      GivesM (.fcmp f) f s sp (fun t => F.compare w.ftz f.fcond (w.vsrcF F f.a t) (w.vsrcF F f.b t)))
    ∧ (Issues shVcmpImm (immR g) false [] s sp →
      GivesM (.vcmpImm g) (immR g) s sp (fun t => (holds 0 (val 0 (w.vsrc false g.a t)) (val 0 (g.imm.setWidth 64)), 0))
      ∧ GivesM (.fcmpImm g) (immR g) s sp (fun t => f32.compare w.ftz 0 (w.vsrcF f32 g.a t) g.imm.toNat)))

/-- R139 to R142: the vector float forms: each acting lane's result is the format's operation, rounded once in the word's
mode, with its flags and one draw in `.rs`.
R142: FMIN and FMAX do not round; FABS and FNEG clear or invert the sign bit only, and set no flag. -/
def Obligations.VectorFloatResults : Prop := (
  (∀ p ∈ float2Forms, ∀ (f : RWord) (s : State) (sp : Split), Issues (shF3 f) f false [] s sp →
    let w := seen s sp
    let F := ftypeV f.vtype
    GivesV (p.1 f) f s sp (f.vtype = 1) f.rnd 1
      (fun t => lane (p.2 F (roundOf w f.rnd t 0) w.ftz (w.vsrcF F f.a t) (w.vsrcF F f.b t))))
  ∧ (∀ p ∈ float1Forms, ∀ (f : RWord) (s : State) (sp : Split), Issues (shF2 f) f false [] s sp →
    let w := seen s sp
    let F := ftypeV f.vtype
    GivesV (p.1 f) f s sp (f.vtype = 1) f.rnd 1 (fun t => lane (p.2 F (roundOf w f.rnd t 0) w.ftz (w.vsrcF F f.a t))))
  ∧ (∀ (f : RWord) (s : State) (sp : Split), Issues (shF4 f) f false [] s sp →
    let w := seen s sp
    let F := ftypeV f.vtype
    GivesV (.ffma f) f s sp (f.vtype = 1) f.rnd 1
      (fun t => lane (F.fma (roundOf w f.rnd t 0) w.ftz (w.vsrcF F f.a t) (w.vsrcF F f.b t) (w.vsrcF F f.c t))))
  ∧ (∀ p ∈ floatImmForms, ∀ (f : IWord) (s : State) (sp : Split), Issues shVimm (immR f) false [] s sp →
    let w := seen s sp
    GivesV (p.1 f) (immR f) s sp false 0 0 (fun t => lane (p.2 w.ftz (w.vsrcF f32 f.a t) f.imm.toNat)))) ∧ (
  ∀ (f : RWord) (s : State) (sp : Split),
    let w := seen s sp
    let F := ftypeV f.vtype
    let sign := 2 ^ (F.width - 1)
    (Issues (shFmin f) f false [] s sp →
      GivesV (.fmin f) f s sp (f.vtype = 1) 0 0 (fun t => lane (F.minmax w.ftz false (w.vsrcF F f.a t) (w.vsrcF F f.b t)))
      ∧ GivesV (.fmax f) f s sp (f.vtype = 1) 0 0 (fun t => lane (F.minmax w.ftz true (w.vsrcF F f.a t) (w.vsrcF F f.b t))))
    ∧ (Issues (shFabs f) f false [] s sp →
      GivesV (.fabs f) f s sp (f.vtype = 1) 0 0 (fun t => lane (w.vsrcF F f.a t % sign, 0))
      ∧ GivesV (.fneg f) f s sp (f.vtype = 1) 0 0 (fun t => lane ((w.vsrcF F f.a t + sign) % (2 * sign), 0))))

/-- R144, R145: the packed forms compute element 0 before element 1; VDOT4's integer form adds the products modulo 2^32, the
float forms round the exact sum once.
That an inline constant of VDOT4 or VDOT8 is its bits is the model's reading (log 134). -/
def Obligations.PackedAndDotResults : Prop :=
  ∀ (f : RWord) (s : State) (sp : Split),
    let w := seen s sp
    let F : Fmt := if f.m.getLsbD 3 then bf16 else f16
    let r (t j : Nat) : Rnd := roundOf w f.rnd t j
    let e (x : BitVec 9) (t j : Nat) : Nat := half w F x t j
    (Issues (shH3 f) f false [] s sp →
      GivesV (.hadd2 f) f s sp false f.rnd 2 (fun t =>
        packTwo (F.add (r t 0) w.ftz (e f.a t 0) (e f.b t 0)) (F.add (r t 1) w.ftz (e f.a t 1) (e f.b t 1)))
      ∧ GivesV (.hmul2 f) f s sp false f.rnd 2 (fun t =>
        packTwo (F.mul (r t 0) w.ftz (e f.a t 0) (e f.b t 0)) (F.mul (r t 1) w.ftz (e f.a t 1) (e f.b t 1))))
    ∧ (Issues (shH4 f) f false [] s sp →
      GivesV (.hfma2 f) f s sp false f.rnd 2 (fun t =>
        packTwo (F.fma (r t 0) w.ftz (e f.a t 0) (e f.b t 0) (e f.c t 0))
          (F.fma (r t 1) w.ftz (e f.a t 1) (e f.b t 1) (e f.c t 1))))
    ∧ (Issues (shVdot4 f) f false [] s sp →
      let s8 (x : BitVec 9) (t j : Nat) : Int := Int.bmod (byteOf (w.vsrc false x t) j) 256
      (f.mod 6 3 = 0 →
        GivesVI (.vdot4 f) f s sp false (fun t => BitVec.ofInt 64 (((w.vsrc false f.c t).toNat
          + s8 f.a t 0 * s8 f.b t 0 + s8 f.a t 1 * s8 f.b t 1 + s8 f.a t 2 * s8 f.b t 2 + s8 f.a t 3 * s8 f.b t 3) % 2 ^ 32)))
      ∧ (f.mod 6 3 ≠ 0 →
        let v (x : BitVec 9) (n t j : Nat) : FV := narrowValue (dotCode n) (byteOf (w.vsrc false x t) j)
        GivesV (.vdot4 f) f s sp false f.rnd 1 (fun t => lane (dotRound (r t 0) w.ftz (w.vsrcF f32 f.c t)
          (dotSum ((List.range 4).map (fun j => (v f.a (f.mod 4 3) t j, v f.b (f.mod 6 5) t j))))))))
    ∧ (Issues (shVdot8 f) f false [] s sp →
      let v (x : BitVec 9) (t j : Nat) : FV := e2m1f.read (nibbleOf (w.vsrc false x t) j)
      GivesV (.vdot8 f) f s sp false f.rnd 1 (fun t => lane (dotRound (r t 0) w.ftz (w.vsrcF f32 f.c t)
        (dotSum ((List.range 8).map (fun j => (v f.a t j, v f.b t j)))))))

/-- R147 to R149: CVT converts as SCVT does; CVTS scales by its S8 code; CVTP `.pack` rounds the block's registers into
the fields of one.
R149, R150: CVTP `.unpack` writes one register for each field; the bit-plane forms rearrange a block of 128 bytes.
That CVTS `.from` takes an inline constant's bits is the model's reading (log 134). -/
def Obligations.ConversionResults : Prop := (
  ∀ (f : RWord) (s : State) (sp : Split),
    let w := seen s sp
    let r (t j : Nat) : Rnd := roundOf w f.rnd t j
    (Issues (shCvt f) f false [] s sp →
      (∀ G H : Fmt, ctypeF (f.mod 5 3) = some G → ctypeF (f.mod 8 6) = some H →
        GivesV (.cvt f) f s sp (wideC (f.mod 5 3)) f.rnd 1 (fun t => lane (H.convert G (r t 0) w.ftz (w.vsrcF H f.a t))))
      ∧ (∀ G : Fmt, ctypeF (f.mod 5 3) = some G → f.mod 8 6 < 4 →
        GivesV (.cvt f) f s sp (wideC (f.mod 5 3)) f.rnd 1 (fun t =>
          lane (G.ofInt (r t 0) w.ftz (val (ctypeI (f.mod 8 6)) (w.vsrc (wideC (f.mod 8 6)) f.a t)))))
      ∧ (∀ H : Fmt, f.mod 5 3 < 4 → ctypeF (f.mod 8 6) = some H →
        let t := ctypeI (f.mod 5 3)
        let x (n : Nat) := H.toInt (r n 0) w.ftz (signed t) (bits t) (w.vsrcF H f.a n)
        GivesV (.cvt f) f s sp (wideC (f.mod 5 3)) f.rnd 1 (fun n => (put t (x n).1, (x n).2)))
      ∧ (f.mod 5 3 < 4 → f.mod 8 6 < 4 →
        GivesVI (.cvt f) f s sp (wideC (f.mod 5 3)) (fun t =>
          put (ctypeI (f.mod 5 3)) (val (ctypeI (f.mod 8 6)) (w.vsrc (wideC (f.mod 8 6)) f.a t)))))
    ∧ (Issues (shCvts f) f false [] s sp →
      let code (t : Nat) : Int := (byteOf (w.vsrc false f.b t) 0 : Int)
      let F : Fmt := if f.mod 6 6 = 1 then f64 else f32
      (f.mod 7 7 = 0 → GivesV (.cvts f) f s sp false f.rnd 1 (fun t =>
        lane (convertNarrow (f.mod 5 3) (r t 0) ((F.read (w.vsrcF F f.a t)).scale (127 - code t)))))
      ∧ (f.mod 7 7 = 1 → GivesVI (.cvts f) f s sp true (fun t =>
        BitVec.ofNat 64 (f64.exact ((narrowValue (f.mod 5 3) (w.vsrc false f.a t).toNat).scale (code t - 127))))))
    ∧ (Issues (shCvtp f) f false (cvtpRegs f) s sp → f.mod 7 7 = 0 → f.mod 5 3 < 6 →
      let m : Nat := if f.mod 5 3 = 4 then 8 else 4
      let k (t : Nat) : Int := if f.mod 6 6 = 1 then 127 - (byteOf (w.vsrc false f.b t) 0 : Int) else 0
      let x (t j : Nat) : Nat × Flags :=
        convertNarrow (f.mod 5 3) (r t j) ((f32.read (w.vlane (f.a.toNat + j) t).toNat).scale (k t))
      GivesV (.cvtp f) f s sp false f.rnd m (fun t =>
        (BitVec.ofNat 64 ((List.range m).map (fun j => (x t j).1 * 2 ^ (32 / m * j))).sum,
         (List.range m).foldl (fun acc j => acc ||| (x t j).2) 0)))) ∧ (
  ∀ (f : RWord) (s : State) (sp : Split), Issues (shCvtp f) f false (cvtpRegs f) s sp →
    let w := seen s sp
    (f.mod 7 7 = 1 → f.mod 5 3 < 6 →
      let m : Nat := if f.mod 5 3 = 4 then 8 else 4
      ∃ (w' : Warp) (y : Lanes Word),
        exec (.cvtp f) s = .next (ended { s with fresh := s.fresh + 1 } f sp false w' (some (.vector y)))
        ∧ (∀ n t, t < 128 → w'.vlane n t =
            if f.w = false ∧ acts s f sp t = true ∧ f.dst.toNat ≤ n ∧ n < f.dst.toNat + m then
              BitVec.ofNat 32 (f32.exact (narrowValue (f.mod 5 3)
                ((w.vsrc false f.a t).toNat / 2 ^ (32 / m * (n - f.dst.toNat)) % 2 ^ (32 / m))))
            else w.vlane n t)
        ∧ { w' with v := w.v } = w)
    ∧ (f.mod 5 3 = 6 → f.mod 7 7 = 0 →
      let q (i j : Nat) : Bool := acts s f sp i && (w.vlane f.a.toNat i).getLsbD j
      ∃ (w' : Warp) (y : Lanes Word),
        exec (.cvtp f) s = .next (ended { s with fresh := s.fresh + 1 } f sp false w' (some (.vector y)))
        ∧ (∀ n t j, t < 128 → j < 32 → (w'.vlane n t).getLsbD j =
            if f.w = false ∧ acts s f sp t = true ∧ t < 32 ∧ n = f.dst.toNat then
              (let b := 4 * t + j / 8; q (8 * (b % 16) + j % 8) (7 - b / 16))
            else (w.vlane n t).getLsbD j)
        ∧ { w' with v := w.v } = w)
    ∧ (f.mod 5 3 = 6 → f.mod 7 7 = 1 →
      let p := if f.rnd = 0 then 8 else f.rnd
      let plane (k t : Nat) : Bool := (w.vlane f.a.toNat ((16 * k + t / 8) / 4)).getLsbD (8 * ((t / 8) % 4) + t % 8)
      let q (t : Nat) : Int :=
        Int.bmod ((List.range p).map (fun k => (plane k t).toNat * 2 ^ (7 - k))).sum 256
      GivesVI (.cvtp f) f s sp false (fun t => BitVec.ofInt 64 (if p < 8 then q t + 2 ^ (7 - p) else q t))))

/-- R152 to R156: VSHFL, VBCAST and VVOTE.
R106, R107, R155: VRED combines the acting lanes in the tree, VSCAN in the prefix order; the flags are those of all the
steps. That VRED's latch with w = 1 is uniform is the model's choice (log 22). -/
def Obligations.CrossLaneResults : Prop := (
  ∀ (f : RWord) (s : State) (sp : Split),
    let w := seen s sp
    let x (t : Nat) : Nat := (w.vsrc false f.a t).toNat % 2 ^ 32
    let act (t : Nat) : Prop := t < 128 ∧ acts s f sp t = true
    (Issues (shVshfl f) f false [] s sp →
      GivesVI (.vshfl f) f s sp false (fun t =>
        (w.vlane f.a.toNat
          (shuffleFrom (f.mod 1 0) (128 >>> f.mod 4 2) t ((w.vsrc false f.b t).toNat % 2 ^ 32))).setWidth 64))
    ∧ (Issues shVbcast f false [] s sp →
      GivesVI (.vbcast f) f s sp false (fun _ => (w.vlane f.a.toNat ((w.uni f.b).toNat % 128)).setWidth 64))
    ∧ (Issues (shVvote f) f false [] s sp →
      (f.mod 1 0 = 0 → ∃ b : Bool, (b = true ↔ ∀ t, act t → x t ≠ 0) ∧ GivesS (.vvote f) f s sp (flag b))
      ∧ (f.mod 1 0 = 1 → ∃ b : Bool, (b = true ↔ ∃ t, act t ∧ x t ≠ 0) ∧ GivesS (.vvote f) f s sp (flag b))
      ∧ (f.mod 1 0 = 2 → ∃ b : Bool, (b = true ↔ ∀ t u, act t → act u → x t = x u) ∧ GivesS (.vvote f) f s sp (flag b))
      ∧ (f.mod 1 0 = 3 → ∃ m : Mask, (∀ t, t < 128 → m.getLsbD t = (acts s f sp t && decide (x t ≠ 0)))
          ∧ GivesK (.vvote f) f s sp m))) ∧ (
  ∀ (f : RWord) (s : State) (sp : Split),
    let w := seen s sp
    let tree := treeOf (redStep w f) (redSource w f (acts s f sp)) 7 0
    let x := redWord f (tree.1.getD (redUnit f))
    (Issues (shVred f) f false [] s sp →
      (f.w = true ∨ isS f.dst = true →
        exec (.vred f) s = .next (ended s f sp false (wroteS (w.flag tree.2) f x) (some (.uniform x))))
      ∧ (f.w = false → isV f.dst = true → GivesV (.vred f) f s sp (wideR (f.mod 5 3)) 0 0 (fun _ => (x, tree.2))))
    ∧ (Issues (shVscan f) f false [] s sp →
      GivesV (.vscan f) f s sp (wideR (f.mod 5 3)) 0 0 (fun t =>
        (redWord f ((scanOf (redStep w f) (redSource w f (acts s f sp)) 7 t).getD 0),
         scanFlags (redStep w f) (redSource w f (acts s f sp))))))

/-- R68, R70, R73 to R75: a pair word performs D := D op A in both slots, integer, scalar float, vector float, packed or mask: independent
slots read before either writes, and draw in slot order; in a serial pair slot B sees slot A's writes, and y0 is what slot A gave. -/
def Obligations.PairWordResults : Prop :=
  ∀ (p : PWord) (s : State) (sp : Split), PairIssues p s sp →
    let w := seen s sp
    let k0 := sp.mask
    let own (x : Slot) (rd w w' : Warp) : Prop :=
      SlotGives x k0 rd (pairRead rd x.src) (rd.k k0 x.src.toNat) (fun _ => True) w w'
    ∃ (n : Nat) (wa wb : Warp),
      exec (.pairWord p) s = .next (conclude s { wp := s.issuer, i := (s.warp s.issuer).cur, sp := sp, act := sp.mask } false
        false false (.done ({ s with fresh := n }.setWarp s.issuer wb) none))
      ∧ own p.sa w w wa
      ∧ (p.serial = false → own p.sb w wa wb)
      ∧ (p.serial = true → p.sb.src ≠ 0x90 → own p.sb wa wa wb)
      ∧ (p.serial = true → p.sb.src = 0x90 →
          SlotGives p.sb k0 wa (pairRead wa p.sa.dst) (pairMaskV p.sa (w.k k0 p.sa.dst.toNat) (w.k k0 p.sa.src.toNat))
            (fun t => p.sa.cls = 0 ∨ (k0 &&& w.k k0 p.sa.k.toNat).getLsbD t = true) wa wb)

/-! ### Class 4: control (R167, R173 to R186) -/

/-- R175 to R179: where BR, BRK, BRX, CALL and RET send the lanes of their split, and the links that CALL writes.
R178, R179: CALL at depth 255 traps ILLEGAL_OPERAND and RET at depth 0 traps RET_EMPTY, and change nothing. -/
def Obligations.BranchTargets : Prop := (
  ∀ (f : RWord) (g : IWord) (s : State) (sp : Split),
    let w := seen s sp
    let act := (slotCtx s f sp).act
    let there (d : Byte) (m : Mask) : Target := ⟨g.imm, g.a.setWidth 8, d, m⟩
    let next (m : Mask) : Target := ⟨sp.pc + 1, sp.prio, sp.depth, m⟩
    let link (x : Word) (d : Byte) (m : Mask) : Target := ⟨linkPc x, linkPrio x, d, m⟩
    let links (d : Byte) : List Target :=
      if isS f.a then [link (w.s (f.a.toNat - 0x100)) d act]
      else ((List.range 128).filter (fun t => act.getLsbD t)).map (fun t => link (w.vsrc true f.a t) d (1#128 <<< t))
    (Issues shBr (immR g) true [] s sp →
      Moves (.br g) (immR g) s sp
        (sends s sp [if w.uni g.dst = 0 ↔ g.a.getLsbD 8 = true then there sp.depth sp.mask else next sp.mask]))
    ∧ (Issues (shBrk g) (immR g) false [] s sp →
      let k := w.k sp.mask g.dst.toNat
      let taken := sp.mask &&& (if g.a.getLsbD 8 then ~~~ k else k)
      Moves (.brk g) (immR g) s sp (sends s sp [there sp.depth taken, next (sp.mask &&& ~~~ taken)]))
    ∧ (Issues shBrx f false [] s sp →
      Moves (.brx f) f s sp (sends s sp (links sp.depth ++ [next (sp.mask &&& ~~~ act)])))
    ∧ (Issues (shCall g) (immR g) false [] s sp → sp.depth ≠ 255 →
      ∃ w' : Warp, Moves (.call g) (immR g) s sp
          { w' with frontier := branch w.frontier (s.warp s.issuer).cur [there (sp.depth + 1) sp.mask] }
        ∧ (∀ n t, t < 128 → w'.vlane n t =
            if sp.mask.getLsbD t then placed g.dst.toNat true n ((0#24 ++ sp.prio) ++ (sp.pc + 1)) (w.vlane n t)
            else w.vlane n t)
        ∧ { w' with v := w.v } = w)
    ∧ (Issues shRet f false [] s sp → sp.depth ≠ 0 →
      Moves (.ret f) f s sp (sends s sp (links (sp.depth - 1) ++ [next (sp.mask &&& ~~~ act)])))) ∧ (
  ∀ (f : RWord) (g : IWord) (s : State) (sp : Split),
    (Issues (shCall g) (immR g) false [] s sp → sp.depth = 255 →
      exec (.call g) s = .next (conclude s (slotCtx s (immR g) sp) g.h false true
        (.trap .illegalOperand (wordInfo (seen s sp) sp) sp.mask)))
    ∧ (Issues shRet f false [] s sp → sp.depth = 0 →
      exec (.ret f) s = .next (conclude s (slotCtx s f sp) f.h false true (.trap .retEmpty 0 sp.mask))))

/-- R159 to R162: the frontier after a change holds every lane that it held, in rank order, and no two splits that meet; a merged split
takes the union of the masks and the highest prio, has no age, no yield and no forced turn, and waits only where one of its parts waits at
a JOIN or BAR; a split that meets no other is as it was.
R167, R308: a branching instruction whose groups fit into the free entries puts every lane at its target, with at least its target's prio;
where they do not fit, the groups that rank highest fill all free entries but one and the other lanes stay in S at the instruction; with
one entry free S keeps all that did not join a split and waits for an entry. None loses a lane. -/
def Obligations.FrontierKept : Prop := (
  ∀ l : List Split,
    unionMask (tidy l) = unionMask l
    ∧ (tidy l).Pairwise (fun a b => a.prio.toNat > b.prio.toNat ∨ (a.prio = b.prio ∧ (a.pc.toNat < b.pc.toNat
        ∨ (a.pc = b.pc ∧ b.depth.toNat ≤ a.depth.toNat))))
    ∧ (tidy l).Pairwise (fun a b => ¬(a.pc = b.pc ∧ a.depth = b.depth ∧ a.held = b.held))
    ∧ (∀ x ∈ tidy l, x.mask ≠ 0)
    ∧ (∀ y ∈ l, y.mask ≠ 0 → ∃ x ∈ tidy l, x.meets y = true)
    ∧ ∀ x ∈ tidy l,
        let parts := l.filter (fun y => y.mask != 0 && x.meets y)
        x.mask = unionMask parts ∧ (∃ y ∈ parts, x.prio = y.prio) ∧ (∀ y ∈ parts, y.prio.toNat ≤ x.prio.toNat)
        ∧ (parts.length = 1 → x ∈ l)
        ∧ (2 ≤ parts.length → x.age = 0 ∧ x.yield = 0 ∧ x.turn = none
            ∧ (if parts.any (fun y => y.wait.isBarrier) then x.wait.isBarrier = true ∧ ∃ y ∈ parts, x.wait = y.wait else x.wait = .ready))) ∧ (
  ∀ (l : List Split) (i : Nat) (sp : Split) (ts : List Target), l[i]? = some sp →
    let others := l.eraseIdx i
    let own := ownTargets others sp ts
    let free := 8 - others.length
    unionMask (branch l i ts) = unionMask others ||| ts.foldl (fun m t => m ||| t.mask) 0
    ∧ (ownGroups own ≤ free → ∀ t ∈ ts, ∀ n, t.mask.getLsbD n = true →
        ∃ x ∈ branch l i ts, x.pc = t.pc ∧ x.depth = t.depth ∧ t.prio.toNat ≤ x.prio.toNat ∧ x.mask.getLsbD n = true)
    ∧ (l.length ≤ 8 → free < ownGroups own → ∃ (new : List Target) (rest : List Split),
        let out (u : Target) : Bool := new.any (fun t => t.pc == u.pc && t.depth == u.depth)
        branch l i ts =
          { sp with mask := groupMask own (fun u => !out u), wait := if free = 1 then .entry else sp.wait, age := 0, yield := 0, turn := none }
            :: new.map Target.split ++ rest
        ∧ new.length + 1 = free
        ∧ new.Pairwise (fun t u => ¬(t.pc = u.pc ∧ t.depth = u.depth))
        ∧ (∀ t ∈ new, (∃ u ∈ own, u.pc = t.pc ∧ u.depth = t.depth) ∧ t.prio.toNat = groupPrio own t
            ∧ t.mask = groupMask own (fun u => u.pc == t.pc && u.depth == t.depth)
            ∧ ∀ u ∈ own, out u = false → groupBefore own t u)
        ∧ List.Forall₂ (fun x y => y.pc = x.pc ∧ y.depth = x.depth ∧ y.held = x.held ∧ x.mask &&& ~~~ y.mask = 0) others rest
        ∧ ∀ t ∈ ts, joinsOne others sp t = true → ∃ y ∈ rest, y.pc = t.pc ∧ y.depth = t.depth ∧ t.mask &&& ~~~ y.mask = 0))

/-- R180 to R185: YIELD, PRIO and NOP advance their split; JOIN passes when its split holds every lane named, else waits;
SPINW waits at pc + 1.
R184, R353: EXIT takes its lanes out of every split, and one store of the group's counter increments, one for each lane
whose increment is not withheld, goes out at its scope; the lanes outside the mask go on at pc + 1. -/
def Obligations.SplitWordsAndExit : Prop := (
  ∀ (f : RWord) (s : State) (sp : Split),
    let w := seen s sp
    (Issues { shNone with ctl := true } f false [] s sp →
      Completes (.yield f) f s sp true (withSplit s sp (fun x => { x with yield := 32, turn := none }))
      ∧ Completes (.nop f) f s sp true w)
    ∧ (Issues { shUni1 with ctl := true } f false [] s sp →
      Completes (.prio f) f s sp true (withSplit s sp (fun x => { x with prio := (w.uni f.a).extractLsb' 0 8 }))
      ∧ Moves (.spinw f) f s sp (withSplit s sp (fun x =>
        { x with pc := sp.pc + 1, wait := .spin s.arith ((w.uni f.a).toNat % 2 ^ 16), yield := 0, turn := none })))
    ∧ (Issues shJoin f false [] s sp →
      let named := w.k sp.mask f.a.toNat &&& w.live &&& unionMask w.frontier
      (named &&& ~~~ sp.mask = 0 → Completes (.join f) f s sp true w)
      ∧ (named &&& ~~~ sp.mask ≠ 0 →
        Moves (.join f) f s sp (withSplit s sp (fun x =>
          { x with pc := sp.pc, wait := .join f.a.toNat, yield := 0, turn := none }))))) ∧ (
  ∀ (f : RWord) (s : State) (sp : Split), Issues (shExit f) f false [] s sp →
    let w := seen s sp
    let act := (slotCtx s f sp).act
    let g := s.group w.grp
    let L := s.launch g.launch
    let lanes := act &&& ~~~ L.withheldOf g.gid (g.indexOf s.issuer)
    w.inh = false → g.faulted = false → lanes ≠ 0 →
    (∃ x ∈ w.frontier, x.mask &&& ~~~ act ≠ 0) →
    ∃ (t : State) (x : Store),
      exec (.exit f) s = .next (conclude s (slotCtx s f sp) f.h false true (.moved t))
      ∧ (t.warp s.issuer).live = w.live &&& ~~~ act
      ∧ (t.warp s.issuer).frontier =
          ((w.frontier.modify (s.warp s.issuer).cur (fun x => { x with pc := x.pc + 1 })).map
            (fun x => { x with mask := x.mask &&& ~~~ act })).filter (fun x => x.mask ≠ 0)
      ∧ (t.core (coreOf s.issuer)).stores = (s.core (coreOf s.issuer)).stores ++ [x]
      ∧ x.op = 4 ∧ x.aop = .add ∧ x.atype = 3 ∧ x.rel = true ∧ x.scope = f.mod 2 0 ∧ x.warp = s.issuer
      ∧ x.atoms.map AtomLane.lane = lanesOf lanes
      ∧ ∀ a ∈ x.atoms, a.c = 1 ∧ a.addr = field L.bytes 0x98 16 + (if field L.bytes 0x1F 1 / 4 % 2 = 1 then 8 * g.gid else 0))

/-! ### Traps (R65, R82, R194 to R201) -/

/-- R82, steps 3 to 7, of eight forms of the register layout (SADD, VADD, FADD, CVT, VRED, NOP, SYSW, TRET): the first of the checks that
the word fails gives its trap: reserved bits, operands and modifiers, then the chain, the latches and the privilege.
R82, steps 2 to 4, of every full word: what the word's own bits decide traps before all that its registers decide; a reserved bit or a
field that holds more than its form uses traps RESERVED_BITS, whatever the operands and modifiers hold.
R69, R71, R82: a pair word's checks, in their order.
R65: TRAPINFO holds the word's pc and its place in the chain.
R81, R82: a word that is no instruction traps ILLEGAL_OPCODE, with its pc and chain position in TRAPINFO. -/
def Obligations.CheckOrder : Prop := (
  ∀ (f : RWord) (s : State) (sp : Split) (i : Instr) (sh : Shape),
    (i, sh) ∈ [(.sadd f, shS3), (.vadd f, shV3sat f), (.fadd f, shF3 f), (.cvt f, shCvt f), (.vred f, shVred f), (.nop f, { shNone with ctl := true }),
      (.sysw f, shSysw f), (.tret f, shTret)] →
    (s.warp s.issuer).frontier[(s.warp s.issuer).cur]? = some sp →
    let w := seen s sp
    let g := s.group w.grp
    let traps (x : Cause) (info : Word) : Prop :=
      exec i s = .next (conclude s (slotCtx s f sp) f.h false sh.ctl (.trap x info sp.mask))
    let info := BitVec.ofNat 64 (sp.pc.toNat + (s.warp s.issuer).pos * 2 ^ 32)
    let operands : Prop := (∀ n ∈ sh.regs f, regOk w g.sregs n = true) ∧ (∀ p ∈ sh.latches f, latchKindOk w p.1 p.2 = true)
    let chained : Prop := (f.w = true → f.h = true) ∧ (f.h = true → sh.inner = true ∧ w.pos ≠ 7)
    let latched : Prop := ∀ p ∈ sh.latches f, w.latch p.2 ≠ none
    (∀ x, sh.check f = some x → traps x info)
    ∧ (sh.check f = none → ¬ operands → traps .illegalOperand info)
    ∧ (sh.check f = none → operands → ¬ chained → traps .illegalOperand info)
    ∧ (sh.check f = none → operands → chained → ¬ latched → traps .latchLost info)
    ∧ (sh.check f = none → operands → chained → latched → sh.priv = true → w.sup = false →
        traps .privilege info)) ∧ (
  ∀ (i : Instr) (x : Cause) (s : State) (sp : Split), i.staticCheck = some x → (∀ p, i ≠ .pairWord p) →
    (s.warp s.issuer).frontier[(s.warp s.issuer).cur]? = some sp →
    ∃ (act : Mask) (h r ctl : Bool),
      exec i s = .next (conclude s { wp := s.issuer, i := (s.warp s.issuer).cur, sp := sp, act := act } h r ctl
        (.trap x (BitVec.ofNat 64 (sp.pc.toNat + (s.warp s.issuer).pos * 2 ^ 32)) sp.mask))) ∧ (
  ∀ (sh : Shape) (f : RWord),
    let spare : Prop := (sh.dst = .unused ∧ f.dst ≠ 0) ∨ (sh.a = .unused ∧ f.a ≠ 0) ∨ (sh.b = .unused ∧ f.b ≠ 0) ∨ (sh.c = .unused ∧ f.c ≠ 0)
      ∨ (f.w = true ∧ f.dst ≠ 0) ∨ (sh.mask = false ∧ f.k ≠ 0) ∨ (∃ j, j < 10 ∧ f.m.getLsbD j = true ∧ sh.modBits.getLsbD j = false)
    (spare → sh.check f = some .reservedBits)
    ∧ (¬ spare → sh.zero = true →
        (sh.legal = false ∨ (f.w = true ∧ sh.readsD = true) ∨ (f.w = false ∧ sh.dst.admits f.dst = false) ∨ sh.a.admits f.a = false
          ∨ sh.b.admits f.b = false ∨ sh.c.admits f.c = false → sh.check f = some .illegalOperand))) ∧ (
  ∀ (p : PWord) (s : State) (sp : Split), (s.warp s.issuer).frontier[(s.warp s.issuer).cur]? = some sp →
    let w := seen s sp
    let sregs := (s.group w.grp).sregs
    let traps (x : Cause) : Prop :=
      exec (.pairWord p) s = .next (conclude s { wp := s.issuer, i := (s.warp s.issuer).cur, sp := sp, act := sp.mask } false
        false false (.trap x (BitVec.ofNat 64 (sp.pc.toNat + (s.warp s.issuer).pos * 2 ^ 32)) sp.mask))
    let named (x : Slot) : Prop := ∀ n ∈ slotRegs x, regOk w sregs n = true
    let late (x : Slot) : Prop := 0x90 ≤ x.src.toNat ∧ x.src.toNat ≤ 0x93
    let a : Prop := checkSlot p.sa = none ∧ named p.sa
    let b : Prop := checkSlot p.sb = none ∧ named p.sb ∧ pairLatchKind p = true
    let clash : Prop := (∃ n ∈ slotBanks p.sa, n ∈ slotBanks p.sb) ∨ sameDest p = true
    (∀ x, checkSlot p.sa = some x → traps x)
    ∧ (checkSlot p.sa = none → ¬ named p.sa → traps .illegalOperand)
    ∧ (∀ x, a → checkSlot p.sb = some x → traps x)
    ∧ (a → checkSlot p.sb = none → ¬ (named p.sb ∧ pairLatchKind p = true) → traps .illegalOperand)
    ∧ (a → b → clash → traps .illegalPair)
    ∧ (a → b → ¬ clash → w.pos ≠ 0 → traps .illegalOperand)
    ∧ (a → b → ¬ clash → w.pos = 0 → late p.sa ∨ (late p.sb ∧ ¬(p.serial = true ∧ p.sb.src = 0x90)) → traps .latchLost)) ∧ (
  ∀ (x : Word) (s : State) (sp : Split), (s.warp s.issuer).frontier[(s.warp s.issuer).cur]? = some sp →
    exec (.illegalWord x) s = .next (conclude s { wp := s.issuer, i := (s.warp s.issuer).cur, sp := sp, act := sp.mask } false
      false false (.trap .illegalOpcode
        (BitVec.ofNat 64 (sp.pc.toNat + (s.warp s.issuer).pos * 2 ^ 32)) sp.mask)))

/-- R65, R196: a precise trap of a word enters the warp's queue with the pc of the chain's head, the split's prio and depth, and
finds nothing of the word performed: registers, memory and the other splits stay, but for the slot's step of R163 and R183 on those splits,
which a word of class 4 leaves out (R186).
R196: it waits behind the traps of earlier cycles, whatever their ranks; among those of its own cycle the splits' come first, by
prio, then pc, then lowest lane, then those of the timers, then the imprecise ones. -/
def Obligations.PreciseTrapQueued : Prop := (
  ∀ (l : List Pend) (p : Pend),
    (∃ a b, l = a ++ b ∧ enqueueTrap l p = a ++ p :: b
      ∧ (∀ q ∈ a, q.cycle = p.cycle → p.cycle ≠ none → q.rank ≤ p.rank)
      ∧ (∀ q, b.head? = some q → q.cycle = p.cycle ∧ p.rank < q.rank))
    ∧ (∀ q : Pend, p.cause ≠ .timer → causeImprecise p.cause = false →
      (q.cause = .timer ∨ causeImprecise q.cause = true → p.rank < q.rank)
      ∧ (q.cause ≠ .timer → causeImprecise q.cause = false →
        (q.prio.toNat < p.prio.toNat ∨ (q.prio = p.prio ∧ (p.pc.toNat < q.pc.toNat
          ∨ (p.pc = q.pc ∧ lowest p.lanes < lowest q.lanes ∧ lowest q.lanes < 2 ^ 8)))) → p.rank < q.rank))
    ∧ ∀ q : Pend, p.cause = .timer → causeImprecise q.cause = true → p.rank < q.rank) ∧ (
  ∀ (s : State) (sp : Split) (act lanes : Mask) (h r ctl : Bool) (x : Cause) (info : Word),
    let wp := s.issuer
    let w := s.warp wp
    w.frontier[w.cur]? = some sp → w.trapvec.getLsbD 63 = true → w.pend.length < 8 → w.inh = false →
    (s.group w.grp).faulted = false → wp ∈ (s.group w.grp).warps →
    let t := conclude s { wp := wp, i := w.cur, sp := sp, act := act } h r ctl (.trap x info lanes)
    let head := if w.pos = 0 then sp.pc else w.headPc
    let v := t.warp wp
    v.pend = enqueueTrap w.pend ⟨x, false, head, sp.prio, sp.depth, info, lanes, some (lowest sp.mask), some s.arith⟩
    ∧ (∃ y, v.frontier[w.cur]? = some y ∧ y.pc = head ∧ y.stop = true ∧ y.mask = sp.mask)
    ∧ v.frontier.length = w.frontier.length ∧ v.pos = 0 ∧ v.kwrites = []
    ∧ (∀ j y, j ≠ w.cur → w.frontier[j]? = some y → v.frontier[j]? = some (if ctl then y else y.spun.passed w))
    ∧ v.v = w.v ∧ v.sr = w.sr ∧ v.ar = w.ar ∧ v.kr = w.kr ∧ v.dr = w.dr ∧ v.qr = w.qr ∧ v.fpmode = w.fpmode
    ∧ t.phys = s.phys ∧ t.ls = s.ls ∧ t.vault = s.vault)

/-- R197: a trap raised without a handler, beside eight that wait, or by a precise cause while a trap is handled, faults the
group: its launch ends faulted, its entry leaves the queue, and its warps issue nothing more. -/
def Obligations.UnhandledTrapFaults : Prop :=
  ∀ (s : State) (wp : Nat) (p : Pend) (precise : Bool),
    let w := s.warp wp
    let g := s.group w.grp
    (w.trapvec.getLsbD 63 = false ∨ 8 ≤ w.pend.length ∨ (precise = true ∧ w.inh = true)) →
    g.faulted = false → SMap.has s.launches g.launch = true →
    let t := raise s wp p precise
    (t.launch g.launch).faulted = true
    ∧ (t.group w.grp).faulted = true
    ∧ (∀ e ∈ (t.queue (s.launch g.launch).qdie (s.launch g.launch).queue).entries, e.kind = 1 → e.launch ≠ g.launch)
    ∧ (t.warp wp) = w
    ∧ ∀ u, (s.warp u).grp = w.grp → warpTurn t u = .next t ∧ ∀ o, o ≠ u → servedWarp t o ≠ u

/-- R198: taking a trap: what TRAP_DELIVERY writes to the trap registers, the privilege state and the split that receives it. -/
def Obligations.TrapDelivered : Prop :=
  ∀ (s : State) (wp : Nat) (p : Pend) (rest : List Pend) (i : Nat) (sp : Split),
    let w := s.warp wp
    w.pend = p :: rest → w.pos = 0 → w.inh = false → receiver w p = i → w.frontier[i]? = some sp →
    ∃ t, exec (.trapDelivery wp) s = .next t ∧
      let v := t.warp wp
      let pc := if p.split = none ∧ p.cause ≠ .matrixStorage then sp.pc else p.pc
      v.trapcause.toNat = causeCode p.cause + (if causeImprecise p.cause then 2 ^ 8 else 0) + (if p.late then 2 ^ 9 else 0)
      ∧ v.trappc.toNat = pc.toNat + sp.prio.toNat * 2 ^ 32 + sp.depth.toNat * 2 ^ 40
      ∧ v.trapinfo = p.info ∧ v.tlanes = p.lanes ∧ v.trappxi = w.pxi ∧ v.pxi = 0
      ∧ v.psup = w.sup ∧ v.sup = true ∧ v.inh = true ∧ v.pend = rest ∧ v.pos = 0
      ∧ v.frontier.length = w.frontier.length
      ∧ (∃ y ∈ v.frontier, y.pc = w.trapvec.extractLsb' 0 32 ∧ y.prio = w.trapvec.extractLsb' 32 8 ∧ y.depth = 0
          ∧ y.mask = sp.mask ∧ y.age = 0 ∧ y.yield = 0 ∧ y.wait = .ready ∧ y.held = false)
      ∧ (∀ y ∈ v.frontier, y.held = false → y.mask = sp.mask)
      ∧ v.v = w.v ∧ v.sr = w.sr ∧ v.ar = w.ar ∧ v.kr = w.kr ∧ v.fpmode = w.fpmode ∧ t.phys = s.phys

/-- R201: TRAP raises SOFTWARE, and BKPT raises BREAKPOINT while TRAPVEC.dbg is 1, with A in TRAPINFO and a return to pc + 1; else
BKPT only advances.
R81, R82: the whole effect of a word that is no instruction is to enter ILLEGAL_OPCODE: it completes so in every state of a warp that can
handle a trap.
R199: TRET gives the handler's lanes one split at TRAPPC, restores the privilege state and PXI, and releases the held
splits; outside a handler it traps ILLEGAL_OPERAND.
That a turn survives TRET where one split runs the handler is the model's reading (log 24). -/
def Obligations.TrapWords : Prop := (
  ∀ (f : RWord) (s : State) (sp : Split), Issues shUni1 f false [] s sp →
    let w := seen s sp
    exec (.trap f) s = .next (conclude s (slotCtx s f sp) f.h false false (.trapAt .software (w.uni f.a) (sp.pc + 1)))
    ∧ (w.trapvec.getLsbD 62 = true →
        exec (.bkpt f) s = .next (conclude s (slotCtx s f sp) f.h false false (.trapAt .breakpoint (w.uni f.a) (sp.pc + 1))))
    ∧ (w.trapvec.getLsbD 62 = false → Completes (.bkpt f) f s sp false w)
    ∧ ∀ (x : Cause) (info : Word) (ret : BitVec 32) (t : State),
        t = conclude s (slotCtx s f sp) f.h false false (.trapAt x info ret) →
        w.trapvec.getLsbD 63 = true → w.pend.length < 8 → w.inh = false → SMap.has t.groups w.grp = true →
        (t.warp s.issuer).pend = enqueueTrap w.pend ⟨x, false, ret, sp.prio, sp.depth, info, sp.mask, some (lowest sp.mask), some s.arith⟩
        ∧ (t.warp s.issuer).sr = w.sr ∧ (t.warp s.issuer).v = w.v) ∧ (
  ∀ (f : RWord) (s : State) (sp : Split), Issues shTret f false [] s sp →
    let w := seen s sp
    (w.inh = false → exec (.tret f) s = .next (conclude s (slotCtx s f sp) f.h false false
      (.trap .illegalOperand (wordInfo w sp) sp.mask)))
    ∧ (w.inh = true → ∃ v : Warp,
        exec (.tret f) s = .next (conclude s (slotCtx s f sp) f.h false false (.moved (s.setWarp s.issuer v)))
        ∧ v.sup = w.psup ∧ v.inh = false ∧ v.pxi = w.trappxi
        ∧ v.frontier = tidy (⟨w.trappc.extractLsb' 0 32, w.trappc.extractLsb' 32 8, w.trappc.extractLsb' 40 8,
              unionMask (w.frontier.filter (fun x => !x.held)), 0, 0, .ready, false, false,
              match w.frontier.filter (fun x => !x.held) with
              | [x] => x.turn
              | _ => none⟩
            :: (w.frontier.filter (fun x => x.held)).map (fun x => { x with held := false }))
        ∧ v.v = w.v ∧ v.sr = w.sr ∧ v.ar = w.ar ∧ v.kr = w.kr ∧ v.trappc = w.trappc ∧ v.pend = w.pend)) ∧ (
  ∀ (x : Word) (s : State) (sp : Split),
    let wp := s.issuer
    let w := s.warp wp
    w.frontier[w.cur]? = some sp → w.trapvec.getLsbD 63 = true → w.pend.length < 8 → w.inh = false →
    (s.group w.grp).faulted = false → wp ∈ (s.group w.grp).warps →
    ∃ t : State, exec (.illegalWord x) s = .next t
      ∧ (t.warp wp).pend = enqueueTrap w.pend ⟨.illegalOpcode, false, if w.pos = 0 then sp.pc else w.headPc, sp.prio, sp.depth,
          BitVec.ofNat 64 (sp.pc.toNat + w.pos * 2 ^ 32), sp.mask, some (lowest sp.mask), some s.arith⟩
      ∧ (t.warp wp).v = w.v ∧ (t.warp wp).sr = w.sr ∧ (t.warp wp).kr = w.kr ∧ t.phys = s.phys ∧ t.ls = s.ls ∧ t.vault = s.vault)

/-! ### Class 5: system registers, clocks, monitors and modes (R188 to R215) -/

/-- R190, R192, R202: what SYSR reads of each system register; its value is a 64-bit uniform result.
R86, R89, R172, R191 to R193, R206, R245: what SYSW writes to each register that it may write, field by field.
R191: SYSR and SYSW of an unlisted number and SYSW of a read-only register trap ILLEGAL_OPERAND; a SYSW in user state to a
register that only the supervisor writes traps PRIVILEGE. -/
def Obligations.SystemRegisterWords : Prop := (
  ∀ (f : RWord) (s : State) (sp : Split), Issues (shSysr f) f false [] s sp →
    let wp := s.issuer
    let w := seen s sp
    let g := s.group w.grp
    let k := s.core (wp / 32)
    ∃ x : Word, GivesS (.sysr f) f s sp x
      ∧ (f.a = 0x00 → x.getLsbD 0 = w.sup ∧ x.getLsbD 1 = w.psup ∧ x.getLsbD 2 = w.inh ∧ x.getLsbD 8 = w.itercap
          ∧ (w.pend.length ≤ 8 → x.extractLsb' 12 4 = BitVec.ofNat 4 w.pend.length ∧ x.extractLsb' 16 48 = 0))
      ∧ (f.a = 0x01 → x = BitVec.ofNat 64 w.role) ∧ (f.a = 0x02 → x = BitVec.ofNat 64 (wp % 32))
      ∧ (f.a = 0x03 → x = BitVec.ofNat 64 g.gid) ∧ (f.a = 0x04 → x = BitVec.ofNat 64 g.launch)
      ∧ (f.a = 0x05 → x = BitVec.ofNat 64 (wp / 32)) ∧ (f.a = 0x06 → x = BitVec.ofNat 64 (wp / 1024))
      ∧ (f.a = 0x08 → x = w.trapcause) ∧ (f.a = 0x09 → x = w.trappc) ∧ (f.a = 0x0A → x = w.trapinfo)
      ∧ (f.a = 0x0B → x = w.trapvec) ∧ (f.a = 0x0C → x = w.tlanes.extractLsb' 0 64)
      ∧ (f.a = 0x0D → x = w.tlanes.extractLsb' 64 64) ∧ (f.a = 0x0E → x = w.hsave0) ∧ (f.a = 0x0F → x = w.hsave1)
      ∧ (f.a = 0x10 → x = w.pxi) ∧ (f.a = 0x11 → x = s.cycle) ∧ (f.a = 0x12 → x = w.vtime)
      ∧ (f.a = 0x13 → x = w.vtcmp) ∧ (f.a = 0x14 → x = w.deadline) ∧ (f.a = 0x15 → x = BitVec.ofNat 64 w.agelim)
      ∧ (f.a = 0x16 → x = flag w.fair) ∧ (f.a = 0x17 → x = w.fpmode) ∧ (f.a = 0x18 → x = BitVec.ofNat 64 k.pushq)
      ∧ (f.a = 0x19 → x.toNat = k.pushInstalled % 2 ^ 21 + k.pushRefused % 2 ^ 21 * 2 ^ 21 + k.pushRead % 2 ^ 21 * 2 ^ 42)
      ∧ (f.a = 0x1A → x = BitVec.ofNat 64 k.ct) ∧ (f.a = 0x1B → x = w.trappxi)) ∧ (
  ∀ (c : RWord → Instr) (f : RWord) (s : State) (sp : Split),
    c ∈ [Instr.sysw, Instr.syswFpmode, Instr.syswAgelim, Instr.syswVtcmp, Instr.syswDeadline, Instr.syswPushq] →
    Issues (shSysw f) f false [] s sp →
    let w := seen s sp
    let x := w.uni f.a
    let done (v : Warp) : Prop := Completes (c f) f s sp false v
    (f.dst = 0x00 → done { w with psup := if w.sup then x.getLsbD 1 else w.psup
                                  itercap := if x.getLsbD 8 then false else w.itercap })
    ∧ (f.dst = 0x09 → done { w with trappc := BitVec.ofNat 64 (x.toNat % 2 ^ 48) })
    ∧ (f.dst = 0x0B → done { w with trapvec := (x.extractLsb' 62 2 ++ 0#22) ++ x.extractLsb' 0 40 })
    ∧ (f.dst = 0x0E → done { w with hsave0 := x }) ∧ (f.dst = 0x0F → done { w with hsave1 := x })
    ∧ (f.dst = 0x13 → done { w with vtcmp := x }) ∧ (f.dst = 0x14 → done { w with deadline := x })
    ∧ (f.dst = 0x15 → done { w with agelim := max 1 (min (x.toNat % 2 ^ 17) 65536) })
    ∧ (f.dst = 0x17 → ∃ v : Warp, done v
        ∧ v.fpmode.extractLsb' 32 32 = x.extractLsb' 32 32 ∧ v.fpmode.getLsbD 15 = x.getLsbD 15
        ∧ (∀ n, 1 ≤ n → n ≤ 7 → v.fpmode.getLsbD n = (w.fpmode.getLsbD n && !x.getLsbD n))
        ∧ (∀ t, t < 129 → v.genOf t =
            let z := x.extractLsb' 32 32 ^^^ (BitVec.ofNat 32 (t + 1) * 0x9E3779B9)
            if z = 0 then 0x6A09E667 else z)
        ∧ { v with fpmode := w.fpmode, gen := w.gen } = w)
    ∧ (f.dst = 0x18 → exec (c f) s = .next (ended (s.setCore (s.issuer / 32)
        { s.core (s.issuer / 32) with pushq := min (x.toNat % 16) 8 }) f sp false w none))
    ∧ (f.dst = 0x1B → done { w with trappxi := x })) ∧ (
  ∀ (f : RWord) (s : State) (sp : Split), (s.warp s.issuer).frontier[(s.warp s.issuer).cur]? = some sp →
    let traps (i : Instr) (x : Cause) : Prop := ∃ info : Word,
      exec i s = .next (conclude s (slotCtx s f sp) f.h false false (.trap x info sp.mask))
    (f.w = false → f.k = 0 → f.m = 0 → f.b = 0 → f.c = 0 → isS f.dst = true → f.a = 0x07 ∨ 0x1B < f.a.toNat →
      traps (.sysr f) .illegalOperand)
    ∧ (f.w = false → f.k = 0 → f.m = 0 → f.b = 0 → f.c = 0 → isS f.a = true →
      f.dst = 0x07 ∨ 0x1B < f.dst.toNat ∨ f.dst.toNat ∈ [0x01, 0x02, 0x03, 0x04, 0x05, 0x06, 0x08, 0x0A, 0x0C, 0x0D, 0x10, 0x11, 0x12,
        0x16, 0x19, 0x1A] → traps (.sysw f) .illegalOperand)
    ∧ (f.w = false → f.h = false → f.k = 0 → f.m = 0 → f.b = 0 → f.c = 0 → isS f.a = true →
      f.a.toNat - 0x100 < (s.group (s.warp s.issuer).grp).sregs → (s.warp s.issuer).sup = false →
      f.dst.toNat ∈ [0x09, 0x0B, 0x0E, 0x0F, 0x18, 0x1B] → traps (.sysw f) .privilege))

/-- R203, R206: CYC waits for the warp's earlier instructions and reads CYCLE or VTIME; TARM arms VTCMP or DEADLINE; an armed
timer that its clock has reached clears armed and raises TIMER.
R169, R171, R182, R183: the events of a warp's splits: a forced turn begins, the hang detector writes its record and
counts from 0, SPINW's count runs out, a yield turn that has run out leaves its split as it is.
That TIMER has no lanes is the model's choice (log 129). -/
def Obligations.TimersAndSplitEvents : Prop := (
  (∀ (f : RWord) (s : State) (sp : Split),
    let w := seen s sp
    (Issues shCyc f false [] s sp →
      (warpBusy s s.issuer = false → GivesS (.cyc f) f s sp s.cycle ∧ GivesS (.cycVt f) f s sp w.vtime)
      ∧ (warpBusy s s.issuer = true → exec (.cyc f) s = .next s ∧ exec (.cycVt f) s = .next s))
    ∧ (Issues shTarm f false [] s sp →
      Completes (.tarm f) f s sp false { w with vtcmp := armed w.vtime (w.uni f.a) }
      ∧ Completes (.tarmDl f) f s sp false { w with deadline := armed s.cycle (w.uni f.a) }))
  ∧ (∀ (s : State) (wp : Nat),
    let w := s.warp wp
    w.frontier ≠ [] → w.pos = 0 → w.trapvec.getLsbD 63 = true → w.pend.length < 8 → (s.group w.grp).faulted = false →
    wp ∈ (s.group w.grp).warps →
    (w.vtcmp.getLsbD 63 = true → w.vtcmp.toNat % 2 ^ 63 ≤ w.vtime.toNat →
      exec (.vtimeTimerFire wp) s = .next (s.setWarp wp { w with vtcmp := w.vtcmp &&& ~~~ (1#64 <<< 63)
                                                                 pend := enqueueTrap w.pend { cause := .timer, cycle := some s.arith } }))
    ∧ (w.deadline.getLsbD 63 = true → w.deadline.toNat % 2 ^ 63 ≤ s.cycle.toNat →
      exec (.deadlineFire wp) s = .next (s.setWarp wp { w with deadline := w.deadline &&& ~~~ (1#64 <<< 63)
                                                               pend := enqueueTrap w.pend { cause := .timer, info := 1
                                                                                            cycle := some s.arith } })))) ∧ (
  ∀ (s : State) (wp i : Nat) (x : Split),
    let w := s.warp wp
    w.frontier[i]? = some x →
    (w.pos = 0 → forcedDue w = some i →
      exec (.forcedTurn wp) s = .next (s.setWarp wp { w with frontier := w.frontier.set i { x with turn := some 0 } }))
    ∧ (2 ^ 20 ≤ w.hang → ∃ t r, exec (.hang wp) s = .next t
        ∧ t = (s.record r).setWarp wp { w with hang := 0 } ∧ r.cls = 0x0B ∧ r.sev = 0 ∧ r.die = wp / 1024
        ∧ r.core = wp / 32 % 32 ∧ r.warp = wp % 32 ∧ r.launch = (s.group w.grp).launch)
    ∧ (∀ start n, x.wait = .spin start n → n ≠ 0 → start + n ≤ s.arith → x.held = false →
      exec (.spinwExpiry wp i) s = .next (s.setWarp wp
        (Warp.settle { w with frontier := w.frontier.set i { x with wait := .ready } })))
    ∧ (SMap.has s.warps wp = true → x.yield = 0 →
      exec (.yieldExpiry wp i) s = .next (s.setWarp wp { w with frontier := w.frontier.set i { x with yield := 0 } })))

/-- R208, R209: PMON selects, clears and reads a monitor of its own die, and one sample of an enabled monitor counts in its
minimum, maximum, count and bin.
R215: MODE returns the modes of all duties as they stood, and sets that of its duty.
That a selection and a clearing drop the samples that still wait is the model's choice (log 35). -/
def Obligations.MonitorAndModeWords : Prop := (
  (∀ (f : RWord) (s : State) (sp : Split),
    let w := seen s sp
    let d := s.issuer / 1024
    let n := (w.uni f.a).toNat % 16
    let m := s.monitor d n
    let x := w.uni f.b
    let cleared : Monitor := { m with min := BitVec.ofInt 64 (2 ^ 64 - 1), max := 0, count := 0, bins := [] }
    (Issues (shPmonRd f) f false [] s sp →
      GivesS (.pmonRd f) f s sp
        (if x = 0 then m.min else if x = 1 then m.max else if x = 2 then BitVec.ofNat 64 m.count
         else if x.toNat ≤ 34 then BitVec.ofNat 64 (SMap.look 0 m.bins (x.toNat - 3)) else 0))
    ∧ (Issues shPmonSel f false [] s sp →
      exec (.pmonSel f) s = .next (ended ((s.dropSamples d n).setMonitor d n { cleared with
        source := (x.extractLsb' 0 5).toNat
        enable := x.getLsbD 5 && decide ((x.extractLsb' 0 5).toNat ≤ 0x0C)
        core := (x.extractLsb' 8 8).toNat
        queue := (x.extractLsb' 16 16).toNat }) f sp false w none))
    ∧ (Issues shPmonClr f false [] s sp →
      exec (.pmonClr f) s = .next (ended ((s.dropSamples d n).setMonitor d n cleared) f sp false w none)))
  ∧ (∀ (s : State) (d n v times : Nat) (before after : List Sample), v < 2 ^ 64 → s.samples = before ++ ⟨d, n, v, times⟩ :: after →
    (∀ x ∈ before, ¬(x.die = d ∧ x.mon = n ∧ x.value = v)) →
    ∃ m : Monitor, exec (.monitorSample d n v) s = .next ({ s with samples := before ++ after }.setMonitor d n m)
      ∧ m.min.toNat = min (s.monitor d n).min.toNat v ∧ m.max.toNat = max (s.monitor d n).max.toNat v
      ∧ m.count = min ((s.monitor d n).count + times) (2 ^ 32 - 1)
      ∧ ∀ b, SMap.look 0 m.bins b = if (b = 0 ∧ v = 0) ∨ (1 ≤ b ∧ b ≤ 30 ∧ 2 ^ (b - 1) ≤ v ∧ v < 2 ^ b) ∨ (b = 31 ∧ 2 ^ 30 ≤ v)
          then min (SMap.look 0 (s.monitor d n).bins b + times) (2 ^ 32 - 1)
          else SMap.look 0 (s.monitor d n).bins b)) ∧ (
  ∀ (f : RWord) (s : State) (sp : Split),
    (Issues (shMode f) f false [] s sp →
      ∃ m : BitVec 7, (∀ n, n < 7 → m.getLsbD n =
          if n = f.mod 2 0 then ((seen s sp).uni f.a).getLsbD 0 else s.mode.getLsbD n)
        ∧ exec (.mode f) s = .next (ended { s with mode := m } f sp false
            (wroteS (seen s sp) f (s.mode.setWidth 64)) (some (.uniform (s.mode.setWidth 64)))))
    ∧ (Issues (shModeRd f) f false [] s sp → GivesS (.modeRd f) f s sp (s.mode.setWidth 64)))

/-! ### Classes 6 and 7: loads, stores, atomics and fences (R223 to R251) -/

/-- R228, R234 to R239, R257: each load of virtual memory, once its lines are granted, enters its core's list with its lanes'
addresses and awaits its data; PREF awaits none. -/
def Obligations.LoadsEnter : Prop :=
  ∀ (f : RWord) (s : State) (sp : Split),
    let w := seen s sp
    let n := sizeA f
    let all := (gatherLanes w (slotCtx s f sp).act).map (fun t => (t, eaA s sp f t))
    let one := ((lanesIn s f sp).take 1).map (fun t => (t, eaA s sp f t))
    let same (l : Load) : Prop := l.dst = f.dst ∧ l.w = f.w ∧ l.itype = f.mod 6 4
    let plain (form : LoadForm) (rep acq : Bool) (scope : Nat) (l : Load) : Prop :=
      same l ∧ l.form = form ∧ l.rep = rep ∧ l.acq = acq ∧ (acq = true → l.scope = scope)
    (Issues (shLd f) f false [] s sp → LoadReady s all n .read false false 0 →
      EntersLoad (.ld f) f s sp false .read all n (some false) (plain .lanes false false 0)
      ∧ EntersLoad (.ldRep f) f s sp false .read all n (some false) (plain .lanes true false 0))
    ∧ (Issues (shLdu f) f false [] s sp → lanesIn s f sp ≠ [] → LoadReady s one n .read false false 0 →
      EntersLoad (.ldu f) f s sp false .read one n (some true) (plain .uniform false false 0)
      ∧ EntersLoad (.lduRep f) f s sp false .read one n (some true) (plain .uniform true false 0))
    ∧ (Issues (shLda f) f false [] s sp →
      (uniformForm f = true → lanesIn s f sp ≠ [] → LoadReady s one n .read true true f.scope →
        EntersLoad (.lda f) f s sp false .read one n (some true) (plain .uniform false true f.scope))
      ∧ (uniformForm f = false → LoadReady s all n .read true true f.scope →
        EntersLoad (.lda f) f s sp false .read all n (some false) (plain .lanes false true f.scope)))
    ∧ (∀ z, Issues (shLdt f) f false (ldtRegs f) s sp → ldtSize (f.mod 6 4) = some z → LoadReady s all (4 * z) .read false false 0 →
      EntersLoad (.ldt f) f s sp false .read all (4 * z) (some false) (plain .transpose false false 0))
    ∧ (Issues (shPref f) f false [] s sp → LoadReady s ((lanesIn s f sp).map (fun t => (t, eaA s sp f t))) 1 .read false false 0 →
      EntersLoad (.pref f) f s sp false .read ((lanesIn s f sp).map (fun t => (t, eaA s sp f t))) 1 none
        (fun l => l.form = .pref (f.mod 6 4 == 1)))

/-- R226, R237, R241: LDL reads its bytes of the group's local store, little-endian, and STL writes them; every other byte of the
local stores, and all of memory, stays.
R227, R237, R241: LDV and STV reach the granted part of a vault: the load awaits its lines, and one store for each line
waits to be performed. -/
def Obligations.LocalStoreAndVaultWords : Prop := (
  ∀ (f : RWord) (s : State) (sp : Split),
    let w := seen s sp
    let g := s.group w.grp
    let n := sizeA f
    let off (t : Nat) : Int := offsetA w f t
    let at_ (t : Nat) : Nat := s.issuer / 32 * 2 ^ 20 + g.lsBase + (off t).toNat
    let inside (store : Bool) : Prop := acquirePending (s.core (s.issuer / 32)) s.issuer = false ∧ ∀ t ∈ lanesIn s f sp,
      0 ≤ off t ∧ off t + n ≤ g.lsSize ∧ touchesPacked g (off t).toNat n = false
      ∧ boardWait (s.core (s.issuer / 32)) (g.lsBase + (off t).toNat) n store = false
      ∧ matWait (s.core (s.issuer / 32)) s.issuer false (at_ t) n store = false
    (Issues (shLdl f) f false [] s sp → inside false →
      (∀ t ∈ lanesIn s f sp, ∀ i, i < n → SMap.look false s.lsBad ((at_ t + i) / 128) = false) →
      GivesVI (.ldl f) f s sp (6 ≤ f.mod 6 4) (fun t => put (f.mod 6 4) (little s.ls (at_ t) n)))
    ∧ (Issues (shStl f) f true [] s sp → inside true →
      ∃ t : State,
        exec (.stl f) s = .next (conclude s (slotCtx s f sp) f.h true false (.done (t.setWarp s.issuer w) none))
        ∧ t.warps = s.warps ∧ t.phys = s.phys ∧ t.vault = s.vault ∧ t.cores = s.cores
        ∧ ∀ a, Memory.byte t.ls a = match ((lanesIn s f sp).reverse.find? (fun l => at_ l ≤ a && a < at_ l + n)) with
            | some l => (w.vsrc (6 ≤ f.mod 6 4) f.dst l).extractLsb' (8 * (a - at_ l)) 8
            | none => Memory.byte s.ls a)) ∧ (
  ∀ (f : RWord) (s : State) (sp : Split),
    let w := seen s sp
    let g := s.group w.grp
    let c := s.issuer / 32
    let n := sizeA f
    let all := (gatherLanes w (slotCtx s f sp).act).map (fun t => (t, eaA s sp f t))
    let acc := (lanesIn s f sp).map (fun t => (t, eaA s sp f t))
    let reaches (l : List (Nat × Nat)) (store : Bool) : Prop := acquirePending (s.core c) s.issuer = false
      ∧ ∀ p ∈ l, p.2 < 2 ^ 33 ∧ g.grant.getLsbD (p.2 / 2 ^ 25) = true ∧ p.2 % 2 ^ 25 + n ≤ 0x1C00000
        ∧ matWait (s.core c) s.issuer true p.2 n store = false
    (Issues (shLd f) f false [] s sp → reaches all false →
      ∃ (s1 : State) (l : Load),
        exec (.ldv f) s = .next (ended s1 f sp false { w with pxi := 0 } (some (.awaited s.nextId false)))
        ∧ s1.warps = s.warps ∧ s1.vault = s.vault ∧ s1.phys = s.phys
        ∧ (s1.core c).loads = (s.core c).loads ++ [l]
        ∧ l.id = s.nextId ∧ l.warp = s.issuer ∧ l.space = .vault ∧ l.form = .lanes ∧ l.dst = f.dst ∧ l.w = f.w
        ∧ l.itype = f.mod 6 4 ∧ l.addrs = all ∧ l.size = n
        ∧ l.todo.map (fun p => (p.vline, p.line)) = (pieceLines (pieces all n)).map (fun v => (v, v)))
    ∧ (Issues (shSt f) f true [] s sp → reaches acc true →
      ∃ (s1 : State) (l : List Store),
        exec (.stv f) s = .next (conclude s (slotCtx s f sp) f.h true false (.done (s1.setWarp s.issuer w) none))
        ∧ s1.warps = s.warps ∧ s1.vault = s.vault ∧ s1.phys = s.phys
        ∧ (s1.core c).stores = (s.core c).stores ++ l
        ∧ l.map Store.line = pieceLines (pieces acc n)
        ∧ ∀ x ∈ l, x.space = .vault ∧ x.warp = s.issuer
            ∧ IsEntry x x.line (lanesIn s f sp) (eaA s sp f) (fun t => w.vsrc (6 ≤ f.mod 6 4) f.dst t) n)
    ∧ (∀ t, t ∈ lanesIn s f sp → (∀ u ∈ lanesIn s f sp, t ≤ u) → Issues (shSt f) f true [] s sp →
      g.grant.getLsbD (eaA s sp f t / 2 ^ 25 % 256) = false →
      ∃ lanes, exec (.stv f) s = .next (conclude s (slotCtx s f sp) f.h true false (.trap .vaultGrant
        (BitVec.ofNat 64 (eaA s sp f t % 2 ^ 25 * 256 + eaA s sp f t / 2 ^ 25 % 256)) lanes))))

/-- R229, R232, R241 to R243, R247: each store instruction whose lines are granted leaves one entry for each line, with the bytes
of its lanes, the highest lane's where they overlap; ATOMN leaves its lanes in ascending order, an entry for each run of them in one
line; STRL and the released forms are releases at their scope.
R247, R248, R251: ATOM and CAS enter with their operands and await the old values; FENCE completes once the accesses before it
are performed, and is an acquire.
That ATOMN leaves one entry for each run of lanes in one line is the model's reading (log 7). -/
def Obligations.StoresAndAtomicsEnter : Prop := (
  ∀ (f : RWord) (s : State) (sp : Split),
    let w := seen s sp
    let n := sizeA f
    let ls := lanesIn s f sp
    let v (t : Nat) : Word := w.vsrc (6 ≤ f.mod 6 4) f.dst t
    let is (op : Nat) (rel : Bool) (scope : Nat) (x : Store) : Prop := x.op = op ∧ x.rel = rel ∧ (rel = true → x.scope = scope)
    (Issues (shSt f) f true [] s sp → StoreReady s ls (eaA s sp f) n .write false →
      EntersStore (.st f) f s sp ls (eaA s sp f) v n .write (is 0 false 0))
    ∧ (Issues (shStu f) f true [] s sp → StoreReady s (ls.take 1) (eaA s sp f) n .write false →
      EntersStore (.stu f) f s sp (ls.take 1) (eaA s sp f) (fun _ => w.uni f.dst) n .write (is 1 false 0))
    ∧ (Issues (shStrl f) f true [] s sp →
      (uniformForm f = true → StoreReady s (ls.take 1) (eaA s sp f) n .write true →
        EntersStore (.strl f) f s sp (ls.take 1) (eaA s sp f) (fun _ => w.uni f.dst) n .write (is 2 true f.scope))
      ∧ (uniformForm f = false → StoreReady s ls (eaA s sp f) n .write true →
        EntersStore (.strl f) f s sp ls (eaA s sp f) v n .write (is 2 true f.scope)))
    ∧ (Issues (shPour f) f true (if f.mod 2 1 = 1 then [0x100 + (f.c.extractLsb' 0 8).toNat] else []) s sp →
      StoreReady s ls (eaP s sp f n) n .write false →
      EntersStore (.pour f) f s sp ls (eaP s sp f n) v n .write (fun x => is 3 (f.mod 3 3 == 1) f.scope x ∧ x.dest =
        let k := (f.c.extractLsb' 0 8).toNat
        if f.mod 2 1 = 0 then [k]
        else if f.mod 2 1 = 1 then ((List.range 8).map (fun i => ((w.s k).extractLsb' (8 * i) 8).toNat)).dedup
        else [4 * k, 4 * k + 1, 4 * k + 2, 4 * k + 3]))
    ∧ (Issues (shAtomn f) f true [] s sp →
      let m := if f.mod 6 5 < 2 then 4 else 8
      let operand (t : Nat) : Word := if f.mod 4 2 = 7 then BitVec.ofNat 64 (w.vsrcF f32 f.c t) else w.vsrc (2 ≤ f.mod 6 5) f.c t
      StoreReady s ls (eaP s sp f m) m .update true →
      Accepted (.atomn f) f s sp .update (fun l =>
        ((l.map Store.atoms).flatten.map (fun a => (a.lane, a.addr, a.c))) = ls.map (fun t => (t, eaP s sp f m t, operand t))
        ∧ (∀ x ∈ l, is 4 (f.mod 1 1 == 1) f.scope x ∧ x.atype = f.mod 6 5 ∧ x.aop = aopOf (f.mod 4 2) ∧ x.run = s.nextId
            ∧ x.atoms ≠ [] ∧ ∀ a ∈ x.atoms, a.addr / 128 * 128 = x.va)
        ∧ l.Pairwise (fun x y => x.id < y.id) ∧ l.IsChain (fun x y => x.va ≠ y.va)))) ∧ (
  ∀ (f : RWord) (s : State) (sp : Split),
    let w := seen s sp
    let m := if f.mod 6 5 < 2 then 4 else 8
    let acc := (lanesIn s f sp).map (fun t => (t, eaP s sp f m t))
    let wide : Bool := 2 ≤ f.mod 6 5
    let operand (t : Nat) : Word := if f.mod 4 2 = 7 then BitVec.ofNat 64 (w.vsrcF f32 f.c t) else w.vsrc wide f.c t
    let is (op : AtomOp) (l : Load) : Prop := l.form = .atomic ∧ l.dst = f.dst ∧ l.w = f.w ∧ l.itype = f.mod 6 5 ∧ l.aop = op
      ∧ (l.acq = true ↔ f.mod 0 0 = 1) ∧ (l.rep = true ↔ f.mod 1 1 = 1) ∧ l.scope = f.scope
    (Issues (shAtom f) f false [] s sp → LoadReady s acc m .update true (f.mod 0 0 == 1) f.scope →
      EntersLoad (.atom f) f s sp true .update acc m (some false) (fun l => is (aopOf (f.mod 4 2)) l
        ∧ l.atoms.map (fun a => (a.lane, a.addr, a.c)) = acc.map (fun p => (p.1, p.2, operand p.1))))
    ∧ (Issues (shCas f) f true [] s sp → LoadReady s acc m .update true (f.mod 0 0 == 1) f.scope →
      EntersLoad (.cas f) f s sp true .update acc m (some false) (fun l => is .cas l
        ∧ l.atoms.map (fun a => (a.lane, a.addr, a.c, a.cmp))
            = acc.map (fun p => (p.1, p.2, operand p.1, w.vsrc wide f.dst p.1))))
    ∧ (Issues (shFence f) f false [] s sp →
      (releaseReady s s.issuer s.nextId f.scope = true →
        exec (.fence f) s = .next (ended (s.acquire (coreOf s.issuer)) f sp false w none))
      ∧ (releaseReady s s.issuer s.nextId f.scope = false → exec (.fence f) s = .next s)))

/-! ### The events of memory (R225, R234, R240, R243 to R250, R287 to R303) -/

/-- R232, R288: the home slice serves a line of a load of its die with the bytes that it holds, and no byte of memory
changes.
R231, R234, R238, R240, R247: a load that has read its lines leaves its list and writes its lanes, extended from its type,
to its register or pair, a uniform one its s register; a poisoned one faults its group. A group that has ended is then released,
once nothing of it is under way (log 98). -/
def Obligations.LoadsReadAndReturn : Prop := (
  ∀ (s : State) (core ix k : Nat) (l : Load) (p : Part),
    (s.core core).loads[ix]? = some l → l.todo[k]? = some p → p.region = none → l.space = .virt → l.form ≠ .atomic →
    (s.core core).loads.find? (fun x => x.id == l.id) = some l → l.todo.find? (fun q => q.vline == p.vline) = some p →
    earlierOnLine s core l.warp (s.nameOf l.warp) l.id p.line .virt = false → engineHolds s p.line l.id = false →
    homeDie p.line = core / 32 → AtHome s p.line →
    SMap.find s.l1 (l1Key core l.asid p.vline) = none → windowOf s (l1Key core l.asid p.vline) = none →
    ∃ (t : State) (y : Load),
      exec (.sliceRead core ix k) s = .next t ∧ y ∈ (t.core core).loads ∧ y.id = l.id
      ∧ (∀ a ∈ l.bytesOn p.vline, SMap.look 0 y.got a = homeByte s p.line (a % 128))
      ∧ (∀ a, a ∉ l.bytesOn p.vline → SMap.look 0 y.got a = SMap.look 0 l.got a)
      ∧ y.todo = l.todo.filter (fun q => q.vline != p.vline)
      ∧ t.phys = s.phys ∧ t.warps = s.warps
      ∧ ∀ line j, line < 2 ^ 45 → homeByte t line j = homeByte s line j) ∧ (
  ∀ (s : State) (core ix : Nat) (l : Load), (s.core core).loads[ix]? = some l → l.todo = [] →
    let w := s.warp l.warp
    let d := l.dst.toNat
    let rest := (s.core core).loads.eraseIdx ix
    let lane (u : Nat) : Prop := l.w = false ∧ (SMap.find l.addrs u).isSome = true
    let returns (p : State → Prop) : Prop := ∃ t, exec (.loadReturn core ix) s = .next (tryRelease t w.grp)
      ∧ (t.core core).loads = rest ∧ t.phys = s.phys ∧ t.ls = s.ls ∧ t.vault = s.vault ∧ p t
    let onlyV (t : State) : Prop :=
      { t.warp l.warp with v := w.v, y0 := w.y0, y1 := w.y1, y2 := w.y2, y3 := w.y3 } = w
    (l.form = .lanes → l.bad = none → l.size = bits l.itype / 8 → returns (fun t => onlyV t ∧ ∀ n u, u < 128 →
        (lane u → (t.warp l.warp).vlane n u =
          placed d (6 ≤ l.itype) n (put l.itype (gotValue l (SMap.look 0 l.addrs u))) (w.vlane n u))
        ∧ (¬ lane u → (t.warp l.warp).vlane n u = w.vlane n u)))
    ∧ (l.form = .atomic → l.bad = none → returns (fun t => onlyV t ∧ ∀ n u, u < 128 →
        (lane u → (t.warp l.warp).vlane n u = placed d (2 ≤ l.itype) n (BitVec.ofNat 64
          ((List.range l.size).map (fun i => (SMap.look 0 l.got (u * 16 + i)).toNat * 256 ^ i)).sum) (w.vlane n u))
        ∧ (¬ lane u → (t.warp l.warp).vlane n u = w.vlane n u)))
    ∧ (l.form = .transpose → l.bad = none → returns (fun t => onlyV t ∧ ∀ n u, u < 128 →
        (lane u → d ≤ n → n < d + l.size / 4 → (t.warp l.warp).vlane n u = l.transposed (n - d) u)
        ∧ (¬(lane u ∧ d ≤ n ∧ n < d + l.size / 4) → (t.warp l.warp).vlane n u = w.vlane n u)))
    ∧ (∀ u a, l.form = .uniform → l.bad = none → l.size = bits l.itype / 8 → l.addrs = [(u, a)] → returns (fun t =>
        { t.warp l.warp with sr := w.sr, tokTag := w.tokTag, y0 := w.y0, y1 := w.y1, y2 := w.y2, y3 := w.y3 } = w
        ∧ ∀ n, (t.warp l.warp).s n = if l.w = false ∧ n = d - 0x100 then put l.itype (gotValue l a) else w.s n))
    ∧ (∀ a, (∀ b, l.form ≠ .pref b) → l.bad = some a → (s.group w.grp).faulted = false →
        SMap.has s.launches (s.group w.grp).launch = true →
        ∃ t, exec (.loadReturn core ix) s = .next t ∧ (t.launch (s.group w.grp).launch).faulted = true))

/-- R241, R243, R288: a queued store of the device's memory, once its turn has come, writes its bytes at its line's home under a write
time above every lease of the line and not below its core's time; every other byte of every line stays. One of POUR sends a push of the line
as it then stands to each of its receivers, those on another die as a Fill.
R247, R248, R250: the next lanes of ATOM and CAS are performed far, at the line's home; near, in the window that its core has, or in one
that the home grants for 64 cycles; a poisoned line is left as it is and marks the load. ATOMN's entry is performed at the home, or in
its core's window.
R247, R248: what an atomic leaves at its location, by its operation and type; a compare that fails leaves the old value; lanes in one line
follow each other. -/
def Obligations.StoresAndAtomicsPerform : Prop := (
  ∀ (s : State) (core ix : Nat) (x : Store),
    (s.core core).stores[ix]? = some x → x.core = core → x.cast = none → x.exits = 0 → x.space = .virt → x.op ≤ 3 →
    (s.core core).stores.find? (fun y => y.id == x.id) = some x →
    storeReady s x = true → engineHolds s x.line x.id = false → AtHome s x.line →
    ∃ t, exec (.homeStore core ix) s = .next t
      ∧ (t.core core).stores = (s.core core).stores.filter (fun y => y.id != x.id)
      ∧ (∀ line j, line < 2 ^ 45 → j < 128 →
          homeByte t line j = if line = x.line ∧ x.bmask.getLsbD j = true then lineByte x.data j else homeByte s line j)
      ∧ t.phys = s.phys ∧ t.warps = s.warps ∧ t.ls = s.ls ∧ t.vault = s.vault
      ∧ ∃ y, t.l2At (homeDie x.line) x.line = some y ∧ y.dirty = true ∧ (s.core core).ct ≤ y.wts ∧ y.wts ≤ (t.core core).ct
          ∧ (s.l2At (homeDie x.line) x.line = none → s.goneAt (homeDie x.line) x.line < y.wts)
          ∧ (∀ o, s.l2At (homeDie x.line) x.line = some o → o.rts < y.wts)
          ∧ ∃ l : List Push, (t.core core).pushes = (s.core core).pushes ++ l
            ∧ l.map (·.dst) = (if x.op = 3 then x.dest.dedup else [])
            ∧ ∀ q ∈ l, q.src = core ∧ q.owner = x.name ∧ q.asid = x.asid ∧ q.va = x.va ∧ q.line = x.line ∧ q.time = y.wts ∧ q.scope = x.scope
                ∧ q.sectors = sectorsOf x.bmask ∧ q.seq = x.id ∧ (∀ j, j < 128 → lineByte q.data j = homeByte t x.line j)
                ∧ (q.dst / 32 = homeDie x.line → q.stage = .toCore)
                ∧ (q.dst / 32 ≠ homeDie x.line → q.stage = .toDie
                    ∧ ∃ m ∈ t.msgs, m.kind = .fill ∧ m.line = x.line ∧ m.agent = q.dst / 32 ∧ m.push = some q)) ∧ (
  ∀ (s : State) (core ix k : Nat) (l : Load) (p : Part), AtomicDue s core ix k l p →
    let key := l1Key core l.asid p.vline
    let near := runsNear s core p.vline p.line
    let sound := ∀ a, (homeLine s p.line a).2 = false
    let does (x : Line) : Line × Mask × SMap Word := atomsOn l.aop l.itype p.vline (atomRun l.atoms) x
    let home := does (homeLine s p.line).1
    let runs (r : State → Prop) : Prop := ∃ t, exec (.sliceRead core ix k) s = .next t ∧ t.phys = s.phys ∧ t.warps = s.warps ∧ r t
    (AtHome s p.line → windowOf s key = none → (near = false ∨ (homeDie p.line = core / 32 ∧ ¬ sound)) → (sound ∨ ∀ a, (homeLine s p.line a).2 = true) →
      runs (fun t => t.windows = s.windows
        ∧ (sound → TookOld t core l home.2.2 l.bad ∧ WroteAt s t p.line home.2.1 home.1)
        ∧ (¬ sound → TookOld t core l home.2.2 (some (l.bad.getD (p.vline * 128))) ∧ WroteAt s t p.line 0 0)))
    ∧ (AtHome s p.line → windowOf s key = none → near = true → homeDie p.line = core / 32 → sound →
      runs (fun t => TookOld t core l home.2.2 l.bad ∧ WroteAt s t p.line 0 0
        ∧ ∃ z : Window, t.windows = s.windows ++ [z] ∧ z.key = key ∧ z.line = p.line ∧ z.ends = s.arith + 64 ∧ z.grant = none
            ∧ z.data = home.1 ∧ z.bmask = home.2.1))
    ∧ ∀ z, windowOf s key = some z → z.bad = false →
      runs (fun t => TookOld t core l (does z.data).2.2 l.bad ∧ (∀ line j, homeByte t line j = homeByte s line j)
        ∧ windowOf t key = some { z with data := (does z.data).1, bmask := z.bmask ||| (does z.data).2.1 })) ∧ (
  ∀ (s : State) (core ix : Nat) (x : Store),
    (s.core core).stores[ix]? = some x → x.core = core → x.cast = none → x.exits = 0 → x.space = .virt → x.op = 4 → x.va < 2 ^ 80 →
    (s.core core).stores.find? (fun y => y.id == x.id) = some x → storeReady s x = true → engineHolds s x.line x.id = false →
    let key := l1Key core x.asid (x.va / 128)
    let does (y : Line) : Line × Mask × SMap Word := atomsOn x.aop x.atype (x.va / 128) x.atoms y
    let runs (r : State → Prop) : Prop := ∃ t, exec (.homeStore core ix) s = .next t ∧ t.phys = s.phys ∧ t.warps = s.warps
      ∧ (t.core core).stores = (s.core core).stores.filter (fun y => y.id != x.id) ∧ r t
    (AtHome s x.line → windowOf s key = none → runsNear s core (x.va / 128) x.line = false → (∀ a, (homeLine s x.line a).2 = false) →
      runs (fun t => WroteAt s t x.line (does (homeLine s x.line).1).2.1 (does (homeLine s x.line).1).1))
    ∧ ∀ z, windowOf s key = some z → z.bad = false →
      runs (fun t => (∀ line j, homeByte t line j = homeByte s line j)
        ∧ windowOf t key = some { z with data := (does z.data).1, bmask := z.bmask ||| (does z.data).2.1 })) ∧ (
  (∀ (old c cmp : Nat), atomApply .fadd 0 old c cmp = (f32.add rne false old c).1)
  ∧ (∀ (op : AtomOp) (t v : Nat) (a : AtomLane) (l : List AtomLane) (x : Line),
      let r := atomsOn op t v (a :: l) x
      let r1 := atomsOn op t v [a] x
      let r2 := atomsOn op t v l r1.1
      r.1 = r2.1 ∧ r.2.1 = r1.2.1 ||| r2.2.1
      ∧ ∀ u, SMap.look 0 r.2.2 u = if l.any (fun b => b.lane == u && b.addr / 128 == v) then SMap.look 0 r2.2.2 u else SMap.look 0 r1.2.2 u)
  ∧ ∀ (t old c cmp : Nat), t < 4 →
    let n := if t < 2 then 32 else 64
    let sgn (x : Nat) : Int := if t % 2 = 0 then Int.bmod x (2 ^ n) else x
    old < 2 ^ n → c < 2 ^ n → cmp < 2 ^ n →
    atomApply .add t old c cmp = (old + c) % 2 ^ n
    ∧ sgn (atomApply .min t old c cmp) = min (sgn old) (sgn c)
    ∧ sgn (atomApply .max t old c cmp) = max (sgn old) (sgn c)
    ∧ atomApply .and t old c cmp = old &&& c ∧ atomApply .or t old c cmp = old ||| c ∧ atomApply .xor t old c cmp = old ^^^ c
    ∧ atomApply .exch t old c cmp = c ∧ atomApply .cas t old c cmp = (if old = cmp then c else old)
    ∧ ∀ (op : AtomOp) (v : Nat) (a : AtomLane) (x : Line), a.addr / 128 = v → a.addr % (n / 8) = 0 →
        a.c.toNat < 2 ^ n → a.cmp.toNat < 2 ^ n →
        let was := x.toNat / 256 ^ (a.addr % 128) % 2 ^ n
        let r := atomsOn op t v [a] x
        SMap.look 0 r.2.2 a.lane = BitVec.ofNat 64 was
        ∧ (∀ j, j < 128 → r.2.1.getLsbD j = (decide (a.addr % 128 ≤ j ∧ j < a.addr % 128 + n / 8) && (op != .cas || was == a.cmp.toNat)))
        ∧ ∀ j, j < 128 → lineByte r.1 j =
            if a.addr % 128 ≤ j ∧ j < a.addr % 128 + n / 8
            then BitVec.ofNat 8 (atomApply op t was a.c.toNat a.cmp.toNat / 256 ^ (j - a.addr % 128)) else lineByte x j)

/-- R250: a near-atomic window whose cycles have passed ends: its bytes are performed at its line's home.
R243 to R246, R295, R302, R303: a push that its receiver takes, in the order of those of its line, becomes a marked L1 copy with a
lease from its write time; a refused one is counted and dropped; either is acknowledged, and the acknowledgement ends it; a Fill
installs the pushed sectors at the proxy and sends the push on. -/
def Obligations.WindowsEndAndPushesArrive : Prop := (
  ∀ (s : State) (core ix : Nat) (x : Window),
    (s.windows.filter (fun y => l1Core y.key == core))[ix]? = some x → x.grant = none → x.bmask ≠ 0 → x.ends ≤ s.arith →
    hostLine x.line = false → sliceRoom s (homeDie x.line) x.line = true →
    ∃ t, exec (.atomicWindowEnd core ix) s = .next t
      ∧ t.windows = s.windows.filter (fun y => y.key != x.key)
      ∧ (∀ line j, line < 2 ^ 45 → j < 128 →
          homeByte t line j = if line = x.line ∧ x.bmask.getLsbD j = true then lineByte x.data j else homeByte s line j)
      ∧ t.phys = s.phys ∧ t.warps = s.warps) ∧ (
  (∀ (s : State) (core ix : Nat) (p : Push), (s.core core).pushes[ix]? = some p → p.src = core →
    let key := l1Key p.dst p.asid (p.va / 128)
    (p.stage = .toCore → behindPush s p = false → refusesPush s p = false → ∃ (t : State) (c : L1Line), exec (.pushFill core ix) s = .next t
      ∧ SMap.find t.l1 key = some c ∧ c.data = p.data ∧ c.sectors = p.sectors ∧ c.wts = p.time ∧ c.rts = p.time + 8
      ∧ c.pushed = true ∧ c.line = p.line
      ∧ (t.core p.dst).pushInstalled = ((s.core p.dst).pushInstalled + 1) % 2 ^ 21 ∧ p.time ≤ (t.core p.dst).ct
      ∧ (∀ q ∈ (t.core core).pushes, q.id = p.id → q.stage = .acked) ∧ t.phys = s.phys)
    ∧ (p.stage = .toCore → behindPush s p = false → refusesPush s p = true → ∃ t, exec (.pushFill core ix) s = .next t ∧ t.l1 = s.l1
      ∧ (t.core p.dst).pushRefused = ((s.core p.dst).pushRefused + 1) % 2 ^ 21
      ∧ (∀ q ∈ (t.core core).pushes, q.id = p.id → q.stage = .acked) ∧ t.phys = s.phys)
    ∧ (p.stage = .acked → (∀ q ∈ (s.core core).pushes, q.line = p.line → q.dst = p.dst → q.stage = .acked → p.id ≤ q.id) →
      ∃ t, exec (.pushAck core ix) s = .next t ∧ (t.core core).pushes = (s.core core).pushes.eraseIdx ix
      ∧ t.phys = s.phys ∧ t.l1 = s.l1))
  ∧ (∀ (s : State) (ix : Nat) (m : Msg) (p : Push), Arrives s ix m .fill → m.push = some p → s.l2At m.agent m.line = none →
    sliceRoom s m.agent m.line = true →
    ∃ (t : State) (y : L2Line), exec (.fill ix) s = .next t ∧ t.msgs = s.msgs.eraseIdx ix
      ∧ t.l2At m.agent m.line = some y ∧ y.data = m.data ∧ y.sectors = p.sectors ∧ y.wts = m.time ∧ m.time < y.rts
      ∧ ∀ q ∈ (t.core p.src).pushes, q.id = p.id → q.stage = .toCore))

/-- R292, R296, R297, R300: how a home serves the requests of another die for a line that no agent owns: a read makes it a sharer
and sends the data; a read exclusive makes it the owner; an upgrade of the only sharer is granted without data; an upgrade beside
other sharers invalidates them first.
R297, R298: what a home makes of the answers and write-backs: the last acknowledgement grants the line; a PutM gives its data
to the home and frees the line, a PutE frees it; an Evict removes the sharer; a recall's answer frees the line.
R299 to R301, R313, R314: what a proxy makes of the home's messages: shared data are installed; a grant makes it the owner and
opens the window of the core that asked; an Inv and a Rcl give the line up, with the leases and the data; a PutAck ends a
write-back; a line dropped for room tells the home. -/
def Obligations.DirectoryMessages : Prop := (
  ∀ (s : State) (ix : Nat) (m : Msg), m.agent < 8 → hostLine m.line = false → (∀ x ∈ s.windows, x.line ≠ m.line) → HomeServes s m.line →
    let d := s.dirAt m.line
    let home := homeDie m.line
    let owned (t : State) : Prop := (t.dirAt m.line).hi = .M ∧ (t.dirAt m.line).lo = .M ∧ (t.dirAt m.line).ownHi = m.agent
      ∧ (t.dirAt m.line).ownLo = m.agent ∧ (t.dirAt m.line).serving = none ∧ (t.dirAt m.line).sharers = []
    let granted (t : State) (r : Msg) : Prop := owned t ∧ r.excl = true
      ∧ ∀ y, s.l2At home m.line = some y → y.wts < r.time ∧ y.rts < r.time
    (Arrives s ix m .rdS → d = {} → Answers (.rds ix) s ix .data m.line m.agent (fun t r =>
      r.data = (homeLine s m.line).1 ∧ r.excl = false ∧ (t.dirAt m.line).hi = .S ∧ (t.dirAt m.line).lo = .S
      ∧ (t.dirAt m.line).sharers = [m.agent]))
    ∧ (Arrives s ix m .rdX → d = {} → Answers (.rdx ix) s ix .data m.line m.agent (fun t r =>
      r.data = (homeLine s m.line).1 ∧ granted t r))
    ∧ (Arrives s ix m .upg → d = { hi := .S, lo := .S, ptrs := [m.agent] } →
      Answers (.upg ix) s ix .gntX m.line m.agent granted)
    ∧ (∀ a, Arrives s ix m .upg → a ≠ home → a ≠ m.agent → d = { hi := .S, lo := .S, ptrs := [m.agent, a] } →
      Answers (.upg ix) s ix .inv m.line a (fun t _ => (t.dirAt m.line).hi = .XA ∧ (t.dirAt m.line).lo = .XA
        ∧ (t.dirAt m.line).nack = 1 ∧ (t.dirAt m.line).serving = some (.agent .upg m.agent 3)))) ∧ (
  ∀ (s : State) (ix : Nat) (m : Msg), m.agent < 8 → hostLine m.line = false → (∀ x ∈ s.windows, x.line ≠ m.line) → HomeServes s m.line →
    let d := s.dirAt m.line
    let free (t : State) : Prop := (t.dirAt m.line).hi = .I ∧ (t.dirAt m.line).lo = .I ∧ (t.dirAt m.line).sharers = []
    let mine : Dir := { hi := .M, lo := .M, ownHi := m.agent, ownLo := m.agent }
    let recalled : Dir := { mine with hi := .FR, lo := .FR, serving := some .unit }
    (∀ a, a ≠ m.agent → Arrives s ix m .invAck →
      d = { hi := .XA, lo := .XA, ptrs := [a, m.agent], nack := 1, req := a, serving := some (.agent .upg a 3) } →
      Answers (.invack ix) s ix .gntX m.line a (fun t r => (t.dirAt m.line).hi = .M ∧ (t.dirAt m.line).lo = .M
        ∧ (t.dirAt m.line).ownHi = a ∧ (t.dirAt m.line).ownLo = a ∧ (t.dirAt m.line).serving = none ∧ m.time < r.time))
    ∧ (Arrives s ix m .putM → d = mine → Answers (.putm ix) s ix .putAck m.line m.agent (fun t _ =>
        free t ∧ homeLine t m.line = (m.data, m.poison) ∧ ∀ line j, line < 2 ^ 45 → line ≠ m.line → homeByte t line j = homeByte s line j))
    ∧ (Arrives s ix m .putE → d = mine → Answers (.pute ix) s ix .putAck m.line m.agent (fun t _ =>
        free t ∧ ∀ line j, homeByte t line j = homeByte s line j))
    ∧ (Arrives s ix m .evict → d = { hi := .S, lo := .S, ptrs := [m.agent] } →
        ∃ t, exec (.evict ix) s = .next t ∧ t.msgs = s.msgs.eraseIdx ix ∧ free t ∧ ∀ line j, homeByte t line j = homeByte s line j)
    ∧ (Arrives s ix m .rclData → d = recalled →
        ∃ t, exec (.rcldata ix) s = .next t ∧ t.msgs = s.msgs.eraseIdx ix ∧ free t ∧ (t.dirAt m.line).serving = none
          ∧ homeLine t m.line = (m.data, m.poison))
    ∧ (Arrives s ix m .rclAck → d = recalled →
        ∃ t, exec (.rclack ix) s = .next t ∧ t.msgs = s.msgs.eraseIdx ix ∧ free t ∧ (t.dirAt m.line).serving = none)) ∧ (
  ∀ (s : State) (ix : Nat) (m : Msg), m.agent < 8 →
    let a := m.agent
    (Arrives s ix m .data → m.excl = false → sliceRoom s a m.line = true → ∃ (t : State) (y : L2Line), exec (.data ix) s = .next t
      ∧ t.msgs = s.msgs.eraseIdx ix ∧ t.l2At a m.line = some y ∧ y.data = m.data ∧ y.wts = m.time ∧ y.own = false)
    ∧ (∀ key x, Arrives s ix m .gntX → s.l2At a m.line = some x → x.sectors = 15 → nearWaiter s a m.line = some key →
      ∃ (t : State) (y : L2Line) (z : Window), exec (.gntx ix) s = .next t ∧ t.msgs = s.msgs.eraseIdx ix
        ∧ t.l2At a m.line = some y ∧ y.own = true ∧ y.data = x.data ∧ y.wts = m.time
        ∧ t.windows = s.windows ++ [z] ∧ z.key = key ∧ z.line = m.line ∧ z.data = x.data ∧ z.grant = some m.time
        ∧ z.ends = s.arith + 64)
    ∧ (∀ x, Arrives s ix m .inv → s.l2At a m.line = some x → Answers (.inv ix) s ix .invAck m.line a (fun t r =>
        t.l2At a m.line = none
          ∧ r.time = max (if max (s.die a).dt m.dt ≤ s.goneAt a m.line then s.goneAt a m.line else 0) x.rts))
    ∧ (∀ x, Arrives s ix m .rcl → s.l2At a m.line = some x → x.own = true → x.putting = false →
        (∀ y ∈ s.windows, y.line = m.line → l1Core y.key / 32 ≠ a) →
        Answers (.rcl ix) s ix .rclData m.line a (fun t r => t.l2At a m.line = none ∧ r.data = x.data ∧ r.time = x.wts))
    ∧ (∀ x, Arrives s ix m .putAck → s.l2At a m.line = some x → x.putting = true →
        ∃ t, exec (.putack ix) s = .next t ∧ t.msgs = s.msgs.eraseIdx ix ∧ t.l2At a m.line = none)
    ∧ (∀ x line, line < 2 ^ 45 → s.l2At a line = some x → a ≠ homeDie line → x.own = false → x.putting = false → s.msgs = [] →
        s.dirAt line = {} →
        ∃ (t : State) (r : Msg), exec (.proxyEvict a line) s = .next t ∧ t.msgs = [r] ∧ r.kind = .evict ∧ r.line = line
          ∧ r.agent = a ∧ t.l2At a line = none ∧ t.goneAt a line = max x.rts (s.goneAt a line)))

/-! ### Maintenance and power (R210 to R214, R461) -/

/-- R210 to R212: CWB and CINV do one line in each turn: CWB and CINV `.l2` write its modified copy to its memory, CINV `.l1` drops
the core's copy, CINV `.l2` every copy; PXI counts the lines; a PXI of another kind or a count too high traps.
R213: TLBI drops the translations in its scope, and the L1 lines of their pages, and no other.
That CWB and CINV do one line in each turn is the model's reading (log 103). -/
def Obligations.MaintenanceWords : Prop := (
  ∀ (f : RWord) (s : State) (sp : Split),
    let w := seen s sp
    let g := s.group w.grp
    let core := s.issuer / 32
    let a := (w.areg f.a).toNat
    let n := linesOf a ((w.uni f.b).toNat % 2 ^ 32)
    let pxiAt (kind k : Nat) : Prop := w.pxi = BitVec.ofNat 64 (kind * 2 ^ 60 + k) ∨ (k = 0 ∧ w.pxi = 0)
    let vl (k : Nat) : Nat := (a / 128 + k) % 2 ^ 73
    let mapped (k line : Nat) : Prop := ∃ level place pte, walk s g.root (vl k * 128) g.asid = .leaf level place pte
      ∧ WalkCalm s (vl k * 128) g.asid 5 g.root
      ∧ line = (pteFrame pte + vl k * 128 % 2 ^ levelShift level) / 128 ∧ pteCast pte = false ∧ pteProt pte = false
      ∧ unpopulated (line * 128) = false ∧ (s.msgs.any (fun m => m.line == line)) = false
      ∧ earlierOnLine s core s.issuer (s.nameOf s.issuer) s.nextId line .virt = false ∧ AtHome s line
    let strays (i : Instr) : Prop := exec i s = .next (conclude s (slotCtx s f sp) f.h false false
      (.trap .illegalOperand (wordInfo w sp) sp.mask))
    (Issues shCwb f false [] s sp →
      (n = 0 → w.pxi = 0 → Completes (.cwb f) f s sp false w)
      ∧ (w.pxi ≠ 0 → (∀ k, k < n → ¬ pxiAt 5 k) → strays (.cwb f))
      ∧ (∀ k line, k < n → pxiAt 5 k → mapped k line → RangeTurn (.cwb f) f s sp 5 n k (fun t => Cleaned s t line
          ∧ t.l2At (homeDie line) line = (s.l2At (homeDie line) line).map (fun l => { l with dirty := false }))))
    ∧ (Issues shCinvL1 f false [] s sp →
      (w.pxi ≠ 0 → (∀ k, k < n → ¬ pxiAt 6 k) → strays (.cinvL1 f))
      ∧ (∀ k, k < n → pxiAt 6 k → windowOf s (l1Key core g.asid (vl k)) = none →
          RangeTurn (.cinvL1 f) f s sp 6 n k (fun t => t.phys = s.phys
            ∧ ∀ key, SMap.find t.l1 key = if key = l1Key core g.asid (vl k) then none else SMap.find s.l1 key)))
    ∧ (Issues shCinvL2 f false [] s sp →
      (∀ k line, k < n → pxiAt 6 k → mapped k line → RangeTurn (.cinvL2 f) f s sp 6 n k (fun t => Cleaned s t line
          ∧ (∀ d, d < 8 → t.l2At d line = none) ∧ ∀ key c, SMap.find t.l1 key = some c → c.line ≠ line)))) ∧ (
  ∀ (f : RWord) (s : State) (sp : Split), s.windows = [] →
    let w := seen s sp
    let asid := (w.uni f.b).toNat % 2 ^ 16
    let va := (w.areg f.a).toNat
    let cl := s.issuer / 128
    let inScope (c : Nat) : Prop := c < 64 ∧ (f.mod 2 0 = 2 → c = cl) ∧ (f.mod 2 0 = 3 → c / 8 = cl / 8)
    let unit (x : State) (c : Nat) : List TlbEntry := SMap.look [] x.tlb c
    let does (i : Instr) (gone : Nat → TlbEntry → Prop) (lines : Nat → Nat → Prop) : Prop :=
      ∃ t : State, exec i s = .next (ended t f sp false w none) ∧ t.warps = s.warps ∧ t.phys = s.phys ∧ t.l2 = s.l2
        ∧ (∀ c e, e ∈ unit t c ↔ e ∈ unit s c ∧ ¬(inScope c ∧ gone c e))
        ∧ (∀ key, inScope (l1Core key / 4) → lines (l1Core key / 4) key → SMap.find t.l1 key = none)
        ∧ (∀ key, ¬(inScope (l1Core key / 4) ∧ lines (l1Core key / 4) key) → SMap.find t.l1 key = SMap.find s.l1 key)
    s.issuer < 8192 →
    (Issues (shTlbiVa f) f false [] s sp → does (.tlbiVa f) (fun c e => tlbFind s c asid va = some e)
      (fun c key => l1Asid key = asid ∧ match tlbFind s c asid va with
        | some e => l1Vline key * 128 / 2 ^ e.shift = e.page
        | none => l1Vline key * 128 / 2 ^ 16 = va / 2 ^ 16))
    ∧ (Issues (shTlbiAsid f) f false [] s sp → does (.tlbiAsid f) (fun _ e => e.asid = asid) (fun _ key => l1Asid key = asid))
    ∧ (Issues (shTlbiAll f) f false [] s sp → does (.tlbiAll f) (fun _ _ => True) (fun _ _ => True)))

/-- R214, R461: PGATE is refused, or takes the core to PREP without L1 lines; WAKE ends a preparation with 1, or is latched after the
commit point; the gating then commits, answers 0 and powers down, and a latched wake powers the core up. -/
def Obligations.PowerWords : Prop :=
  (∀ (f : RWord) (s : State) (sp : Split),
    let w := seen s sp
    let core := (w.uni f.a).toNat % 2 ^ 8
    let k := s.core core
    let dst := f.dst.toNat - 0x100
    let barred : Prop := core = s.issuer / 32 ∨ (∃ g, SMap.has s.groups g = true ∧ g / 32 = core) ∨ k.cmds ≠ [] ∨ k.sidelog ≠ []
    (Issues shPgate f false [] s sp →
      (barred → ∃ t : State, Crossed s t (s.issuer / 1024) (core / 32)
          ∧ exec (.pgate f) s = .next (ended t f sp false (w.setS dst 2) none))
      ∧ (¬ barred → k.power = .on → (∀ x ∈ s.windows, l1Core x.key ≠ core) →
        ∃ t : State, exec (.pgate f) s = .next (ended t f sp false { w with block := .gate core dst } none)
          ∧ t.warps = s.warps ∧ (t.core core).power = .prep ∧ t.phys = s.phys
          ∧ ∀ key, SMap.find t.l1 key = if l1Core key = core then none else SMap.find s.l1 key))
    ∧ (Issues shWake f false [] s sp →
      (k.power = .on → ∃ t : State, Crossed s t (s.issuer / 1024) (core / 32) ∧ exec (.wake f) s = .next (ended t f sp false w none))
      ∧ (k.power = .commit ∨ k.power = .off →
        ∃ t : State, Crossed s t (s.issuer / 1024) (core / 32)
          ∧ exec (.wake f) s = .next (ended (t.setCore core { k with wake := true }) f sp false w none))
      ∧ (k.power = .prep → w.block = .free → ∃ t : State, exec (.wake f) s = .next (ended t f sp false w none)
        ∧ t.cores = (s.setCore core { k with power := .on }).cores ∧ t.phys = s.phys
        ∧ ∀ wp, t.warp wp = match (s.warp wp).block with
          | .gate c n => if c = core then { (s.warp wp).setS n 1 with block := .free } else s.warp wp
          | _ => s.warp wp)))
  ∧ (∀ (s : State) (core : Nat),
    let k := s.core core
    (k.power = .prep → exec (.gatePrepComplete core) s = .next (s.setCore core { k with power := .commit }))
    ∧ (k.power = .commit → ∃ t, exec (.gatePrepComplete core) s = .next t
      ∧ t.cores = (s.setCore core { k with power := .off }).cores ∧ t.phys = s.phys
      ∧ ∀ wp, t.warp wp = match (s.warp wp).block with
        | .gate c n => if c = core then { (s.warp wp).setS n 0 with block := .free } else s.warp wp
        | _ => s.warp wp)
    ∧ (k.power = .off → k.wake = true →
      exec (.gatePowerUp core) s = .next (s.setCore core { k with power := .on, wake := false })))

/-! ### Faults of pages, the side log and victims (R256 to R264) -/

/-- R256: an LDU whose line is not mapped holds its warp and asks the service, by a record when the host serves; once the service has
refused the page, PAGE_FAULT_LOAD or PERMISSION is raised with the page in TRAPINFO.
R256, R259, R261: an answer of the page-fault service: a warp without further requests goes on, with the page when it is refused;
an entry of the side log may be replayed, or is to fail; a mapping is written where the walk stopped.
That the service writes the entry at which the walk stopped is the model's reading (log 90). -/
def Obligations.FaultsHoldUntilAnswered : Prop := (
  ∀ (f : RWord) (s : State) (sp : Split) (t : Nat) (place : Nat) (pte : Word), Issues (shLdu f) f false [] s sp →
    let w := seen s sp
    let g := s.group w.grp
    let core := s.issuer / 32
    let a := eaA s sp f t
    let n := sizeA f
    (lanesIn s f sp).head? = some t → a % 128 + n ≤ 128 → acquirePending (s.core core) s.issuer = false →
    heldLine s s.issuer g.asid (a / 128) = false → tlbFind s (core / 4) g.asid (a / 128 * 128) = none →
    SMap.find s.l1 (l1Key core g.asid (a / 128)) = none → windowOf s (l1Key core g.asid (a / 128)) = none →
    walk s g.root (a / 128 * 128) g.asid = .stop place pte false → walk s g.root (a / 2 ^ 16 * 2 ^ 16) g.asid = .stop place pte false →
    WalkCalm s (a / 128 * 128) g.asid 5 g.root → pteRegen pte = false →
    (w.verdict = [] → ∃ (u : State) (r : FaultReq), exec (.ldu f) s = .next u
      ∧ u.warp s.issuer = { s.warp s.issuer with block := .fault, gather := none } ∧ u.phys = s.phys ∧ u.cores = s.cores
      ∧ u.reqs = s.reqs ++ [r] ∧ r.asker = .warp s.issuer ∧ r.asid = g.asid ∧ r.root = g.root ∧ r.va = a / 2 ^ 16 * 2 ^ 16
      ∧ r.need = 0 ∧ r.host = s.mode.getLsbD 6
      ∧ (s.mode.getLsbD 6 = true → s.ring = none → s.log.length < 1024 → ∃ x, u.log = s.log ++ [x] ∧ x.extractLsb' 0 8 = 0x10))
    ∧ (∀ perm, w.verdict = [(a / 2 ^ 16, perm)] → exec (.ldu f) s = .next (conclude s (slotCtx s f sp) f.h false false
        (.trap (if perm then .permission else .pageFaultLoad) (BitVec.ofNat 64 (a / 2 ^ 16)) (1#128 <<< t))))) ∧ (
  ∀ (s : State) (r : FaultReq) (pte : Word),
    findReq s r.id = some r → r.host = false → r.regen = 0 → walkBusy s r.root r.va r.asid = false →
    regenPage s r.root r.va r.asid = false →
    let left : List FaultReq := s.reqs.filter (fun q => q.id != r.id)
    let waits (wp : Nat) : Prop := r.asker = .warp wp ∧ (∃ x, SMap.find s.warps wp = some x) ∧ (s.warp wp).block = .fault
      ∧ ∀ q ∈ left, q.asker ≠ .warp wp
    let entry (core id : Nat) (x : Store) : Prop := r.asker = .side core id ∧ x ∈ (s.core core).sidelog ∧ x.id = id
      ∧ x.req = some r.id
    (pteV pte = false → mapped s r.root r.va r.asid = true →
      (∃ t, exec (.pageFaultService r.id 0 pte) s = .next t ∧ t.reqs = left ∧ t.phys = s.phys
        ∧ (∀ wp, waits wp → t.warp wp = { s.warp wp with block := .free })
        ∧ (∀ core id x, entry core id x → { x with req := none, ready := true } ∈ (t.core core).sidelog))
      ∧ (∃ t, exec (.pageFaultService r.id 3 pte) s = .next t ∧ t.reqs = left ∧ t.phys = s.phys
        ∧ (∀ wp, waits wp → t.warp wp =
            { s.warp wp with block := .free, verdict := (s.warp wp).verdict ++ [(r.va / 2 ^ 16, true)] })
        ∧ (∀ core id x, entry core id x →
            { x with req := none, ready := true, fail := true, reason := 1 } ∈ (t.core core).sidelog)))
    ∧ (pteV pte = true → mapped (writePte s r.root r.va r.asid pte) r.root r.va r.asid = true →
      exec (.pageFaultService r.id 0 pte) s = .next (answer (writePte s r.root r.va r.asid pte) r none))
    ∧ (mapped s r.root r.va r.asid = false → ∃ t, exec (.pageFaultService r.id 2 pte) s = .next t ∧ t.reqs = left ∧ t.phys = s.phys
        ∧ (∀ wp, waits wp → t.warp wp =
            { s.warp wp with block := .free, verdict := (s.warp wp).verdict ++ [(r.va / 2 ^ 16, false)] })
        ∧ (∀ core id x, entry core id x →
            { x with req := none, ready := true, fail := true, reason := 0 } ∈ (t.core core).sidelog))
    ∧ (∀ place x, walk s r.root r.va r.asid = .stop place x false → place % 8 = 0 → AtHome s (place / 128) →
        entryWord (writePte s r.root r.va r.asid pte) place r.asid = pte))

/-- R259, R261, R241: the first entry of its line that stands behind no other (as log 124 reads the rule) is performed as its
store would have been, once its page grants it; one that is to fail is dropped, its launch is faulted, no byte changes, and its warp
receives STORE_REPLAY_FAIL.
R263, R264: a regeneration that ends writes its page's entry with the frame that it filled and lets those that wait for the page go on, or
refuses them; a sampled page loses its accessed bit; a victim's entry is invalid and its lines leave, written back unless it can be
regenerated.
That STORE_REPLAY_FAIL has no lanes is the model's choice (log 129). -/
def Obligations.SideLogReplaysAndVictims : Prop := (
  ∀ (s : State) (core ix : Nat) (x : Store),
    (s.core core).sidelog[ix]? = some x → x.core = core → x.space = .virt → x.rel = false → x.exits = 0 →
    firstOfLine (s.core core) x = true →
    (behindEntry s x = true → exec (.sideLogReplay core ix) s = .next s) ∧ (behindEntry s x = false →
    (∀ e, x.op ≤ 2 → x.fail = false → x.ready = true → x.va % 128 = 0 → Granted s core x.asid (x.va / 128) .write e →
      let line := lineIn e (x.va / 128)
      AtHome s line → (∀ y ∈ (s.core core).stores, y.id ≠ x.id) → engineHolds s line x.id = false →
      earlierOnLine s core x.warp x.name x.id line .virt = false → strays s core x.name x.asid (x.va / 128) = [] →
      strayOf s { x with line := line, pte := e.pte } = [] →
      ∃ t, exec (.sideLogReplay core ix) s = .next t
        ∧ (t.core core).sidelog = (s.core core).sidelog.filter (fun y => y.id != x.id)
        ∧ (t.core core).stores = (s.core core).stores
        ∧ ∀ n j, n < 2 ^ 45 → j < 128 →
            homeByte t n j = if n = line ∧ x.bmask.getLsbD j = true then lineByte x.data j else homeByte s n j)
    ∧ (x.fail = true → SMap.has s.launches x.launch = true →
      ∃ t, exec (.sideLogReplay core ix) s = .next t ∧ (∀ y ∈ (t.core core).sidelog, y.id ≠ x.id)
        ∧ (t.launch x.launch).faulted = true ∧ (x.group, x.index, x.lanes) ∈ (t.launch x.launch).withheld
        ∧ t.phys = s.phys ∧ t.l2 = s.l2
        ∧ (∀ wp, failWarp s x = some wp → (s.warp wp).trapvec.getLsbD 63 = true → (s.warp wp).pend.length < 8 →
            wp ∈ (s.group (s.warp wp).grp).warps → (s.group (s.warp wp).grp).faulted = false →
            let info : Nat := (if x.reason = 0 then 0 else 2 ^ 38) + (if warpGone s x then 2 ^ 37 else 0) + x.warp % 32 * 2 ^ 32 + x.pc.toNat
            (t.warp wp).pend = enqueueTrap (s.warp wp).pend { cause := .storeReplayFail, info := BitVec.ofNat 64 info, cycle := some s.arith })))) ∧ (
  (∀ (s : State) (r : FaultReq) (pte : Word), findReq s r.id = some r → r.regen = 1 → (s.reqs.map FaultReq.id).Nodup → s.msgs = [] →
    let here (q : FaultReq) : Bool := q.id == r.id || samePage s q r
    let left : List FaultReq := s.reqs.filter (fun q => !here q)
    (r.ended = some true → ∃ t, exec (.regenerationComplete r.id true pte) s = .next t ∧ t.reqs = left
      ∧ ∀ q ∈ s.reqs, here q = true → ∀ wp, q.asker = .warp wp → (∃ x, SMap.find s.warps wp = some x) → (s.warp wp).block = .fault →
          (q.va / 2 ^ 16, false) ∈ (t.warp wp).verdict)
    ∧ (∀ place x, r.ended = some false → pteV pte = true → pteFrame pte = r.frame → walk s r.root r.va r.asid = .stop place x false →
        place % 8 = 0 → AtHome s (place / 128) →
        ∃ t, exec (.regenerationComplete r.id false pte) s = .next t ∧ t.reqs = left ∧ entryWord t place r.asid = pte
          ∧ ∀ q ∈ s.reqs, here q = true → ∀ wp, q.asker = .warp wp → (∃ x, SMap.find s.warps wp = some x) → (s.warp wp).block = .fault →
              (∀ q ∈ left, q.asker ≠ .warp wp) → t.warp wp = { s.warp wp with block := .free }))
  ∧ (∀ (s : State) (asid : Nat) (va : Addr) (root level place : Nat) (x : Word),
    s.mode.getLsbD 6 = false → rootOf s asid = some root → walk s root va.toNat asid = .leaf level place x → pteCast x = false → place % 8 = 0 →
    s.windows = [] → s.dir = [] → s.msgs = [] → hostLine (place / 128) = false → sliceRoom s (homeDie (place / 128)) (place / 128) = true →
    (∀ k ∈ s.cores, k.2.loads = [] ∧ k.2.stores = [] ∧ k.2.pushes = []) →
    let pa := pteFrame x
    let n := 2 ^ levelShift level
    let within (line : Nat) : Prop := pa / 128 ≤ line ∧ line < (pa + n) / 128
    let shot (t : State) : Prop := ∀ c e, c < 64 → e ∈ SMap.look [] t.tlb c →
      ¬(e.asid = asid ∧ e.shift = levelShift level ∧ e.page = va.toNat / n)
    (x.getLsbD 5 = true → ∃ t, exec (.victimEvict asid va) s = .next t ∧ shot t
      ∧ entryWord t place asid = x &&& ~~~ 0x20#64)
    ∧ (x.getLsbD 5 = false → ¬ within (place / 128) → ∃ t, exec (.victimEvict asid va) s = .next t ∧ shot t
      ∧ entryWord t place asid = x &&& ~~~ 1#64
      ∧ ∀ line, within line → hostLine line = false → t.l2At (homeDie line) line = none
          ∧ (pteRegen x = true → rawLine t line = rawLine s line)
          ∧ (∀ l, pteRegen x = false → s.l2At (homeDie line) line = some l → l.dirty = true → rawLine t line = l.data))))

/-! ### Class 8: work commands and sluices (R316 to R348) -/

/-- R316 to R319, R323, R325, R329, R330, R336, R341, R343, R344: each work command, once its issue checks pass, takes its slot with what it
is to do.
That only CPYT of these may reach a packed area is the model's reading of R329 (log 147), as are the hull of a CPYT's tiles as its ranges (log
56) and an area of `.pinit` registered at the issue (log 63). -/
def Obligations.WorkCommandsStart : Prop :=
  ∀ (f : RWord) (s : State) (sp : Split), (slotCtx s f sp).act ≠ 0 →
    let w := seen s sp
    let g := s.group w.grp
    let core := s.issuer / 32
    let k := s.core core
    let x := (w.uni f.c).toNat
    let owned (gate : Nat) : Prop := (SMap.look {} k.sluices (gate % 64)).owner = some w.grp
    let inStore (o n : Nat) : Prop := o + n ≤ g.lsSize
    let room (o n : Nat) : List (Nat × Nat × Bool) := granules (g.lsBase + o) n true
    let source (o n : Nat) : List (Nat × Nat × Bool) := granules (g.lsBase + o) n false
    let claimed (q : Nat) : Prop := (SMap.look {} k.dross q).owner = some w.grp
    (Issues (shCpy f) f false [] s sp →
      let side (code : Nat) (c : BitVec 9) : EngAddr :=
        if code = 0 then ⟨.virt, (w.areg c).toNat⟩ else if code = 1 then ⟨.ls, (w.uni c).toNat⟩ else ⟨.vault, (w.uni c).toNat⟩
      let d := side (f.mod 6 5) f.a
      let a := side (f.mod 4 3) f.b
      let n := x % 2 ^ 32
      let gate := if x / 2 ^ 39 = 1 then some (x / 2 ^ 32 % 128) else none
      let fits (y : EngAddr) : Prop := (y.space = .ls → y.addr < 2 ^ 20 ∧ (n ≠ 0 → inStore y.addr n))
        ∧ (y.space = .vault → y.addr < 2 ^ 33 ∧ (n ≠ 0 → vaultRefuses g.grant y.addr n = false))
      x < 2 ^ 40 → (∀ z, gate = some z → owned z) → fits d → fits a → engPacked g d n = false → engPacked g a n = false →
      TakesSlot (.cpy f) f s sp (f.mod 2 2 = 1)
        ((if d.space = .ls then room d.addr n else []) ++ (if a.space = .ls then source a.addr n else []))
        (fun t m => m.kind = .cpy ∧ m.dst = d ∧ m.src = a ∧ m.len = n ∧ m.gate = gate ∧ t.groups = s.groups))
    ∧ (Issues (shCpyt f) f false [] s sp → x < 2 ^ 36 → (f.mod 4 3 = 0 → x / 2 ^ 32 % 16 = 0) →
      ((w.uni f.c).getLsbD 31 = true → owned (x / 2 ^ 24 % 128)) →
      let va : EngAddr := ⟨.virt, (w.a (x / 2 ^ 32 % 16)).toNat⟩
      let m0 : Cmd := { kind := .cpyt, warp := s.issuer, grp := w.grp, launch := g.launch, token := f.dst.toNat - 0x100, scope := f.scope,
                        recD := w.d f.a.toNat, recS := w.d f.b.toNat, ctl := w.uni f.c, len := x % 2 ^ 16,
                        kindBits := f.mod 4 3 + 4 * f.mod 5 5 + 8 * f.mod 6 6,
                        src := if f.mod 4 3 = 1 then va else {}, dst := if f.mod 4 3 = 2 then va else {},
                        gate := if (w.uni f.c).getLsbD 31 then some (x / 2 ^ 24 % 128) else none }
      cpytTrap g m0 f.a.toNat f.b.toNat (x % 2 ^ 16) = none →
      TakesSlot (.cpyt f) f s sp false (((cpytSpans g m0 (x % 2 ^ 16)).map (fun y => granules y.lo y.n y.write)).flatten)
        (fun t m => m.kind = .cpyt ∧ m.recD = m0.recD ∧ m.recS = m0.recS ∧ m.ctl = m0.ctl ∧ m.len = m0.len ∧ m.kindBits = m0.kindBits
          ∧ m.src = m0.src ∧ m.dst = m0.dst ∧ m.gate = m0.gate ∧ t.groups = s.groups))
    ∧ (Issues (shCpytPinit f) f false [] s sp →
      let o := (w.uni f.a).toNat
      let tiles := (w.uni f.b).toNat % 256
      let sz := (w.uni f.b).toNat / 256
      g.packed.length < 4 → 1 ≤ tiles → tiles ≤ 128 → 128 ≤ sz → sz ≤ 8192 → sz % 128 = 0 → inStore o (128 + 256 * tiles + sz * tiles) →
      (∀ p ∈ g.packed, o + (128 + 256 * tiles + sz * tiles) ≤ p.1 ∨ p.1 + (128 + 256 * p.2.1 + p.2.2 * p.2.1) ≤ o) →
      TakesSlot (.cpytPinit f) f s sp false (room o (128 + 256 * tiles)) (fun t m => m.kind = .pinit ∧ m.dst = ⟨.ls, o⟩ ∧ m.len = tiles
        ∧ m.ctl = BitVec.ofNat 64 sz ∧ t.group w.grp = { g with packed := g.packed ++ [(o, tiles, sz)] }))
    ∧ (Issues (shSkim f) f false [] s sp →
      let a := (w.uni f.a).toNat
      let o := (w.uni f.b).toNat
      let q := x / 256 % 4
      let gate := if (w.uni f.c).getLsbD 20 then some (x / 2 ^ 13 % 128) else none
      let n := if x / 2 ^ 11 % 4 = 0 then 1024 else 512
      let out := if (w.uni f.c).getLsbD 10 then 8 * (x % 128) else 4 * (x % 128)
      x < 2 ^ 21 → (w.uni f.c).getLsbD 7 = false → x / 2 ^ 11 % 4 ≤ 1 → 1 ≤ x % 128 → x % 128 ≤ 64 →
      ((SMap.look {} k.dross q).owner = none ∨ claimed q) → (∀ z, gate = some z → owned z) → inStore a n → inStore o out →
      touchesPacked g a n = false → touchesPacked g o out = false →
      TakesSlot (.skim f) f s sp false (source a n ++ room o out) (fun t m => m.kind = .skim ∧ m.src = ⟨.ls, a⟩ ∧ m.dst = ⟨.ls, o⟩
        ∧ m.len = n ∧ m.ctl = w.uni f.c ∧ m.gate = gate ∧ t.groups = s.groups
        ∧ (SMap.look {} (t.core core).dross q).owner = some w.grp
        ∧ (claimed q → (t.core core).dross = k.dross)))
    ∧ (Issues (shSkim f) f false [] s sp →
      let a := (w.uni f.a).toNat
      let o := (w.uni f.b).toNat
      let n := x % 2 ^ 32
      let nb := x / 2 ^ 32 % 1024 + 1
      x < 2 ^ 48 → n ≤ 2 ^ 18 → (n ≠ 0 → inStore a (4 * n) ∧ touchesPacked g a (4 * n) = false) → inStore o (4 * nb) →
      touchesPacked g o (4 * nb) = false →
      TakesSlot (.bin f) f s sp false (source a (4 * n) ++ room o (4 * nb) ++ (if x / 2 ^ 47 = 1 then source o (4 * nb) else []))
        (fun t m => m.kind = .bin ∧ m.src = ⟨.ls, a⟩ ∧ m.dst = ⟨.ls, o⟩ ∧ m.len = n ∧ m.ctl = w.uni f.c ∧ t.groups = s.groups))
    ∧ (Issues (shDrossRd f) f false [] s sp →
      let q := (w.uni f.a).toNat
      let o := (w.uni f.b).toNat
      q < 4 → claimed q → inStore o 1024 → touchesPacked g o 1024 = false →
      TakesSlot (.drossRd f) f s sp false (room o 1024)
        (fun t m => m.kind = .drossRd ∧ m.dst = ⟨.ls, o⟩ ∧ m.ctl = BitVec.ofNat 64 (256 * q) ∧ t.groups = s.groups))
    ∧ (Issues (shDrossClr f) f false [] s sp →
      let q := (w.uni f.a).toNat
      q < 4 → claimed q → TakesSlot (.drossClr f) f s sp false []
        (fun t m => m.kind = .drossClr ∧ m.ctl = BitVec.ofNat 64 (256 * q) ∧ t.groups = s.groups))

/-- R326, R330, R335: a unit that lands copies at most one aligned line of a CPY's destination, whatever the two spaces, counts its
bytes and lowers its gate's balance; a tile of a CPYT between plain shapes of one format copies each line.
R319 to R321, R329, R341 to R344: what a command performs as it ends, and its token: SKIM keeps the largest magnitudes and leaves the
rest in its slot; BIN counts; DROSS reads or clears a slot; CPYT `.pinit` formats an area; a copy that has landed gives its amount,
a stop its reason and page.
The amount of `.pinit`, 128 + 256 T bytes (log 63), and a record of class 0x0C for every reason of a stop (log 67) are the model's readings. -/
def Obligations.CopiesLandAndCommandsComplete : Prop := (
  ∀ (s : State) (core n : Nat) (m : Cmd), SMap.find (s.core core).cmds n = some m → cmdReady s core n m = true →
    m.finished = false → m.done < m.len → (∀ z, m.gate = some z → z < 128) → reportTurn (s.core core) m = true → s.msgs = [] →
    let g := s.group m.grp
    let reports (t : State) (bytes : Nat) : Prop := ∀ gate, gate < 128 → (t.core core).gate gate =
      if m.gate = some gate then gateStep ((s.core core).gate gate) false bytes else (s.core core).gate gate
    (m.kind = .cpy →
      let d := m.dst.addr + m.done
      let a := m.src.addr + m.done
      let k := min (m.len - m.done) (128 - d % 128)
      (∀ c ∈ s.cores, ∀ x ∈ c.2.sidelog, x.asid = g.asid → x.name = s.nameOf m.warp → m.seq ≤ x.id) →
      d < 2 ^ 80 → a < 2 ^ 80 → Reaches s core g m.src.space a k .read → Reaches s core g m.dst.space d k .write →
      ∃ (t : State), exec (.copyUnitLand core n) s = .next t
        ∧ SMap.find (t.core core).cmds n =
            some { m with done := m.done + k, amount := m.amount + k, finished := decide (m.done + k = m.len) }
        ∧ (∀ j, j < k → cellAt t core g m.dst.space (d + j) = cellAt s core g m.src.space (a + j))
        ∧ (m.dst.space ≠ .ls → t.ls = s.ls) ∧ (m.dst.space ≠ .vault → t.vault = s.vault) ∧ t.phys = s.phys ∧ t.warps = s.warps
        ∧ (∀ b, (b < d ∨ d + k ≤ b) → m.dst.space ≠ .virt → cellAt t core g m.dst.space b = cellAt s core g m.dst.space b)
        ∧ (∀ line j, line < 2 ^ 45 → j < 128 → homeByte t line j ≠ homeByte s line j →
            m.dst.space = .virt ∧ d % 128 ≤ j ∧ j < d % 128 + k
              ∧ ∃ e, Granted s core g.asid (d / 128) .write e ∧ line = lineIn e (d / 128))
        ∧ reports t k)
    ∧ (m.kind = .cpyt →
      let x := m.dstSide
      let y := m.srcSide
      let i := m.done
      let plain (r : MRec) : Prop := r.space ≤ 1 ∧ r.packed = false ∧ r.boxed = false ∧ r.fmt ≠ 8 ∧ r.fmt < 12 ∧ 0 ≤ r.start i
        ∧ r.minor * r.width % 8 = 0 ∧ r.len ≤ r.pitch ∧ r.block = 0
        ∧ r.start i + r.major * r.pitch < 2 ^ 80
      let mem (u : State) (r : MRec) : Memory := if r.space = 0 then u.ls else u.vault
      let place (r : MRec) (row j : Nat) : Nat := recPlace core g r.space (r.start i).toNat + row * r.pitch + j
      plain x → plain y → x.fmt = y.fmt → x.major = y.major → x.minor = y.minor →
      ∃ t, exec (.copyUnitLand core n) s = .next t
        ∧ (∃ z, SMap.find (t.core core).cmds n = some z ∧ z.done = i + 1 ∧ z.amount = m.amount + x.major * x.len
            ∧ z.finished = decide (i + 1 = m.len))
        ∧ (∀ row j, row < x.major → j < x.len → Memory.byte (mem t x) (place x row j) = Memory.byte (mem s y) (place y row j))
        ∧ (∀ b, (∀ row j, row < x.major → j < x.len → b ≠ place x row j) → Memory.byte (mem t x) b = Memory.byte (mem s x) b)
        ∧ t.phys = s.phys ∧ t.warps = s.warps ∧ reports t (x.major * x.len))) ∧ (
  ∀ (s : State) (core n : Nat) (m : Cmd), SMap.find (s.core core).cmds n = some m → m.warp / 32 = core → m.held = false → Live s m →
    let g := s.group m.grp
    let k := s.core core
    let at_ (o : Nat) : Nat := core * 2 ^ 20 + g.lsBase + o
    let ctl := m.ctl.toNat
    let q := ctl / 256 % 4
    let dross (t : State) (i : Nat) : Lane := SMap.look 0 (SMap.look {} (t.core core).dross q).val i
    let only (t : State) (o len : Nat) : Prop := ∀ a, (a < at_ o ∨ at_ o + len ≤ a) → Memory.byte t.ls a = Memory.byte s.ls a
    (m.err = none → m.kind = .cpy ∨ m.kind = .cpyt → m.finished = true →
      EndsCommand s core n m (BitVec.ofNat 64 (m.amount % 2 ^ 48)) (fun t => t.ls = s.ls))
    ∧ (∀ reason va, m.err = some (reason, va) → reason < 8 →
      EndsCommand s core n m (BitVec.ofNat 64 (2 ^ 63 + reason * 2 ^ 60 + (if reason ≤ 1 then va / 2 ^ 16 % 2 ^ 60 else 0)))
        (fun t => t.ls = s.ls ∧ (s.ring = none → s.log.length < 1024 → ∃ x, t.log = s.log ++ [x] ∧ x.extractLsb' 0 8 = 0x0C)))
    ∧ (m.err = none → m.finished = false → cmdReady s core n m = true → reportTurn k m = true →
      (m.kind = .skim →
        let sz := if m.len = 1024 then 4 else 2
        let v (i : Nat) : Nat := (f32.add rne false (little s.ls (at_ m.src.addr + sz * i) sz * (if sz = 2 then 2 ^ 16 else 1))
          (dross s i).toNat).1
        let mag (i : Nat) : Nat := min (v i % 2 ^ 31) 0x7F800001
        let above (i j : Nat) : Prop := mag j < mag i ∨ (mag i = mag j ∧ i < j)
        let size := if m.ctl.getLsbD 10 then 8 else 4
        ctl % 128 ≤ 64 → m.len = 1024 ∨ m.len = 512 → EndsCommand s core n m (BitVec.ofNat 64 (ctl % 128)) (fun t =>
          ∃ K : List Nat, K.length = ctl % 128 ∧ K.Pairwise above ∧ (∀ i ∈ K, i < 256 ∧ ∀ j, j < 256 → j ∉ K → above i j)
            ∧ (∀ j i, K[j]? = some i → little t.ls (at_ m.dst.addr + size * j) size =
                i + (if m.ctl.getLsbD 10 then v i * 2 ^ 32 else (f32.convert bf16 rne false (v i)).1 * 2 ^ 16))
            ∧ only t m.dst.addr (size * (ctl % 128))
            ∧ ∀ i, i < 256 → dross t i = if i ∈ K then 0 else BitVec.ofNat 32 (v i)))
      ∧ (m.kind = .bin →
        let nb := ctl / 2 ^ 32 % 1024 + 1
        let key (i : Nat) : Nat := little s.ls (at_ m.src.addr + 4 * i) 4
        m.len < 2 ^ 48 → EndsCommand s core n m (BitVec.ofNat 64 m.len) (fun t =>
          (∀ j, j < nb → little t.ls (at_ m.dst.addr + 4 * j) 4 =
            ((if ctl / 2 ^ 47 % 2 = 1 then little s.ls (at_ m.dst.addr + 4 * j) 4 else 0)
              + (List.range m.len).countP (fun i => key i / 2 ^ (ctl / 2 ^ 42 % 32) % nb == j)) % 2 ^ 32)
          ∧ only t m.dst.addr (4 * nb)))
      ∧ (m.kind = .drossRd → EndsCommand s core n m 1024 (fun t =>
          (∀ i, i < 256 → little t.ls (at_ m.dst.addr + 4 * i) 4 = (dross s i).toNat) ∧ only t m.dst.addr 1024))
      ∧ (m.kind = .drossClr → EndsCommand s core n m 0 (fun t => t.ls = s.ls ∧ (∀ i, dross t i = 0)
          ∧ ((∀ p ∈ k.cmds, p.1 ≠ n → p.2.slotOf? ≠ some q) → (SMap.look {} (t.core core).dross q).owner = none)))
      ∧ (m.kind = .pinit → m.len ≤ 128 → ctl < 2 ^ 32 → EndsCommand s core n m (BitVec.ofNat 64 (128 + 256 * m.len)) (fun t =>
          little t.ls (at_ m.dst.addr) 4 = m.len ∧ little t.ls (at_ m.dst.addr + 4) 4 = ctl
          ∧ (∀ i, 8 ≤ i → i < 128 + 256 * m.len → Memory.byte t.ls (at_ m.dst.addr + i) = 0)
          ∧ only t m.dst.addr (128 + 256 * m.len)))))

/-- R333 to R340: SLINIT sets both gates and claims the sluice; SLARR adds one arrival and its bytes; SLWAIT passes once the phase
differs; a gate opens when it has its arrivals and is owed nothing, and carries a surplus over.
R416: within a cycle an SLARR comes before the units' reports and an SLWAIT after them.
R345, R346: BPATCH attaches a patch to the warp's held command that a token names; ERLS starts a held copy with the length that its
patch's count gives as it then stands, or stops it with reason 3; without a held command it has no effect. The traps of BPATCH, and ERLS of a held LAUNCH, are left out here.
That a held copy which its patch makes touch a packed area stops with reason 3 is the model's reading (log 147). -/
def Obligations.SluiceAndReleaseWords : Prop := (
  (∀ (f : RWord) (s : State) (sp : Split), (slotCtx s f sp).act ≠ 0 →
    let w := seen s sp
    let core := s.issuer / 32
    let k := s.core core
    let a := (w.uni f.a).toNat
    let b := (w.uni f.b).toNat
    let mine (x : Nat) : Prop := x < 128 ∧ (k.sluice (x % 64)).owner = some w.grp
    let ill (i : Instr) : Prop := exec i s = .next (conclude s (slotCtx s f sp) f.h false false
      (.trap .illegalOperand (wordInfo w sp) sp.mask))
    (Issues shSlinit f false [] s sp →
      let c := (w.uni f.c).toNat
      let good (x : Nat) : Prop := x % 128 ≠ 0 ∧ x < 2 ^ 30
      let free : Prop := (k.sluice a).owner = none ∨ (k.sluice a).owner = some w.grp
      (a < 64 → good b → good c → free → (∀ p ∈ k.cmds, ∀ z, p.2.gate = some z → z % 64 ≠ a) →
        ∃ (fill drain : Word), exec (.slinit f) s = .next (ended (s.setCore core
            { k with sluices := SMap.set a ⟨some w.grp, fill, drain⟩ k.sluices }) f sp false w none)
          ∧ ∀ x v, (x, v) ∈ [(fill, b), (drain, c)] → x.getLsbD 63 = false ∧ gateGot x = 0 ∧ gateNeed x = v % 128
              ∧ (gateBal x).toNat = v / 128 ∧ gateDue x = v / 128 ∧ x.getLsbD 0 = false)
      ∧ (¬(a < 64 ∧ good b ∧ good c ∧ free) → ill (.slinit f)))
    ∧ (Issues shUni2 f false [] s sp →
      (mine a → b < 2 ^ 23 → gateGot (k.gate a) ≠ gateNeed (k.gate a) → releaseReady s s.issuer s.nextId 1 = true →
        (gateTurn k a 0 = true →
          exec (.slarr f) s = .next (ended (gateSaw (s.setCore core (k.setGate a (gateStep (k.gate a) true b))) core a 0) f sp false w none))
        ∧ (gateTurn k a 0 = false → exec (.slarr f) s = .next s))
      ∧ (mine a → b < 2 ^ 23 → gateGot (k.gate a) = gateNeed (k.gate a) → ill (.slarr f))
      ∧ (mine a → b < 2 → (k.gate a).getLsbD 63 ≠ (b == 1) →
        exec (.slwait f) s = .next (ended (gateSaw (s.acquire core) core (a + 256) 0) f sp false w none))
      ∧ (mine a → b < 2 → (k.gate a).getLsbD 63 = (b == 1) → exec (.slwait f) s = .next s)
      ∧ (¬ mine a → ill (.slarr f) ∧ ill (.slwait f))))
  ∧ (∀ (x : Word) (arrival : Bool) (n : Nat), n < 2 ^ 24 → gateGot x < 127 →
    let y := gateStep x arrival n
    let got := gateGot x + (if arrival then 1 else 0)
    let bal : Int := Int.bmod ((gateBal x).toInt + (if arrival then (n : Int) else -n)) (2 ^ 25)
    gateNeed y = gateNeed x ∧ gateDue y = gateDue x
    ∧ (got = gateNeed x → bal ≤ 0 → y.getLsbD 63 = !x.getLsbD 63 ∧ gateGot y = 0
        ∧ (gateBal y).toInt = Int.bmod (bal + gateDue x) (2 ^ 25))
    ∧ (got ≠ gateNeed x ∨ 0 < bal → y.getLsbD 63 = x.getLsbD 63 ∧ gateGot y = got ∧ (gateBal y).toInt = bal))) ∧ (
  ∀ (f : RWord) (s : State) (sp : Split), (slotCtx s f sp).act ≠ 0 →
    let w := seen s sp
    let g := s.group w.grp
    let core := s.issuer / 32
    let k := s.core core
    (∀ n m, Issues { shBpatch with a := .unused } { f with a := 0 } false [] s sp → isS f.a = true → f.a.toNat - 0x100 < g.sregs →
      SMap.findWhere k.cmds (fun _ x => x.held && x.warp == s.issuer && x.token == f.a.toNat - 0x100) = some (n, m) →
      (w.uni f.b).toNat % 4 = 0 → (w.uni f.c).toNat < 2 ^ 32 → (w.uni f.b).toNat + 4 ≤ g.lsSize →
      (k.cmds.filter (fun p => p.2.grp == w.grp && p.2.patch.isSome)).length < 32 →
      let m2 : Cmd := { m with patch := some ((w.uni f.b).toNat, (w.uni f.c).toNat) }
      exec (.bpatch f) s = .next (ended (s.setCore core { k with cmds := SMap.set n m2 k.cmds }) f sp false w none))
    ∧ (Issues {} f false [] s sp →
      ((∀ p ∈ k.cmds, p.2.held = true → p.2.warp ≠ s.issuer) → Completes (.erls f) f s sp false w)
      ∧ (∀ n m o mul, k.cmds.filter (fun p => p.2.held && p.2.warp == s.issuer) = [(n, m)] → m.kind = .cpy → m.grp = w.grp →
          releaseReady s s.issuer s.nextId m.scope = true → m.patch = some (o, mul) →
          (∀ r ∈ k.board, r.write = true → ¬(r.lo ≤ (g.lsBase + o) / 128 ∧ (g.lsBase + o) / 128 ≤ r.hi)) →
          matWait k s.issuer false (core * 2 ^ 20 + g.lsBase + o) 4 false = false →
          let len := little s.ls (core * 2 ^ 20 + g.lsBase + o) 4 * mul
          let fits (y : EngAddr) : Prop := len ≠ 0 → (y.space = .ls → y.addr + len ≤ g.lsSize)
            ∧ (y.space = .vault → vaultRefuses g.grant (y.addr % 2 ^ 80) len = false) ∧ engPacked g y len = false
          k.board.length + 2 ≤ 32 →
          ∃ (t : State) (m2 : Cmd), exec (.erls f) s = .next (ended t f sp false w none) ∧ t.warps = s.warps ∧ t.issuer = s.issuer
            ∧ t.ls = s.ls ∧ t.phys = s.phys ∧ SMap.find (t.core core).cmds n = some m2 ∧ m2.held = false
            ∧ (len < 2 ^ 32 → fits m.dst → fits m.src → m2.len = len ∧ m2.err = m.err)
            ∧ (2 ^ 32 ≤ len ∨ engPacked g m.dst len = true ∨ engPacked g m.src len = true → m2.err = some (3, 0)))))

/-! ### Class 9: tasks (R361 to R382) -/

/-- R363, R364, R368 to R370, R379, R380: barriers and phases make the split wait; the carry set, register blocks and condition words
change as named, or their word traps ILLEGAL_OPERAND; CWAIT waits on a read of its counter, and the return of a read that has reached the
target makes its split pass, as an acquire.
R363: the warps of a group that have all arrived at a barrier, with their earlier accesses performed, pass to pc + 1 together, in the turn
of the BAR that the last of them issues; where more have arrived than the count of the first to come, so many of the first pass, and the
others wait in the next round.
That a warp of a round which has arrived with another count traps at its BAR is the model's reading (log 151). -/
def Obligations.TaskWords : Prop := (
  ∀ (f : RWord) (s : State) (sp : Split), (slotCtx s f sp).act ≠ 0 →
    let w := seen s sp
    let g := s.group w.grp
    let core := s.issuer / 32
    let k := s.core core
    let a := (w.uni f.a).toNat
    let waits (i : Instr) (x : Wait) : Prop :=
      Moves i f s sp (withSplit s sp (fun y => { y with wait := x, yield := 0, turn := none }))
    let blocks (m : BitVec 32) : Nat := (List.range 32).countP (fun b => m.getLsbD b)
    let cleared (m : BitVec 32) (v : Warp) : Prop :=
      (∀ n t, t < 128 → v.vlane n t = if m.getLsbD (n / 8) then 0 else w.vlane n t)
    let ill (i : Instr) : Prop := exec i s = .next (conclude s (slotCtx s f sp) f.h false false
      (.trap .illegalOperand (wordInfo w sp) sp.mask))
    (Issues shUni2 f false [] s sp →
      let n := (w.uni f.b).toNat % 32
      let l := arrivals s w.grp a
      let joined := joinedCount s w.grp a l.length l
      (a < 16 → n ≤ 16 → (joined = none ∨ joined = some n) → waits (.bar f) (.bar a n))
      ∧ (16 ≤ a ∨ 16 < n ∨ (∃ c, joined = some c ∧ c ≠ n) → ill (.bar f))
      ∧ (2 ^ 11 ≤ a → ill (.gcond f))
      ∧ (let alive := g.warps.filter (fun wp => !(s.warp wp).frontier.isEmpty)
         a < 16 → n = 0 ∨ n = alive.length → n ≤ 16 → f.h = false → w.kwrites = [] → (s.warp s.issuer).frontier.length = 1 → s.issuer ∈ g.warps →
         g.warps.Nodup → g.msDue = none → g.faulted = false → SMap.has s.groups w.grp = true →
         (∀ wp ∈ alive, releaseReady s wp s.nextId 1 = true
            ∧ (wp ≠ s.issuer → ∃ y, (s.warp wp).frontier = [y] ∧ y.mask ≠ 0 ∧ y.wait = .bar a n)) →
         ∃ t, exec (.bar f) s = .next t ∧ t.phys = s.phys
           ∧ (∀ wp ∈ alive, wp ≠ s.issuer → ∀ y, (s.warp wp).frontier = [y] →
               (t.warp wp).frontier = [{ y with wait := .ready, pc := y.pc + 1 }])
           ∧ (∃ z, (t.warp s.issuer).frontier = [z] ∧ z.pc = sp.pc + 1 ∧ z.mask = sp.mask ∧ z.prio = sp.prio ∧ z.wait = .ready)
           ∧ (s.die (dieOf w.grp)).dt ≤ (t.core (coreOf w.grp)).ct)
      ∧ (a < 2 ^ 11 → releaseReady s s.issuer s.nextId 4 = true → ∃ t : State, exec (.gcond f) s = .next (ended t f sp false w none)
          ∧ t.warps = s.warps ∧ t.phys = s.phys
          ∧ (∀ n, SMap.look 0 (t.die (a / 256)).cwords n =
              if n = a % 256 then w.uni f.b else SMap.look 0 (s.die (a / 256)).cwords n)))
    ∧ (Issues {} f false [] s sp →
      (∀ p ∈ k.cmds, p.2.held = true → p.2.warp ≠ s.issuer) → w.carryS.toNat < 2 ^ g.sregs →
      (∀ v ∈ w.carryV, v = 255 ∨ w.alloc.getLsbD (v / 8) = true) → waits (.phase f) (.bar 16 0))
    ∧ (Issues {} f false [] s sp →
      (∃ p ∈ k.cmds, p.2.held = true ∧ p.2.warp = s.issuer) ∨ 2 ^ g.sregs ≤ w.carryS.toNat
        ∨ (∃ v ∈ w.carryV, v ≠ 255 ∧ w.alloc.getLsbD (v / 8) = false) → ill (.phase f))
    ∧ (Issues shCarryRegs f false [] s sp →
      (List.range 64).countP (fun n => (w.uni f.c).getLsbD n) ≤ 8 → (w.uni f.c).toNat < 2 ^ g.sregs →
      Completes (.carryRegs f) f s sp false { w with
        carryS := w.uni f.c, carryV := (List.range 16).map (fun n => ((w.uni f.b).toNat * 2 ^ 64 + a) / 256 ^ n % 256) })
    ∧ (Issues shCarryRegs f false [] s sp →
      8 < (List.range 64).countP (fun n => (w.uni f.c).getLsbD n) ∨ 2 ^ g.sregs ≤ (w.uni f.c).toNat → ill (.carryRegs f))
    ∧ (Issues shCarryLs f false [] s sp →
      let off := a % 2 ^ 20
      let n := a / 2 ^ 20
      let good : Prop := n ≤ 65536 ∧ off % 128 = 0 ∧ n % 128 = 0 ∧ off + n ≤ g.lsSize
      (good → exec (.carryLs f) s = .next (ended (s.setGroup w.grp { g with carryOff := off, carrySize := n }) f sp false w none))
      ∧ (¬ good → ill (.carryLs f)))
    ∧ (Issues { a := .uni } f false [] s sp →
      (2 ^ 32 ≤ a ∨ BitVec.ofNat 32 a &&& ~~~ w.alloc ≠ 0 → ill (.vgive f))
      ∧ (2 ^ 32 ≤ a ∨ BitVec.ofNat 32 a &&& w.alloc ≠ 0 → ill (.vclaim f)))
    ∧ (Issues { a := .uni } f false [] s sp → a < 2 ^ 32 →
      let m : BitVec 32 := BitVec.ofNat 32 a
      (m &&& ~~~ w.alloc = 0 → mustWait s s.issuer (blockRegs m) = false →
        ∃ v : Warp, exec (.vgive f) s = .next (ended (s.setGroup w.grp { g with pool := g.pool + blocks m }) f sp false v none)
          ∧ cleared m v ∧ { v with v := w.v, alloc := w.alloc } = w ∧ v.alloc = w.alloc &&& ~~~ m)
      ∧ (m &&& w.alloc = 0 → w.claim = none → (∀ wp ∈ g.warps, (s.warp wp).claim = none) → m ≠ 0 →
        (blocks m ≤ g.pool → ∃ v : Warp, exec (.vclaim f) s = .next (ended
            (s.setGroup w.grp { g with pool := g.pool - blocks m, claimNext := g.claimNext + 1 }) f sp false v none)
          ∧ cleared m v ∧ { v with v := w.v, alloc := w.alloc } = w ∧ v.alloc = w.alloc ||| m)
        ∧ (g.pool < blocks m → exec (.vclaim f) s = .next ((s.setGroup w.grp { g with claimNext := g.claimNext + 1 }).setWarp s.issuer
            { s.warp s.issuer with claim := some g.claimNext })))
      ∧ (m = 0 → w.claim = none → Completes (.vclaim f) f s sp false w))
    ∧ (Issues (shCwait f) f false [] s sp →
      let acc := [(lowest sp.mask, (w.areg f.a).toNat)]
      LoadReady s acc 8 .read false true f.scope →
      ∃ (t : State) (l : Load),
        exec (.cwait f) s = .next (conclude s (slotCtx s f sp) f.h false true (.moved (t.setWarp s.issuer
          (withSplit s sp (fun y => { y with wait := .cwait s.nextId, yield := 0, turn := none })))))
        ∧ t.warps = s.warps ∧ t.phys = s.phys ∧ (t.core core).loads = k.loads ++ [l]
        ∧ l.id = s.nextId ∧ l.warp = s.issuer ∧ l.form = .counter (w.uni f.b) ∧ l.addrs = acc ∧ l.size = 8 ∧ l.acq = true
        ∧ l.scope = f.scope)) ∧ (
  ∀ (s : State) (g b n : Nat), b < 16 →
    let x := s.group g
    let alive := x.warps.filter (fun wp => !(s.warp wp).frontier.isEmpty)
    x.msDue = none → x.warps.Nodup → (SMap.look {} x.bars b).arrived = [] → n = 0 ∨ n = alive.length →
    (∀ wp ∈ x.warps, (s.warp wp).frontier.isEmpty = false → ∃ y, (s.warp wp).frontier = [y] ∧ y.mask ≠ 0 ∧ y.wait = .bar b n
      ∧ releaseReady s wp s.nextId 1 = true) →
    alive ≠ [] →
    let t := testBarrier s g b
    (∀ wp ∈ alive, ∀ y, (s.warp wp).frontier = [y] → (t.warp wp).frontier = [{ y with wait := .ready, pc := y.pc + 1 }])
    ∧ (∀ wp, wp ∉ alive → t.warp wp = s.warp wp) ∧ t.phys = s.phys ∧ t.ls = s.ls
    ∧ (t.core (coreOf g)).ct = max (s.core (coreOf g)).ct (s.die (dieOf g)).dt) ∧ (
  ∀ (s : State) (g b first n : Nat) (round rest : List Nat), b < 16 → (s.group g).msDue = none → (s.group g).warps.Nodup →
    (arrivals s g b).Nodup → arrivals s g b = first :: round ++ rest → arrivedAt (s.warp first) b = some n → (first :: round).length = barrierNeed s g n →
    let t := testBarrier s g b
    ((∀ wp ∈ first :: round, arrivedAt (s.warp wp) b = some n ∧ releaseReady s wp s.nextId 1 = true ∧ ∀ y ∈ (s.warp wp).frontier, y.mask ≠ 0) →
      (∀ wp ∈ first :: round, ∀ y, (s.warp wp).frontier = [y] → (t.warp wp).frontier = [{ y with wait := .ready, pc := y.pc + 1 }])
      ∧ (∀ wp, wp ∉ first :: round → t.warp wp = s.warp wp) ∧ arrivals t g b = rest)
    ∧ (∀ pre wp post y, round = pre ++ wp :: post → (∀ u ∈ pre, arrivedAt (s.warp u) b = some n) → arrivedAt (s.warp wp) b ≠ some n →
      (s.warp wp).frontier = [y] → (s.warp wp).trapvec.getLsbD 63 = true → (s.warp wp).pend.length < 8 → (s.warp wp).inh = false →
      (t.warp wp).pend = enqueueTrap (s.warp wp).pend ⟨.illegalOperand, false, y.pc, y.prio, y.depth, BitVec.ofNat 64 y.pc.toNat, y.mask,
        some (lowest y.mask), some s.arith⟩
      ∧ (∃ z, (t.warp wp).frontier = [z] ∧ z.pc = y.pc ∧ z.mask = y.mask ∧ z.stop = true)
      ∧ (∀ u, u ≠ wp → t.warp u = s.warp u) ∧ t.phys = s.phys ∧ wp ∉ arrivals t g b)) ∧ (
  ∀ (s : State) (core ix : Nat) (l : Load) (target : Word) (x : Split) (u a : Nat), (s.core core).loads[ix]? = some l → l.todo = [] →
    l.form = .counter target → l.bad = none → l.addrs = [(u, a)] → l.size = 8 →
    let w := s.warp l.warp
    w.pos = 0 → w.frontier = [x] → x.wait = .cwait l.id → x.mask ≠ 0 → (s.group w.grp).faulted = false → l.warp ∈ (s.group w.grp).warps →
    (∀ o, o ≠ l.warp → ∀ b, arrivedAt (s.warp o) b = none) → target.toNat ≤ gotValue l a →
    ∃ t, exec (.loadReturn core ix) s = .next t ∧ (t.warp l.warp).frontier = [{ x with wait := .ready, pc := x.pc + 1 }]
      ∧ (t.core core).loads = (s.core core).loads.eraseIdx ix ∧ (s.die (core / 32)).dt ≤ (t.core core).ct ∧ t.phys = s.phys)

/-- R371, R372, R374, R375: ENQ accepts a packet with a launch entry, or refuses it with 1 or 2; LAUNCH starts the same under a
token, or keeps the packet when held, and its token tells at once that the packet is bad (6) or the queue full (5); MIGR moves the
oldest or the newest phase entries of a core, in their order, behind those of another; BIND writes a slot record and returns the old one.
That a malformed packet is told before a full queue (log 66), and that a packet is read at any alignment (log 65), are the model's readings. -/
def Obligations.LaunchWords : Prop :=
  ∀ (f : RWord) (s : State) (sp : Split), (slotCtx s f sp).act ≠ 0 →
    let w := seen s sp
    let g := s.group w.grp
    let core := s.issuer / 32
    let k := s.core core
    let q := (w.uni f.a).toNat
    let va := (w.areg f.b).toNat
    let b : List Byte := (List.range 256).map (fun i => cellAt s core g .virt (va + i))
    let p := readPacket b
    let queued (t : State) (l : Nat) : Prop := ∃ e : QEntry,
      (t.queue (q / 256) (q % 256)).entries = (s.queue (q / 256) (q % 256)).entries ++ [e]
        ∧ e.kind = 1 ∧ e.launch = l ∧ e.priv = p.priv ∧ e.originQ = q % 256 ∧ e.originDie = q / 256 ∧ e.reserve = false
        ∧ (t.launch l).bytes = b ∧ (t.launch l).qdie = q / 256 ∧ (t.launch l).queue = q % 256 ∧ (t.launch l).faulted = false
        ∧ l / 2 ^ 29 = q / 256
    let readable : Prop := q < 2 ^ 11 ∧ releaseReady s s.issuer s.nextId f.scope = true ∧ Readable s core g va 256
    let room : Bool := (s.queue (q / 256) (q % 256)).room
    (Issues (shEnq f) f false [] s sp → readable → (p.priv = true → w.sup = true) →
      (packetOk b = true → room = true → ∃ (t : State) (l : Nat),
        exec (.enq f) s = .next (ended t f sp false (wroteS w f 0) (some (.uniform 0))) ∧ t.warps = s.warps ∧ t.phys = s.phys ∧ queued t l)
      ∧ (packetOk b = true → room = false → ∃ t : State, Learned s t
          ∧ exec (.enq f) s = .next (ended t f sp false (wroteS w f 1) (some (.uniform 1))))
      ∧ (packetOk b = false → ∃ t : State, Learned s t
          ∧ exec (.enq f) s = .next (ended t f sp false (wroteS w f 2) (some (.uniform 2)))))
    ∧ (Issues (shLaunch f) f false [] s sp → readable → (p.priv = true → w.sup = true) →
      let token := f.dst.toNat - 0x100
      (packetOk b = true → f.mod 2 2 = 1 → room = true → TakesSlot (.launch f) f s sp true [] (fun t m => m.kind = .launch ∧ m.packet = b ∧ m.ctl = w.uni f.a
        ∧ m.child = none ∧ t.launches = s.launches))
      ∧ (packetOk b = true → f.mod 2 2 = 0 → room = true →
        TakesSlot (.launch f) f s sp false [] (fun t m => m.kind = .launch ∧ m.packet = b ∧ ∃ l n, m.child = some l ∧ queued t l
          ∧ (t.launch l).token = some (core, n) ∧ SMap.find (t.core core).cmds n = some m))
      ∧ (packetOk b = false ∨ room = false → ∃ (t : State) (v : Warp), exec (.launch f) s = .next (ended t f sp false v none)
        ∧ t.warps = s.warps ∧ t.phys = s.phys ∧ t.launches = s.launches ∧ t.queues = s.queues ∧ (t.core core).cmds = k.cmds
        ∧ v.s token = BitVec.ofNat 64 (2 ^ 63 + (if packetOk b then 5 else 6) * 2 ^ 60) ∧ v.tokPend.getLsbD token = false
        ∧ v.tokTag.getLsbD token = true ∧ ∀ n, n ≠ token → v.s n = w.s n))
    ∧ (Issues shMigr f false [] s sp → q < 2 ^ 25 →
      let src := q % 256
      let dst := q / 256 % 256
      let here := (s.die (src / 32)).phases
      let there := (s.die (dst / 32)).phases
      let room := if src / 32 = dst / 32 then q / 2 ^ 16 % 256 else min (q / 2 ^ 16 % 256) (4096 - there.length)
      let mine := here.filter (fun e => e.tgt == src)
      let n := min room mine.length
      let oldest := (w.uni f.a).getLsbD 24
      let picked := if oldest then mine.take n else mine.drop (mine.length - n)
      let kept := if oldest then mine.drop n else mine.take (mine.length - n)
      let left (l : List QEntry) : Prop :=
        l.Sublist here ∧ l.filter (fun e => e.tgt == src) = kept ∧ l.filter (fun e => e.tgt != src) = here.filter (fun e => e.tgt != src)
      ∃ (t : State) (rest : List QEntry),
        exec (.migr f) s = .next (ended t f sp false (wroteS w f (BitVec.ofNat 64 n)) (some (.uniform (BitVec.ofNat 64 n))))
        ∧ t.warps = s.warps ∧ t.phys = s.phys
        ∧ (t.die (dst / 32)).phases = rest ++ picked.map (fun e => { e with tgt := dst })
        ∧ (src / 32 = dst / 32 → left rest)
        ∧ (src / 32 ≠ dst / 32 → rest = there ∧ left (t.die (src / 32)).phases))
    ∧ (Issues shBind f false [] s sp → q < 2 ^ 12 →
      let x := w.uni f.b
      let c := q % 256
      let old := SMap.look 0 (s.core c).slots (q / 256)
      x.extractLsb' 56 5 = 0 → x.getLsbD 43 = false → (x.getLsbD 63 = true → x.extractLsb' 48 8 ≠ 0) →
      ∃ t : State, Crossed s t (s.issuer / 1024) (c / 32) ∧ exec (.bind f) s = .next (ended (t.setCore c { s.core c with
        slots := SMap.put 0 (q / 256) x (s.core c).slots, pass := SMap.erase (q / 256) (s.core c).pass }) f sp false
        (wroteS w f old) (some (.uniform old))))

/-! ### Dispatch, phases, launches and graphs (R349 to R381) -/

/-- R352, R359: a dispatched launch entry starts its next group, each warp with the state that R352 gives it, its local-store area
cleared; the entry goes on to the next group or leaves, and the record's pass rises.
R378: the group of a graph node's launch starts at the time of the node's die or later. -/
def Obligations.GroupsStart : Prop :=
  ∀ (s : State) (core : Nat) (c : Cand), core < 256 → s.resetting = none → s.preempts = [] → discardFor s core = s → (s.core core).power = .on →
    preempt s core = s → picked s core = some c → c.phase = false → c.entry.kind = 1 → c.spot.1.Nodup → c.spot.1 ≠ [] →
    let l := c.entry.launch
    let gid := c.entry.group
    let p := packetOf s l
    let b := bindOf s core c.num
    let key := c.spot.1.headD 0
    let place := core * 2 ^ 20 + c.spot.2
    ∃ t, exec (.dispatch core) s = .next t
      ∧ (∀ i wp, c.spot.1[i]? = some wp →
          let w := t.warp wp
          (∃ m : Mask, w.frontier = [{ pc := BitVec.ofNat 32 p.entryPc, prio := BitVec.ofNat 8 p.entryPrio, depth := 0, mask := m }]
            ∧ w.live = m ∧ ∀ u, u < 128 → m.getLsbD u = decide (i + 1 < p.warps ∨ u < p.threads))
          ∧ (∀ n, w.s n = BitVec.ofNat 64 (if n = 0 then gid % p.gx else if n = 1 then gid / p.gx % p.gy
              else if n = 2 then gid / (p.gx * p.gy) else 0))
          ∧ (∀ n, w.a n = BitVec.ofNat 80 (if n = 0 then p.dataBase else if n = 1 then p.args else 0))
          ∧ (∀ n u, u < 128 → w.vlane n u = 0) ∧ (∀ n, 1 ≤ n → n < 8 → w.k 0 n = 0) ∧ (∀ n, w.d n = 0 ∧ w.q n = 0)
          ∧ w.alloc = BitVec.ofNat 32 (2 ^ (p.regs / 8) - 1) ∧ w.sup = (p.priv && b.getLsbD 62) ∧ w.psup = false ∧ w.inh = false
          ∧ w.pend = [] ∧ w.fpmode = 0 ∧ w.fair = p.fair ∧ w.agelim = p.agelim ∧ w.vtime = 0 ∧ w.pxi = 0
          ∧ w.trapvec = (((BitVec.ofNat 64 p.trapvec).extractLsb' 62 2 ++ 0#22) ++ (BitVec.ofNat 64 p.trapvec).extractLsb' 0 40)
          ∧ w.carryV = p.carryV ∧ w.carryS = BitVec.ofNat 64 p.carryS ∧ w.grp = key)
      ∧ (∀ wp, wp ∉ c.spot.1 → t.warp wp = s.warp wp)
      ∧ (let g := t.group key
         g.launch = l ∧ g.gid = gid ∧ g.warps = c.spot.1 ∧ g.lsBase = c.spot.2 ∧ g.lsSize = p.localsize ∧ g.sregs = p.sregs
          ∧ g.asid = p.asid ∧ g.root = p.root ∧ g.codeBase = BitVec.ofNat 80 p.codeBase ∧ g.grant = BitVec.ofNat 256 p.grant
          ∧ g.pool = 0 ∧ g.phaseNo = 0 ∧ g.faulted = false)
      ∧ (∀ a, Memory.byte t.ls a = if place ≤ a ∧ a < place + p.localsize then 0 else Memory.byte s.ls a)
      ∧ (let d := (b.extractLsb' 40 3).toNat
         let q := (b.extractLsb' 32 8).toNat
         (t.queue d q).entries = (if p.groups ≤ gid + 1 then [] else [{ c.entry with group := gid + 1 }]) ++ (s.queue d q).entries.tail)
      ∧ SMap.look 0 (t.core core).pass c.num = SMap.look 0 (s.core core).pass c.num + 65536 / max 1 (b.extractLsb' 48 8).toNat
      ∧ (∀ x, (s.launch l).node = some x → (s.die x.1).dt ≤ (t.core core).ct)
      ∧ t.phys = s.phys

/-- R364 to R366, R373: an ended phase leaves its record in the vault's pool, with the next phase number, the core's time and the carried
bytes; then, once the die's phase list has room, it gives everything back and joins that list; the Weir moves half the difference between the fullest and the emptiest
core of its die.
R353, R372, R378, R466: a launch whose groups have finished ends, its LAUNCH token gets the group count; a faulted one ends once its
groups have left and its stores have drained, its token with reason 4; its node learns of it. -/
def Obligations.PhasesAndLaunchesEnd : Prop := (
  (∀ (s : State) (core grp place : Nat),
    let g := s.group grp
    let d := s.die (core / 32)
    let n := g.warps.length
    coreOf grp = core → SMap.has s.groups grp = true → g.ending = true → g.faulted = false → phaseWaits s grp = false →
    (g.phaseRec = some (0, place) ∨ (g.phaseRec = none ∧ phasePlace s core = some (0, place))) → place < 2 ^ 33 →
    ∃ t : State, exec (.phaseEnd core grp) s = .next t ∧ t.phys = s.phys ∧ (g.phaseRec ≠ none → t.vault = s.vault)
      ∧ (4096 ≤ d.phases.length → t.group grp = { g with phaseRec := some (0, place) } ∧ t.warps = s.warps ∧ t.ls = s.ls
        ∧ t.die (core / 32) = d)
      ∧ (d.phases.length < 4096 → SMap.has t.groups grp = false ∧ (∀ wp ∈ g.warps, SMap.find t.warps wp = none)
        ∧ (∃ e : QEntry, (t.die (core / 32)).phases = d.phases ++ [e] ∧ e.kind = 2 ∧ e.launch = g.launch ∧ e.group = g.gid ∧ e.tgt = core
          ∧ e.phaseNo = g.phaseNo + 1 ∧ e.recSpace = 0 ∧ e.ref.toNat = place ∧ e.originQ = g.originQ ∧ e.originDie = g.originDie)
        ∧ (∀ a, core * 2 ^ 20 + g.lsBase ≤ a → a < core * 2 ^ 20 + g.lsBase + g.lsSize → Memory.byte t.ls a = 0))
      ∧ (g.phaseRec = none → little t.vault place 4 = g.launch % 2 ^ 32 ∧ little t.vault (place + 4) 4 = g.gid % 2 ^ 32
      ∧ little t.vault (place + 8) 2 = (g.phaseNo + 1) % 2 ^ 16 ∧ little t.vault (place + 10) 1 = n % 2 ^ 8
      ∧ little t.vault (place + 0x10) 8 = (s.core core).ct % 2 ^ 64
      ∧ little t.vault (place + 0x20) 4 = g.carryOff % 2 ^ 32 ∧ little t.vault (place + 0x24) 4 = g.carrySize % 2 ^ 32
      ∧ (∀ i, i < g.carrySize → Memory.byte t.vault (place + 0x100 + 0x2800 * n + i) =
          Memory.byte s.ls (core * 2 ^ 20 + g.lsBase + g.carryOff + i))))
  ∧ (∀ (s : State) (die src dst : Nat), die < 8 → s.mode.getLsbD 1 = false → src / 32 = die → dst / 32 = die →
    (∀ c, c / 32 = die → c ≠ src → queuedOn s c < queuedOn s src ∨ (queuedOn s c = queuedOn s src ∧ src < c)) →
    (∀ c, c / 32 = die → c ≠ dst → queuedOn s dst < queuedOn s c ∨ (queuedOn s dst = queuedOn s c
      ∧ (busySlots s dst < busySlots s c ∨ (busySlots s dst = busySlots s c ∧ dst < c)))) →
    let diff := queuedOn s src - queuedOn s dst
    let n := min 255 (diff / 2)
    (diff < 2 → exec (.weirBalance die) s = .next s)
    ∧ (2 ≤ diff → ∃ t, exec (.weirBalance die) s = .next t ∧ queuedOn t src = queuedOn s src - n
        ∧ queuedOn t dst = queuedOn s dst + n ∧ (∀ c, c ≠ src → c ≠ dst → queuedOn t c = queuedOn s c) ∧ t.phys = s.phys))) ∧ (
  ∀ (s : State) (l : Nat), SMap.has s.launches l = true → launchStores s l = false →
    let x := s.launch l
    let ends (i : Instr) (word : Word) : Prop := ∃ t, exec i s = .next t ∧ SMap.has t.launches l = false
      ∧ (∀ line j, line < 2 ^ 45 → hostLine line = false → j < 128 → homeByte t line j = homeByte s line j)
      ∧ (∀ core n m, x.token = some (core, n) → SMap.find (s.core core).cmds n = some m → m.child = some l → m.warp / 32 = core →
          Live s m → (t.warp m.warp).s m.token = word ∧ (t.warp m.warp).tokPend.getLsbD m.token = false
            ∧ (t.warp m.warp).tokTag.getLsbD m.token = x.faulted ∧ SMap.find (t.core core).cmds n = none)
      ∧ (∀ d n, x.node = some (d, n) → (s.node d n).launch = some l → t.node d n = { s.node d n with launch := none, faulted := x.faulted })
    (x.faulted = false → launchBusy s l = false → ends (.launchComplete l) (BitVec.ofNat 64 ((readPacket x.bytes).groups % 2 ^ 48)))
    ∧ (x.faulted = true → (∀ g ∈ s.groups, g.2.launch ≠ l) → ends (.launchFaultedEnd l) (BitVec.ofNat 64 (2 ^ 63 + 4 * 2 ^ 60))))

/-- R376 to R378: a graph load sets its nodes, each counter at init, ready at 0; a ready barrier, conditional or while node completes at
once and releases its successors; a kernel node appends its launch, a copy node copies; a node that has run releases its successors,
or halts the graph when it faulted.
The address space of a load is the model's choice (log 46); that records load over nodes at rest or running (log 86), and that a copy node
copies in one event (log 87), are its readings. -/
def Obligations.GraphNodes : Prop :=
  (∀ (s : State) (die queue : Nat) (e : QEntry), die < 8 → queueHead s die queue = some e → e.bad = false → e.kind = 4 →
    e.tgt + e.group ≤ 4096 → s.msgs = [] →
    let g : Group := { asid := e.asid }
    let raw (j : Nat) : List Byte := (List.range 64).map (fun i => cellAt s (die * 32) g .virt (e.ref.toNat + 64 * j + i))
    Reaches s (die * 32) g .virt e.ref.toNat (64 * e.group) .read →
    (∀ j, j < e.group → nodeOk (raw j) = true ∧ (field (raw j) 0 1 ≠ 0 → (s.node die (e.tgt + j)).kind = 0)) →
    ∃ t, exec (.graphLoad die queue) s = .next t ∧ (t.queue die queue).entries = (s.queue die queue).entries.tail
      ∧ (∀ j, j < e.group →
          let x := t.node die (e.tgt + j)
          x.kind = field (raw j) 0 1 ∧ (x.kind ≠ 0 → x.init = field (raw j) 2 2 ∧ x.count = x.init ∧ x.ready = decide (x.init = 0)
            ∧ x.running = false ∧ x.queue = field (raw j) 0x1A 1 ∧ x.cword = field (raw j) 0x19 1 ∧ x.len = field (raw j) 0x1C 4
            ∧ x.succ = ((List.range 8).map (fun i => field (raw j) (8 + 2 * i) 2)).take (field (raw j) 0x18 1)))
      ∧ (∀ m, (m < e.tgt ∨ e.tgt + e.group ≤ m) → t.node die m = s.node die m) ∧ t.phys = s.phys)
  ∧ (∀ (s : State) (die node : Nat) (x : Node), s.node die node = x → x.kind ≠ 0 → x.bad = false → x.faulted = false →
    let d := s.die die
    let c := (SMap.look 0 d.cwords x.cword).toNat
    let core := die * 32
    let g : Group := { asid := x.asid }
    let b : List Byte := (List.range 256).map (fun i => cellAt s core g .virt (x.vaA.toNat + i))
    let runs : Node := { x with ready := false, held := false, running := true }
    (x.ready = true → x.running = false → d.graphHalted = false →
      (∀ out, 3 ≤ x.kind → x.kind ≤ 5 → releases x c = some out → out.Nodup → node ∉ out →
        ∃ t, exec (.nodeRun die node) s = .next t ∧ NodeDone s t die node x out ∧ t.phys = s.phys
          ∧ (t.die die).readyList = d.readyList.filter (fun m => m != node)
              ++ out.filter (fun m => (s.node die m).kind != 0 && (s.node die m).count == 1))
      ∧ (x.kind = 1 → die < 8 → s.msgs = [] → (s.queue die x.queue).anyRoom = true → d.readyList.head? = some node →
        Reaches s core g .virt x.vaA.toNat 256 .read → Sound s core x.asid x.vaA.toNat 256 → packetOk b = true →
        ∃ (t : State) (e : QEntry) (l : Nat), exec (.nodeRun die node) s = .next t ∧ t.node die node = { runs with launch := some l }
          ∧ (t.queue die x.queue).entries = (s.queue die x.queue).entries ++ [e] ∧ e.kind = 1 ∧ e.graph = true ∧ e.node = node
          ∧ e.launch = l ∧ e.reserve = !(s.queue die x.queue).room ∧ (t.launch l).bytes = b ∧ (t.launch l).node = some (die, node))
      ∧ (x.kind = 2 → die < 8 → s.msgs = [] → Reaches s core g .virt x.vaA.toNat x.len .read →
        Reaches s core g .virt x.vaB.toNat x.len .write → Apart s core x.asid x.vaB.toNat x.len →
        ∃ t, exec (.nodeRun die node) s = .next t ∧ t.node die node = runs
          ∧ ∀ i, i < x.len → cellAt t core g .virt (x.vaB.toNat + i) = cellAt s core g .virt (x.vaA.toNat + i)))
    ∧ (x.running = true → x.launch = none → x.kind = 1 ∨ x.kind = 2 → d.graphHalted = false → x.ready = false → x.held = false →
      x.succ.Nodup → node ∉ x.succ → ∃ t, exec (.nodeComplete die node) s = .next t ∧ NodeDone s t die node x x.succ))
  ∧ (∀ (s : State) (die node : Nat), (s.node die node).kind ≠ 0 → (s.node die node).bad = false → (s.node die node).faulted = true →
    (s.node die node).running = true → (s.node die node).launch = none →
    ∃ t, exec (.nodeComplete die node) s = .next t ∧ (t.die die).graphHalted = true ∧ (t.node die node).running = false
      ∧ ∀ m, m ≠ node → t.node die m = s.node die m)

/-- R381: an uncorrectable error in a queue entry or a phase-list entry is repaired once from a readable shadow in hardware mode;
otherwise the entry is bad and its queue, or its core's part of the list, halts; a record says which. A node's counter is repaired so, or
halts its graph. That the record's address is the slot's index is the model's choice (log 88). -/
def Obligations.QueueErrors : Prop :=
  ∀ (s : State) (die ix slot : Nat) (shadowBad : Bool) (e : QEntry), die < 8 →
    let met (what : Nat) : State := if shadowBad then shadowError s die what ix slot else s
    let q := s.queue die ix
    let d := s.die die
    let x := s.node die ix
    let once := !s.mode.getLsbD 5 && !e.reloaded && !shadowBad
    let good (sh : Shadow) : Bool := once && (match sh[slot]? with
      | some y => !y.2
      | none => false)
    let after (sh : Shadow) : QEntry :=
      if good sh then { ((sh[slot]?).getD (e, false)).1 with reloaded := true } else { e with bad := true }
    (q.entries[slot]? = some e → ∃ r, exec (.queueEntryError die 0 ix slot shadowBad) s = .next (State.record
        ((met 0).setQueue die ix { (met 0).queue die ix with entries := q.entries.set slot (after q.shadow), halted := q.halted || !good q.shadow }) r)
      ∧ r.cls = 0x04 ∧ r.die = die ∧ r.slot = ix ∧ r.addr = slot ∧ r.sev = if good q.shadow then 1 else 2)
    ∧ (d.phases[slot]? = some e → e.tgt ∉ d.phaseHalted → ∃ r, exec (.queueEntryError die 1 ix slot shadowBad) s = .next (State.record
        ((met 1).setDie die { (met 1).die die with
          phases := d.phases.set slot (after d.phaseShadow)
          phaseHalted := if good d.phaseShadow then d.phaseHalted else d.phaseHalted ++ [e.tgt] }) r)
      ∧ r.cls = 0x04 ∧ r.die = die ∧ r.slot = e.tgt ∧ r.addr = slot ∧ r.sev = if good d.phaseShadow then 1 else 2)
    ∧ (x.kind ≠ 0 →
      let sound := !s.mode.getLsbD 5 && !shadowBad && !x.shadowBad && !x.reloaded
      ∃ t, exec (.queueEntryError die 2 ix slot shadowBad) s = .next t
        ∧ (sound = true → t.node die ix = { x with count := x.shadow, reloaded := true })
        ∧ (sound = false → t.node die ix = { x with bad := true, shadowBad := x.shadowBad || shadowBad } ∧ (t.die die).graphHalted = true)
        ∧ (∀ m, m ≠ ix → t.node die m = s.node die m) ∧ t.phys = s.phys)

/-! ### Saves and restores (R216 to R221) -/

/-- R217, R220, R360: a save begins with the group's kind 3 entry at the head of its origin queue; once nothing of the group runs and its
record's lines can be written, the group leaves its core, and each byte of its record stands in memory at its place of the area; a restore
places the kept group again, every warp from the bytes that stand there, and its entry leaves the queue.
R218, R220: what a save writes of a warp, a restore reads back: every register, the frontier, the waiting traps, the generators
and the system registers that the record holds. -/
def Obligations.GroupsSavedAndRestored : Prop := (
  (∀ (s : State) (core grp : Nat) (area : Addr),
    let g := s.group grp
    coreOf grp = core → SMap.has s.groups grp = true → g.faulted = false → s.preempts = [] →
    (canSave s grp = true → areaFree s grp area = true → g.saving = false → (∃ p ∈ (s.core core).cmds, p.2.grp = grp ∧ p.2.kind = .cpy ∧ p.2.held = false) →
      (∀ x ∈ s.windows, l1Core x.key ≠ core) →
      ∃ (t : State) (e : QEntry), exec (.groupSave core grp area) s = .next t
        ∧ t.group grp = { g with saving := true, saveAt := area } ∧ (t.core core).saving = true
        ∧ (t.queue g.originDie g.originQ).entries = e :: (s.queue g.originDie g.originQ).entries ∧ e.kind = 3 ∧ e.launch = g.launch
        ∧ e.group = g.gid ∧ e.ref = area ∧ e.phaseNo = g.phaseNo ∧ e.reserve = !(s.queue g.originDie g.originQ).room
        ∧ t.phys = s.phys)
    ∧ (∀ s2 s3 l, g.saving = true → saveWaits s grp = false →
      let stopped := g.warps.foldl stopAtHead s
      let emptied := withdrawLoops stopped core grp
      let h := emptied.group grp
      SMap.has emptied.groups grp = true → h.faulted = false →
      groupChunks emptied grp = (s2, l) → probeChunks s2 grp h.saveAt.toNat l = .ok s3 () →
      ∃ (t : State) (v : Saved), exec (.groupSave core grp area) s = .next t ∧ SMap.has t.groups grp = false
        ∧ (∀ wp ∈ g.warps, SMap.find t.warps wp = none) ∧ t.saved = s.saved ++ [v] ∧ v.phase = false
        ∧ v.grp = { h with saving := false } ∧ v.warps.map Prod.fst = g.warps
        ∧ (∀ size, s.msgs = [] → (∀ c ∈ l, c.1 + c.2.length ≤ size) → Reaches s core g .virt g.saveAt.toNat size .write →
            Apart s core g.asid g.saveAt.toNat size →
            ∀ i, (∃ c ∈ l, c.1 ≤ i ∧ i < c.1 + c.2.length) → cellAt t core g .virt (g.saveAt.toNat + i) = imageOf l i)))
  ∧ (∀ (s : State) (core : Nat) (c : Cand) (v : Saved) (u : State), core < 256 → s.resetting = none → (s.core core).power = .on → picked s core = some c →
    c.phase = false → c.entry.kind = 3 → launchDead s c.entry.launch = false → savedFor s c.entry = some v →
    restoreGroup s core c.entry.ref.toNat v c.spot.1 c.spot.2 = (u, true) →
    let b := bindOf s core c.num
    let d := (b.extractLsb' 40 3).toNat
    let q := (b.extractLsb' 32 8).toNat
    let key := c.spot.1.headD (core * 32)
    let at_ (i : Nat) : Byte := cellAt s core v.grp .virt (c.entry.ref.toNat + i)
    let bytes (i n : Nat) : List Byte := (List.range n).map (fun j => at_ (i + j))
    let num (i n : Nat) : Nat := ((List.range n).map (fun j => (at_ (i + j)).toNat * 256 ^ j)).sum
    let offset (j : Nat) : Nat := num (0x20 + 4 * j) 4
    ∃ t, exec (.groupRestore core c.num) s = .next t ∧ t.warps = u.warps ∧ t.ls = u.ls ∧ t.phys = u.phys
      ∧ (t.queue d q).entries = (u.queue d q).entries.tail
      ∧ t.saved = u.saved.filter (fun x => !(x.phase == false && x.grp.launch == c.entry.launch && x.grp.gid == c.entry.group))
      ∧ (∀ size, s.msgs = [] → v.late = [] → v.cmds = [] → SMap.has u.groups key = true → c.spot.1.Nodup → v.grp.warps.Nodup →
          c.spot.1.length = v.grp.warps.length → 0x32000 + v.grp.lsSize + poisonSize v.grp.lsSize ≤ size →
          (∀ j, j < v.grp.warps.length → offset j + 0x21000 ≤ size) →
          Reaches s core v.grp .virt c.entry.ref.toNat size .read → Sound s core v.grp.asid c.entry.ref.toNat size →
          (∀ j wp new, (wrecOrder v.grp)[j]? = some wp → c.spot.1[v.grp.warps.idxOf wp]? = some new →
            let w := warpFrom (SMap.look {} v.warps wp) (bytes (offset j) 0x1000)
              (bytes (offset j + 0x1000) (4096 * popcount (BitVec.ofNat 32 (num (offset j) 4)))) (num (0x1E00 + 8 * j) 8)
            { t.warp new with pend := w.pend, deadline := w.deadline } = { w with grp := key })
          ∧ (∀ i, i < v.grp.lsSize → Memory.byte t.ls (core * 2 ^ 20 + c.spot.2 + i) = at_ (0x32000 + i))))) ∧ (
  ∀ (s : State) (wp tags : Nat),
    let w := s.warp wp
    let l := warpChunks s wp 0
    let r : List Byte := (List.range 0x1000).map (imageOf l)
    let regs : List Byte := (List.range (4096 * popcount w.alloc)).map (fun i => imageOf l (0x1000 + i))
    let z := warpFrom w r regs tags
    w.frontier.length ≤ 8 → w.pend.length ≤ 8 → (∀ x ∈ w.frontier, x.age < 2 ^ 32 ∧ x.yield < 2 ^ 8) →
    w.trappc &&& trappcMask = w.trappc → w.trapvec &&& trapvecMask = w.trapvec → w.fpmode &&& fpmodeMask = w.fpmode → 1 ≤ w.agelim → w.agelim ≤ 65536 → w.role < 2 ^ 64 →
    z.alloc = w.alloc ∧ (∀ n, n < 64 → z.s n = w.s n) ∧ (∀ n, n < 16 → z.a n = w.a n ∧ z.d n = w.d n ∧ z.q n = w.q n)
    ∧ (∀ n, n < 8 → z.k 0 n = w.k 0 n) ∧ (∀ n t, t < 128 → n < 256 → w.alloc.getLsbD (n / 8) = true → z.vlane n t = w.vlane n t)
    ∧ (∀ t, t < 129 → z.genOf t = w.genOf t) ∧ z.frontier = w.frontier ∧ z.pend = w.pend.map (fun x => { x with cycle := none })
    ∧ z.sup = w.sup ∧ z.psup = w.psup ∧ z.inh = w.inh ∧ z.itercap = w.itercap ∧ z.role = w.role
    ∧ z.trapcause = w.trapcause ∧ z.trappc = w.trappc ∧ z.trapinfo = w.trapinfo ∧ z.trapvec = w.trapvec ∧ z.tlanes = w.tlanes
    ∧ z.hsave0 = w.hsave0 ∧ z.hsave1 = w.hsave1 ∧ z.pxi = w.pxi ∧ z.trappxi = w.trappxi ∧ z.vtime = w.vtime ∧ z.vtcmp = w.vtcmp
    ∧ z.deadline = w.deadline ∧ z.agelim = w.agelim ∧ z.fair = w.fair ∧ z.fpmode = w.fpmode)

/-! ### Class 10: the matrix unit (R383 to R412) -/

/-- R384, R390, R392, R397 to R403, R405 to R407, R409 to R411: MDESC builds and reads a record; every other matrix word whose checks pass
claims its tiles and enters the unit's queue with its operands captured; MLOOP, MPOLY, MITER, MNRM, MQLD and MSTAT hold their warp.
R408: the first three of these write their kind to PXI as they start, with progress 0 or as it was.
That code 6 of SHAPE is a scaled operand's layout (log 52), the order of SHAPE's codes (log 50), and SHAPE before the tiles' ownership (log
53) are the model's readings. -/
def Obligations.MatrixWordsEnter : Prop :=
  ∀ (f : RWord) (s : State) (sp : Split), (slotCtx s f sp).act ≠ 0 →
    let w := seen s sp
    let g := s.group w.grp
    let x := f.dst.toNat
    let y := f.a.toNat
    let a := readRec (w.d y)
    let b := readRec (w.d f.b.toNat)
    let size (z : Word) : Prop := 1 ≤ z.toNat % 128 ∧ z.toNat % 128 ≤ 64 ∧ 1 ≤ z.toNat / 256 % 128 ∧ z.toNat / 256 % 128 ≤ 64
      ∧ z.toNat = z.toNat % 128 + 256 * (z.toNat / 256 % 128)
    let named (r : MRec) : List Nat := if r.space = 2 then [r.base] else []
    (Issues shMdesc f false [] s sp → Completes (.mdesc f) f s sp false (w.setD x (w.uni f.b ++ w.uni f.a)))
    ∧ (Issues shMdescGet f false [] s sp →
      GivesS (.mdescGet f) f s sp (BitVec.ofNat 64 ((w.d y).toNat / (if f.mod 1 1 = 1 then 2 ^ 64 else 1))))
    ∧ (Issues shMzero f false [] s sp → EntersMatrix (.mzero f) f s sp none (.mzero x) [x])
    ∧ (Issues shMma f false [] s sp → RecordOk g a true false 1 → RecordOk g b true false 1 → PairOk a b →
      EntersMatrix (.mma f) f s sp none (.mma x (w.d y) (w.d f.b.toNat) (f.mod 0 0 = 1)) (named a ++ named b ++ [x]))
    ∧ (Issues shMma f false [] s sp → RecordOk g a true false 1 → RecordOk g b true false 1 →
      let traps (code : Nat) : Prop := exec (.mma f) s = .next (conclude s (slotCtx s f sp) f.h false false
        (.trap .shape (BitVec.ofNat 64 (code + 256 * y + 4096 * f.b.toNat)) sp.mask))
      (¬(a.cols = b.rows ∧ (a.fmt = 8 ↔ b.fmt = 8)) → traps 1)
      ∧ ((a.cols = b.rows ∧ (a.fmt = 8 ↔ b.fmt = 8)) → ¬(a.rows ≤ 64 ∧ b.cols ≤ 64) → traps 2)
      ∧ ((a.cols = b.rows ∧ (a.fmt = 8 ↔ b.fmt = 8)) → a.rows ≤ 64 ∧ b.cols ≤ 64 → 64 < a.cols → (a.space = 2 ∨ b.space = 2) → traps 3)
      ∧ ((a.cols = b.rows ∧ (a.fmt = 8 ↔ b.fmt = 8)) → a.rows ≤ 64 ∧ b.cols ≤ 64 → (64 < a.cols → a.space ≠ 2 ∧ b.space ≠ 2) →
        ((a.block ≠ 0 ∧ a.col = true) ∨ (b.block ≠ 0 ∧ b.col = false)) → traps 6))
    ∧ (Issues shMloop f false [] s sp →
      let n := (w.uni f.c).toNat
      n < 2 ^ 16 → Resumes w.pxi 2 (fun p => p < n) → RecordOk g a true false n → RecordOk g b true false n → PairOk a b →
      EntersMatrix (.mloop f) f s sp (some (if n = 0 then 0 else pxiAtStart w.pxi 2)) (.mloop x (w.d y) (w.d f.b.toNat) (f.mod 0 0 = 1) n) (named a ++ named b ++ [x]))
    ∧ (Issues shMpoly f false [] s sp →
      let n := (w.uni f.b).toNat
      let m := f.mod 3 0
      x ≠ y → 1 ≤ n → n ≤ 64 → Resumes w.pxi 3 (fun p => p ≤ m) →
      EntersMatrix (.mpoly f) f s sp (some (pxiAtStart w.pxi 3)) (.mpoly x y n m (f.mod 4 4 = 1) ((List.range (m + 1)).map w.q)) [x, y])
    ∧ (Issues shMiter f false [] s sp →
      let z := w.uni f.a
      let cap := f.mod 7 0
      x ≠ 1 → x ≠ 2 → cap ≠ 0 → size z → Resumes w.pxi 4 (fun p => p % 256 ≤ cap ∧ p / 256 % 8 ≤ 4 ∧ p < 2 ^ 12) →
      EntersMatrix (.miter f) f s sp (some (pxiAtStart w.pxi 4)) (.miter x (z.toNat % 128) (z.toNat / 256) cap (f.b.toNat = 1) (f.mod 8 8 = 1) (f.mod 9 9 = 1)
        [w.q 0, w.q 1, w.q 2, w.q 14, w.q 15] (w.pxi = 0)) [x, 1, 2])
    ∧ (Issues shMldc f false [] s sp → RecordOk g a false true 1 → a.rows ≤ 64 → a.cols ≤ 64 →
      EntersMatrix (.mldc f) f s sp none (.mldc x (w.d y)) [x])
    ∧ (Issues (shMstc f) f false [] s sp →
      let r := readRec (w.d x)
      r.space ≤ 1 → r.packed = false → r.scaled = false → r.fmt ≠ 8 → RecordOk g r false true 1 → r.rows ≤ 64 → r.cols ≤ 64 →
      EntersMatrix (.mstc f) f s sp none (.mstc (w.d x) y f.rnd) [y])
    ∧ (Issues (shMmov f) f false [] s sp →
      EntersMatrix (.mmov f) f s sp none (.mmov x y (f.mod 0 0 = 1) (if f.mod 1 1 = 1 then some (w.q f.b.toNat) else none)) [x, y])
    ∧ (Issues (shMnrm f) f false [] s sp →
      let z := w.uni f.b
      size z → (f.mod 1 0 = 1 → z.toNat % 128 = z.toNat / 256) →
      EntersMatrix (.mnrm f) f s sp (some w.pxi) (.mnrm (x - 0x100) y (z.toNat % 128) (z.toNat / 256) (f.mod 1 0)) [y])
    ∧ (Issues (shMqldOne f) f false [] s sp →
      EntersMatrix (.mqldOne f) f s sp (some w.pxi) (.mqldOne x (BitVec.ofNat 32 (w.uni f.a).toNat)) [])
    ∧ (Issues shMqldMem f false [] s sp →
      let p := (w.uni f.a).toNat
      p % 4 = 0 →
      (p + 64 ≤ g.lsSize → p < 2 ^ 20 → EntersMatrix (.mqldLs f) f s sp (some w.pxi) (.mqld ⟨.ls, p⟩) [])
      ∧ (p < 2 ^ 33 → vaultRefuses g.grant p 64 = false → EntersMatrix (.mqldVt f) f s sp (some w.pxi) (.mqld ⟨.vault, p⟩) []))
    ∧ (Issues (shMstat f) f false [] s sp →
      EntersMatrix (.mstat f) f s sp (some w.pxi) (if f.mod 2 0 = 5 then .mstatQ (x - 0x100) (w.q y) else .mstat (x - 0x100) y (f.mod 2 0))
        (if f.mod 2 0 = 5 then [] else [y]))

/-- R394, R395, R398, R399, R401 to R407: what an operation does once the unit performs it: the elements, the row poison, the bytes
stored, the registers written; the rest of its core stays.
That MNRM `.max` of a NaN gives the NaN's absolute value is the model's reading (log 54). -/
def Obligations.MatrixOperations : Prop :=
  ∀ (s : State) (core : Nat) (j : MatJob) (sp : Split), (s.core core).mq.head? = some j → (s.core core).saving = false →
    matReady s core j = true →
    (s.warp j.warp).frontier[(s.warp j.warp).cur]? = some sp →
    let k := s.core core
    let g := s.group j.grp
    let op := j.op
    let free (p : Core → Prop) : Prop := PerformsMatrix s core j true id p
    let held (f : Warp → Warp) (y : Option Latch) : Prop :=
      PerformsMatrix s core j true (heldEnds j.warp sp f y) (fun k2 => k2.tiles = k.tiles)
    let gives (dst : Nat) (v : Word) : Prop := held (fun w => w.setS dst v) (some (.uniform v))
    (∀ c, op = .mzero c → free (fun k2 => TileBecomes k k2 c (fun _ _ => 0) (fun _ => false)))
    ∧ (∀ c ra rb z, op = .mma c ra rb z →
      let a := readRec ra
      let b := readRec rb
      let t := k.tile c
      free (fun k2 => TileBecomes k k2 c
        (fun i l => if i < a.rows ∧ l < b.cols then productOf s core g a b 0 i l (if z then 0 else t.at i l) else t.at i l)
        (fun i => t.poison.getLsbD i || (decide (i < a.rows) && productPoison s core g a b 0 i))))
    ∧ (∀ c ra, op = .mldc c ra →
      let r := readRec ra
      let t := k.tile c
      let code (i l : Nat) : Nat :=
        if r.fmt = 11 then natOfBytes (r.line s core g 0 (if r.col then l else i)).1 / 2 ^ (96 * (if r.col then i else l)) % 2 ^ 96
        else a96.exact (elemOf s core g r 0 0 i l)
      r.space ≠ 2 → free (fun k2 => TileBecomes k k2 c (fun i l => if i < r.rows ∧ l < r.cols then code i l else t.at i l)
        (fun i => if i < r.rows then rowPoison s core g r 0 i || (decide (r.cols ≠ 64) && t.poison.getLsbD i) else t.poison.getLsbD i)))
    ∧ (∀ d a tr q, op = .mmov d a tr q →
      let t := k.tile a
      let elem (i l : Nat) : Nat := if tr then t.at l i else t.at i l
      free (fun k2 => TileBecomes k k2 d
        (fun i l => match q with
          | none => elem i l
          | some q => a96.exact ((f32.read q.toNat).times (a96.read (elem i l))))
        (fun i => if tr then t.poison != 0 else t.poison.getLsbD i)))
    ∧ (∀ rd c rnd, op = .mstc rd c rnd →
      let r := readRec rd
      let t := k.tile c
      let place (a : Nat) : Nat := recPlace core g r.space ((r.start 0).toNat + a * r.pitch)
      let mem (u : State) : Memory := if r.space = 0 then u.ls else u.vault
      let bad (u : State) (a : Nat) : Bool := SMap.look false (if r.space = 0 then u.lsBad else u.vaultBad) (a / 128)
      let code (i l : Nat) : Nat × Bool := storeCode r.fmt rnd (t.at i l)
      r.space ≤ 1 → r.packed = false → r.minor * r.width % 8 = 0 → r.len ≤ r.pitch →
      ∃ t2, exec (.matrixOpPerform core) s = .next (tryRelease t2 j.grp) ∧ t2.warps = s.warps ∧ t2.phys = s.phys
        ∧ t2.core core = { k with mq := k.mq.filter (fun x => x.id != j.id) }
        ∧ (∀ i l, i < r.rows → l < r.cols →
            let a := if r.col then l else i
            let b := if r.col then i else l
            little (mem t2) (place a) r.len / 2 ^ (r.width * b) % 2 ^ r.width = (code i l).1 % 2 ^ r.width
            ∧ (t.poison.getLsbD i = true ∨ (code i l).2 = true → bad t2 (place a + r.width * b / 8) = true))
        ∧ (∀ p, (∀ a, a < r.major → p < place a ∨ place a + r.len ≤ p) → Memory.byte (mem t2) p = Memory.byte (mem s) p)
        ∧ (r.space ≠ 0 → t2.ls = s.ls) ∧ (r.space = 0 → t2.vault = s.vault))
    ∧ (∀ dst c rows cols kind, op = .mnrm dst c rows cols kind →
      let t := k.tile c
      ((∀ i, i < rows → t.poison.getLsbD i = false) → gives dst (BitVec.ofNat 64
        (normOf kind rows cols (fun i l => f32.exact (lessOne (a96.read (t.at i l)) (kind == 1 && i == l))))))
      ∧ ((∃ i, i < rows ∧ t.poison.getLsbD i = true) →
        PerformsMatrix s core j true (fun t => poisonFault t j.warp j.pc 0) (fun k2 => k2.tiles = k.tiles)))
    ∧ (∀ n x, op = .mqldOne n x → held (fun w => w.setQ n x) none)
    ∧ (∀ e, op = .mqld e → e.space = .ls ∨ e.space = .vault →
      let p := if e.space = .ls then core * 2 ^ 20 + g.lsBase + e.addr else e.addr
      let bad (a : Nat) : Bool := SMap.look false (if e.space = .ls then s.lsBad else s.vaultBad) (a / 128)
      ((∀ i, i < 64 → bad (p + i) = false) → ∃ z : Warp → Warp, held z none ∧ ∀ u : Warp, { z u with qr := u.qr } = u
        ∧ ∀ n, n < 16 → (z u).q n = BitVec.ofNat 32 (little (if e.space = .ls then s.ls else s.vault) (p + 4 * n) 4))
      ∧ (∀ i, i < 64 → bad (p + i) = true → (∀ b, b < i → bad (p + b) = false) →
        PerformsMatrix s core j true (fun t => poisonFault t j.warp j.pc ((e.addr + i) / 128 * 128)) (fun k2 => k2.tiles = k.tiles)))
    ∧ (∀ dst c n, op = .mstat dst c n → n < 5 →
      let st := (k.tile c).status.toNat
      gives dst (BitVec.ofNat 64 ([st % 2 ^ 32, st / 2 ^ 32 % 2 ^ 32, st / 2 ^ 64 % 2 ^ 8, st / 2 ^ 72 % 8, (k.tile c).poison.toNat].getD n 0)))
    ∧ (∀ dst x, op = .mstatQ dst x → gives dst (BitVec.ofNat 64 x.toNat))

/-- R400, R408 to R412: one step of MLOOP, MPOLY or MITER from the progress in PXI: what its tiles become, PXI's new value, and how the
instruction completes, with PXI = 0, or traps.
That MITER passes over a recorded S2 of a cubic form and a recorded S4 in step mode is the model's reading (log 150). -/
def Obligations.MatrixLoops : Prop :=
  ∀ (s : State) (core : Nat) (j : MatJob) (sp : Split), (s.core core).mq.head? = some j → (s.core core).saving = false →
    matReady s core j = true →
    (s.warp j.warp).frontier[(s.warp j.warp).cur]? = some sp →
    let k := s.core core
    let g := s.group j.grp
    let pxi := (s.warp j.warp).pxi.toNat
    let prog := pxi % 2 ^ 16
    let done (p : Core → Prop) : Prop := PerformsMatrix s core j true (heldEnds j.warp sp (fun w => { w with pxi := 0 }) none) p
    let goes (kind n : Nat) (p : Core → Prop) : Prop := PerformsMatrix s core j false (heldGoes j.warp (kind * 2 ^ 60 + n)) p
    (∀ c ra rb z n, j.op = .mloop c ra rb z n →
      let a := readRec ra
      let b := readRec rb
      let t := k.tile c
      let step (k2 : Core) : Prop := TileBecomes k k2 c
        (fun i l => if i < a.rows ∧ l < b.cols then productOf s core g a b prog i l (if z ∧ prog = 0 then 0 else t.at i l) else t.at i l)
        (fun i => t.poison.getLsbD i || (decide (i < a.rows) && productPoison s core g a b prog i))
      (n ≤ prog → done (fun k2 => k2.tiles = k.tiles)) ∧ (prog + 1 = n → done step) ∧ (prog + 1 < n → goes 2 (prog + 1) step))
    ∧ (∀ d x n m ff q, j.op = .mpoly d x n m ff q → n ≤ 64 → d ≠ x → q.length = m + 1 →
      let D := k.tile d
      let X := k.tile x
      let base (i l : Nat) : Nat := if i = l then a96.exact (f32.read ((q[m - prog]?).getD 0).toNat) else 0
      let step (k2 : Core) : Prop := TileBecomes k k2 d
        (fun i l => if i < n ∧ l < n then
            (if prog = 0 then base i l
              else sumOf 16 n (passList ff ff) (fun part c => feed ff part (D.at i c)) (fun part c => feed ff part (X.at c l)) (base i l % 2 ^ 96))
          else D.at i l)
        (fun i => if i < n then decide (prog ≠ 0) && (D.poison.getLsbD i || (List.range n).any (fun c => X.poison.getLsbD c))
          else D.poison.getLsbD i)
      (m < prog → done (fun k2 => k2.tiles = k.tiles)) ∧ (prog = m → done step) ∧ (prog < m → goes 3 (prog + 1) step))
    ∧ (∀ x m n cap ff step ctrap q fresh, j.op = .miter x m n cap ff step ctrap q fresh → x ≠ 1 → x ≠ 2 → 1 ≤ m → m ≤ 64 → 1 ≤ n → n ≤ 64 →
      q.length = 5 →
      let X := k.tile x
      let c1 := k.tile 1
      let c2 := k.tile 2
      let it := prog % 256
      let sub := prog / 256 % 8
      let dc := prog / 2048 % 2
      let co (i : Nat) : FV := f32.read ((q[i]?).getD 0).toNat
      let quintic := !(co 2).isZero
      let st : BitVec 128 := if fresh ∧ prog = 0 then 0 else X.status
      let anyBad (t : Tile) : Bool := (List.range m).any (fun c => t.poison.getLsbD c)
      let gram (Z : Tile) (i l : Nat) : Nat :=
        sumOf 16 n (passList ff ff) (fun part c => feed ff part (Z.at i c)) (fun part c => feed ff part (Z.at l c)) 0
      let mul (A B : Tile) (i l : Nat) : Nat :=
        sumOf 16 m (passList ff ff) (fun part c => feed ff part (A.at i c)) (fun part c => feed ff part (B.at c l)) 0
      let next (n : Nat) (p : Core → Prop) : Prop := goes 4 (dc * 2048 + n * 256 + it) p
      let cleared : Core := k.setTile x { X with status := st }
      (prog ≠ 0 → it = cap → done (fun k2 => k2.tiles = k.tiles))
      ∧ (it ≠ cap →
        (sub = 0 → next 1 (fun k2 => TileBecomes cleared k2 1 (fun i l => if i < m ∧ l < m then gram X i l else 0)
          (fun i => decide (i < m) && anyBad X)))
        ∧ (sub = 1 → next (if quintic then 2 else 3) (fun k2 => TileBecomes cleared k2 2 (fun i l => if i < m ∧ l < n then mul c1 X i l else 0)
          (fun i => decide (i < m) && (c1.poison.getLsbD i || anyBad X))))
        ∧ (sub = 2 → quintic = true → next 3 (fun k2 => TileBecomes cleared k2 1 (fun i l => if i < m ∧ l < n then mul c1 c2 i l else 0)
          (fun i => decide (i < m) && (c1.poison.getLsbD i || anyBad c2))))
        ∧ (sub = 2 → quintic = false → next 3 (fun k2 => k2.tiles = k.tiles))
        ∧ (sub = 4 → step = true → goes 4 (dc * 2048 + it + 1) (fun k2 => k2.tiles = k.tiles))
        ∧ (let sum (i l : Nat) : FV :=
            let v := ((co 0).times (a96.read (X.at i l))).plus ((co 1).times (a96.read (c2.at i l)))
            if quintic then v.plus ((co 2).times (a96.read (c1.at i l))) else v
          let new (i l : Nat) : Nat := if i < m ∧ l < n then a96Sum (sum i l) % 2 ^ 96 else X.at i l
          let newBad (i : Nat) : Bool :=
            X.poison.getLsbD i || (decide (i < m) && (c2.poison.getLsbD i || (quintic && c1.poison.getLsbD i)))
          let gramOf (i l : Nat) : Nat := gram X i l % 2 ^ 96
          (sub = 3 → step = false → next 4 (fun k2 => TileBecomes cleared k2 x new newBad))
          ∧ (sub = 3 ∧ step = true ∨ sub = 4 ∧ step = false →
            let r := if sub = 3 then normOf 0 m n (fun i l => f32.exact ((a96.read (new i l)).plus (a96.read (X.at i l)).minus))
              else normOf 1 m m (fun i l => f32.exact (lessOne (a96.read (gramOf i l)) (i == l)))
            let v := f32.read r
            let n1 := it + 1
            let rp := st.toNat % 2 ^ 32
            let grew : Prop := 2 ≤ n1 ∧ ((co 4).times (f32.read rp)).lt v = true
            let small : Prop := v.lt (co 3) = true ∨ v.same (co 3) = true
            let finite : Prop := ∃ neg a e, v = .fin neg a e
            let progress (d : Nat) : Nat := d * 2048 + (if step then 0 else 256) + n1
            let word (flag : Nat) : BitVec 128 := BitVec.ofNat 128 ((st.toNat / 2 ^ 72 % 8 ||| flag) * 2 ^ 72 + n1 * 2 ^ 64 + rp * 2 ^ 32 + r)
            let tiles (flag : Nat) (k2 : Core) : Prop :=
              if sub = 3 then TileBecomes (k.setTile x { X with status := word flag }) k2 x new newBad
              else TileBecomes (k.setTile x { X with status := word flag }) k2 1 (fun i l => if i < m ∧ l < m then gram X i l else 0)
                (fun i => decide (i < m) && anyBad X)
            let trap (cause : Cause) (d odd flag : Nat) : Prop :=
              PerformsMatrix s core j true (heldTraps j.warp sp cause (BitVec.ofNat 64 (4 * 2 ^ 60 + progress d))
                (BitVec.ofNat 64 (odd * 2 ^ 40 + n1 * 2 ^ 32 + r))) (tiles flag)
            it < cap → cap < 256 →
            (¬ finite → trap .iterDiverge dc 1 4)
            ∧ (finite → small → done (tiles 1))
            ∧ (finite → ¬ small → grew → dc = 1 → trap .iterDiverge 0 0 4)
            ∧ (finite → ¬ small → ¬(grew ∧ dc = 1) → n1 = cap → ctrap = true → ∀ d, (grew → d = dc + 1) → (¬ grew → d = 0) →
              trap .iterCap d 0 2)
            ∧ (finite → ¬ small → ¬(grew ∧ dc = 1) → n1 = cap → ctrap = false →
              PerformsMatrix s core j true (heldEnds j.warp sp (fun w => { w with itercap := true, pxi := 0 }) none) (tiles 2))
            ∧ (finite → ¬ small → ¬(grew ∧ dc = 1) → n1 < cap → ∀ d, (grew → d = dc + 1) → (¬ grew → d = 0) →
              goes 4 (progress d) (tiles 0))))))

/-! ### Class 11: cast regions (R419 to R446) -/

/-- R438 to R444: the cast words: CREG enters a region that builds, CUNREG closes one, RECAST starts a recast or is busy, each with its
token pending, once its warp's earlier accesses are performed; CGEN, CEVAL and CFLASH read the current generation, its mould and its table's count.
That a misaligned descriptor traps ILLEGAL_OPERAND, and that such a word waits at its issue for the accesses before it, are the model's
readings (logs 141 and 153). -/
def Obligations.CastWords : Prop :=
  ∀ (f : RWord) (s : State) (sp : Split), (slotCtx s f sp).act ≠ 0 →
    let w := seen s sp
    let g := s.group w.grp
    let core := s.issuer / 32
    let n := (w.uni f.a).toNat
    let va := (w.areg f.b).toNat
    let byte (i : Nat) : Byte := cellAt s core g .virt ((va + i) % 2 ^ 80)
    let bytes (a k : Nat) : List Byte := (List.range k).map (fun i => cellAt s core g .virt (a + i))
    let tok : RegTok := { launch := g.launch, gid := g.gid, index := g.warps.idxOf s.issuer, token := f.dst.toNat - 0x100, scope := f.scope,
                          seq := s.nextId }
    let bit : Word := 1#64 <<< (f.dst.toNat - 0x100)
    let resident : Prop := findGroup s g.launch g.gid = some (w.grp, g) ∧ s.issuer ∈ g.warps
    let pends (i : Instr) (p : State → Prop) : Prop := ∃ t, exec i s = .next (ended t f sp false { w with tokPend := w.tokPend ||| bit } none)
      ∧ t.warps = s.warps ∧ t.issuer = s.issuer ∧ t.ls = s.ls ∧ p t
    let atOnce (i : Instr) (x : Word) : Prop := ∃ t : State, Learned s t
      ∧ exec i s = .next (ended (({ t with nextId := s.nextId + 1 } : State).acquire core) f sp false
      { w.setS (f.dst.toNat - 0x100) x with tokPend := (w.tokPend ||| bit) &&& ~~~bit } none)
    let first : Prop := releaseReady s s.issuer s.nextId f.scope = true
    let mine (r : Region) : Prop := n < 256 ∧ s.region n = some r ∧ r.asid = g.asid
    let mould (d : Nat) (a : Nat) (m : List Byte) : Prop := mouldHead d (bytes a 16) = true ∧ m = bytes a (mouldLength d (bytes a 16))
      ∧ Readable s core g a (mouldLength d (bytes a 16))
    (Issues (shCreg f) f false [] s sp → n < 256 → s.region n = none → va % 16 = 0 → first → Readable s core g va 64 →
      let d := bytes va 64
      let a := (va + field d 0x28 6) % 2 ^ 80
      ∀ r m, readDescriptor d g = some r → mould r.ndim a m → pends (.creg f) (fun t => t.phys = s.phys ∧ ∃ r2, t.region n = some r2 ∧ r2.st = .building
        ∧ r2.asid = g.asid ∧ r2.gen = 0 ∧ r2.mould = m ∧ r2.recast = some { prop := some m, tok := some tok }
        ∧ r2.ndim = (byte 0).toNat ∧ r2.efmt = (byte 1).toNat ∧ r2.dims = ((List.range 4).map (fun i => field d (8 + 2 * i) 2)).take r2.ndim
        ∧ r2.base = field d 0x10 10 ∧ r2.refPa = field d 0x20 8 ∧ r2.cap = field d 0x38 4 ∧ r2.eps = field d 4 4 % 2 ^ 31
        ∧ r2.flashVault = (byte 0x37).getLsbD 7 ∧ r2.flash = field d 0x30 8 % 2 ^ 52))
    ∧ (Issues (shCreg f) f false [] s sp → n < 256 → (∃ r, s.region n = some r) ∨ va % 16 ≠ 0 →
      exec (.creg f) s = .next (conclude s (slotCtx s f sp) f.h false false (.trap .illegalOperand (wordInfo w sp) sp.mask)))
    ∧ (Issues (shCunreg f) f false [] s sp → ∀ r, mine r → first → areaBusy s r = none →
      (r.st = .live → r.recast = none → pends (.cunreg f) (fun t => t.phys = s.phys
        ∧ t.region n = some { r with st := .closing, closeTok := [tok], closeAt := s.nextId }))
      ∧ (r.st = .closing → pends (.cunreg f) (fun t => t.phys = s.phys ∧ t.region n = some { r with closeTok := r.closeTok ++ [tok] }))
      ∧ (∀ rc k gk gr wp, r.recast = some rc → rc.tok = some k → r.flashVault = true → findGroup s k.launch k.gid = some (gk, gr) →
        gr.warps[k.index]? = some wp → SMap.has s.warps wp = true → wp ≠ s.issuer → k.token < 64 → (s.warp s.issuer).block = .free →
        let left (w2 : Warp) (t : State) : Prop := exec (.cunreg f) s = .next (ended t f sp false w2 none)
          ∧ t.warp s.issuer = s.warp s.issuer ∧ t.issuer = s.issuer ∧ t.phys = s.phys ∧ t.ls = s.ls
        (r.st = .recasting → ∃ t, left { w with tokPend := w.tokPend ||| bit } t
          ∧ t.region n = some { r with st := .closing, recast := none, closeTok := [tok], closeAt := s.nextId }
          ∧ (t.warp wp).s k.token = BitVec.ofNat 64 (4 * 2 ^ 40 + flashCount s r (r.gen % 2)))
        ∧ (r.st = .building → r.gen = 0 → resident → ∃ t,
          left { w.setS (f.dst.toNat - 0x100) 0 with tokPend := (w.tokPend ||| bit) &&& ~~~bit } t
          ∧ t.region n = none ∧ (t.warp wp).s k.token = BitVec.ofNat 64 (4 * 2 ^ 40))))
    ∧ (Issues (shRecast f) f false [] s sp → ∀ r m, mine r → first → mould r.ndim va m → areaBusy s r = none →
      (r.st = .live → pends (.recast f) (fun t => (r.flashVault = true → t.phys = s.phys) ∧
        t.region n = some { r with st := .recasting, recast := some { prop := some m, urgent := false, tok := some tok } }))
      ∧ (r.st ≠ .live → resident → atOnce (.recast f) (BitVec.ofNat 64 (2 * 2 ^ 40 + if r.st = .building then 0 else flashCount s r (r.gen % 2)))))
    ∧ (Issues (shRecastFit f) f false [] s sp → ∀ r, mine r → first → areaBusy s r = none →
      (r.st = .live → pends (.recastFit f) (fun t => ∃ rc, t.region n = some { r with st := .recasting, recast := some rc }
        ∧ rc.urgent = false ∧ rc.tok = some tok ∧ rc.freeze = none
        ∧ (s.mode.getLsbD 2 = true → rc.prop = none ∧ ∃ id, t.moulds = s.moulds ++ [(id, n)])
        ∧ (s.mode.getLsbD 2 = false → (∃ m, rc.prop = some m) ∧ t.moulds = s.moulds)))
      ∧ (r.st ≠ .live → resident → atOnce (.recastFit f) (BitVec.ofNat 64 (2 * 2 ^ 40 + if r.st = .building then 0 else flashCount s r (r.gen % 2)))))
    ∧ (∀ r, mine r → r.st = .live ∨ r.st = .recasting → acquirePending (s.core core) s.issuer = false →
      (Issues (shCgen f) f false [] s sp → (f.mod 0 0 = 1 → 1 ≤ f.scope → releasePending s s.issuer = false) →
        let x : Word := BitVec.ofNat 64 (r.gen + (if (r.recast.map (fun y => y.urgent)) = some true then 2 ^ 32 else 0)
          + (if r.recast = none then 0 else 2 ^ 33))
        exec (.cgen f) s = .next (ended (if f.mod 0 0 = 1 then s.acquire core else s) f sp false (wroteS w f x) (some (.uniform x))))
      ∧ (Issues shCeval f false [] s sp → r.bad = false →
        GivesVI (.ceval f) f s sp false (fun t => BitVec.ofNat 64 (mouldValue r.mould r.efmt r.dims
          ((List.range r.ndim).map (fun d => (w.vsrc true f.b t).toNat / 2 ^ (16 * d) % 2 ^ 16)))))
      ∧ (Issues shCflash f false [] s sp → GivesS (.cflash f) f s sp (BitVec.ofNat 64 (flashCount s r (r.gen % 2) + 2 ^ 32 * r.cap))))
    ∧ (∀ r, mine r → r.st = .building ∨ r.st = .closing → acquirePending (s.core core) s.issuer = false → Issues shCflash f false [] s sp →
      exec (.cflash f) s = .next (s.setWarp s.issuer { s.warp s.issuer with block := .region n [] }))

/-- R427, R429, R430: an evaluator returns, byte by byte, the entry of a load's point in the current table, or else the mould's value; a
store of a region enters each point it touches, in the current table and in one that is being built, and writes the reference copy;
a line that finds the list full enters the side log, and a recast starts unless one runs; in host-assisted mode it is to
fail. That a replayed store fails so in host-assisted mode (R431) is the model's reading (log 106). -/
def Obligations.CastAccesses : Prop :=
  (∀ (s : State) (core ix part n : Nat) (l : Load) (p : Part) (r : Region), (s.core core).loads[ix]? = some l → l.todo[part]? = some p →
    p.region = some n → s.region n = some r → (∀ rc, r.recast = some rc → rc.freeze = none) → (∀ i, castBusy s r i = none) → r.st = .live ∨ r.st = .recasting →
    (∀ x ∈ (s.core core).stores, x.cast = none ∨ l.id ≤ x.id ∨ x.asid ≠ l.asid ∨ x.va ≠ p.vline * 128) →
    (∀ x ∈ (s.core core).sidelog, l.id ≤ x.id ∨ x.asid ≠ l.asid ∨ x.va ≠ p.vline * 128) →
    strays s core (s.nameOf l.warp) l.asid p.vline = [] →
    earlierOnLine s core l.warp (s.nameOf l.warp) l.id p.line l.space = false → engineHolds s p.line l.id = false →
    (∀ i, ∀ line ∈ flashLines s r i, (∀ y ∈ s.windows, y.line ≠ line) ∧ ownerDie s line = none) →
    ∃ (t : State) (l2 : Load), exec (.castLoad core ix part) s = .next t ∧ t.phys = s.phys ∧ t.vault = s.vault ∧ t.warps = s.warps
      ∧ t.regions = s.regions ∧ l2 ∈ (t.core core).loads ∧ l2.id = l.id
      ∧ l2.todo = l.todo.filter (fun q => !(q.vline == p.vline && q.region == some n))
      ∧ ∀ a, SMap.look 0 l2.got a =
          if a ∈ l.bytesOn p.vline ∧ r.base ≤ a ∧ a < r.base + r.size then
            let i := (a - r.base) / r.elem
            let x := probe s r (r.gen % 2) i
            BitVec.ofNat 8 ((if x.found then x.value else r.valueAt r.mould i) / 256 ^ ((a - r.base) % r.elem))
          else SMap.look 0 l.got a)
  ∧ (∀ (s : State) (core ix n : Nat) (x : Store) (r : Region), (s.core core).stores[ix]? = some x → x.core = core → x.cast ≠ none → x.va % 128 = 0 →
    (∀ y ∈ (s.core core).stores, ¬(y.id < x.id ∧ y.asid = x.asid ∧ y.va = x.va)) → storeReady s x = true →
    (∀ y ∈ (s.core core).sidelog, ¬(y.id < x.id ∧ y.asid = x.asid ∧ y.va = x.va)) →
    (s.core core).sidelog.length < 256 → s.region n = some r → r.st = .live ∨ r.st = .recasting → Quiet s r → x.bmask ≠ 0 →
    (∀ j, j < 128 → x.bmask.getLsbD j = true → regionAt s x.asid (x.va + j) = some (n, r)) → r.asid = x.asid → (∀ i, castBusy s r i = none) →
    let written (a : Nat) : Bool := decide (x.va ≤ a) && decide (a < x.va + 128) && x.bmask.getLsbD (a - x.va)
    let touched (i : Nat) : Bool := (List.range r.elem).any (fun j => written (r.base + r.elem * i + j))
    let newByte (off : Nat) : Byte := if written (r.base + off) then lineByte x.data (r.base + off - x.va) else refByte s r off
    let newValue (i : Nat) : Nat := ((List.range r.elem).map (fun j => (newByte (r.elem * i + j)).toNat * 256 ^ j)).sum
    let fits (table : Nat) : Prop := flashCount s r table + (List.range r.points).countP (fun i => touched i && !(probe s r table i).found) ≤ r.cap
    let cur := r.gen % 2
    let other := (r.gen + 1) % 2
    let entered (t : State) (table : Nat) (pin : Bool) : Prop := ∀ i, i < r.points →
      if touched i then (probe t r table i).found = true ∧ (probe t r table i).value = newValue i ∧ (probe t r table i).pin = pin
      else SameEntry s t r table i
    (TableSound s r cur → fits cur → (r.st = .recasting → TableSound s r other ∧ fits other) →
      ∃ t, exec (.castStore core ix) s = .next t ∧ (t.core core).stores = (s.core core).stores.filter (fun y => y.id != x.id)
        ∧ t.region n = some r ∧ entered t cur false ∧ (r.st = .recasting → entered t other true)
        ∧ (∀ off, off < r.size → refByte t r off = newByte off) ∧ t.warps = s.warps ∧ t.ls = s.ls)
    ∧ (¬ fits cur → TableSound s r cur →
      let assisted := s.mode.getLsbD 4
      let full : Store := { x with op := 5, was := if x.op = 5 then x.was else x.op, reason := 2, req := none, cast := some n }
      let y : Store := if assisted then { full with fail := true, ready := true }
        else { full with ready := false, tries := if r.st = .live then 1 else x.tries }
      (r.st = .live ↔ r.recast = none) → ∃ t, exec (.castStore core ix) s = .next t
        ∧ (t.core core).stores = (s.core core).stores.filter (fun z => z.id != x.id)
        ∧ (t.core core).sidelog = (s.core core).sidelog ++ [y] ∧ t.phys = s.phys ∧ (∀ i, SameEntry s t r cur i)
        ∧ (r.st = .recasting ∨ assisted = true → t.regions = s.regions)
        ∧ (r.st = .live → assisted = false → ∃ rc, t.region n = some { r with st := .recasting, recast := some rc } ∧ rc.urgent = true ∧ rc.tok = none)))

/-- R432, R434, R439, R440, R465: a build and a recast's scan enter exactly the points that the mould misses by more than ε, or are
rejected when these exceed the capacity; the last evaluator's acknowledgement is the flip; a close frees the entry once its earlier
stores are performed; tokens and waiting warps learn of each. -/
def Obligations.RegionsLive : Prop :=
  ∀ (s : State) (n : Nat) (r : Region), s.region n = some r →
    let count (m : List Byte) : Nat := (List.range r.points).countP (misses s r m)
    let table (t : State) (k : Nat) (m : List Byte) : Prop := flashCount t r k = count m ∧ ∀ i, i < r.points →
      (probe t r k i).found = misses s r m i
      ∧ (misses s r m i = true → (probe t r k i).value = refValue s r i ∧ (probe t r k i).pin = false)
    let told (t : State) (k : Option RegTok) (outcome entries : Nat) : Prop :=
      ∀ tok, k = some tok → TokenGets s t tok (BitVec.ofNat 64 (outcome * 2 ^ 40 + entries))
    (∀ rc, r.st = .building → r.recast = some rc → (∀ k, rc.tok = some k → tokReady s k = true) → Quiet s r → badPage s r = none →
      (count r.mould ≤ r.cap → ∃ t, exec (.regionBuildComplete n) s = .next t ∧ t.region n = some { r with st := .live, recast := none }
        ∧ table t 0 r.mould ∧ told t rc.tok 0 (count r.mould) ∧ Wakes s t n false ∧ t.phys = s.phys)
      ∧ (r.cap < count r.mould → ∃ t, exec (.regionBuildComplete n) s = .next t ∧ t.region n = none ∧ told t rc.tok 1 0
        ∧ Wakes s t n true ∧ t.phys = s.phys))
    ∧ (∀ rc va, r.st = .building → r.recast = some rc → (∀ k, rc.tok = some k → tokReady s k = true) → regionBusy s r = none →
      badPage s r = some va → ∃ t, exec (.regionBuildComplete n) s = .next t ∧ t.region n = none ∧ Wakes s t n true ∧ t.phys = s.phys
        ∧ (s.ring = none → s.log.length < 1024 → ∃ x, t.log = s.log ++ [x] ∧ x.extractLsb' 0 8 = 0x0C)
        ∧ ∀ tok, rc.tok = some tok → TokenGets s t tok (BitVec.ofNat 64 (2 ^ 63 + 2 ^ 60 + va / 2 ^ 16 % 2 ^ 60)))
    ∧ (∀ rc m, r.st = .recasting → r.recast = some rc → rc.prop = some m → rc.freeze = none → (∀ k, rc.tok = some k → tokReady s k = true) →
      Quiet s r →
      let b := (r.gen + 1) % 2
      (∀ slot, slot < r.slots → slotKey s r b slot = 0) → flashCount s r b = 0 →
      (count m ≤ r.cap → ∃ t, exec (.recastScanDone n) s = .next t
        ∧ t.region n = some { r with recast := some { rc with freeze := some (List.range 256) } } ∧ table t b m
        ∧ (∀ i, SameEntry s t r (r.gen % 2) i) ∧ t.phys = s.phys ∧ t.warps = s.warps)
      ∧ (r.cap < count m → ∃ t, exec (.recastScanDone n) s = .next t ∧ t.region n = some { r with st := .live, recast := none }
        ∧ (∀ i, SameEntry s t r (r.gen % 2) i) ∧ (∀ i, (probe t r b i).found = false) ∧ t.phys = s.phys
        ∧ told t rc.tok 1 (flashCount s r (r.gen % 2))))
    ∧ (∀ rc l slice, r.recast = some rc → rc.freeze = some l → slice ∈ l →
      (l.filter (fun x => x != slice) ≠ [] →
        exec (.evaluatorFreezeAck n slice) s =
          .next (s.setRegion n { r with recast := some { rc with freeze := some (l.filter (fun x => x != slice)) } }))
      ∧ (l = [slice] → r.flashVault = true →
        let old := r.gen % 2
        let gen := (r.gen + 1) % 2 ^ 32
        ∃ t, exec (.evaluatorFreezeAck n slice) s = .next t
          ∧ t.region n = some { r with st := .live, gen := gen, mould := rc.prop.getD r.mould, recast := none, bad := false }
          ∧ little t.vault (r.flash + 8) 4 = gen ∧ flashCount t r old = flashCount s r old
          ∧ (∀ i, SameEntry s t r old i ∧ SameEntry s t r (gen % 2) i) ∧ told t rc.tok 0 (flashCount s r (gen % 2)) ∧ t.phys = s.phys))
    ∧ (r.st = .closing → closeWaits s n r = false →
      ∃ t, exec (.regionCloseComplete n) s = .next t ∧ t.region n = none ∧ t.phys = s.phys ∧ t.vault = s.vault ∧ Wakes s t n true
        ∧ ∀ tok, r.closeTok = [tok] → tokReady s tok = true → TokenGets s t tok (BitVec.ofNat 64 (flashCount s r (r.gen % 2))))

/-! ### The device's edges (R285, R450 to R464) -/

/-- R451, R452: what the messages that enqueue, repair, migrate, pre-empt and bind do, with the status and the value that the completion
record gives; a message that does not keep its op's ranges gives status 2 and nothing else. A group that a PREEMPT finds no entry for
in its queue is saved later, and the message waits for it.
The wait is the model's reading (log 94), as are the repair of the first poisoned entry and a BIND in any mode (log 93); the places of the
save areas are its choice (log 45). -/
def Obligations.HostMessages : Prop :=
  ∀ (m : HostMsg) (s : State), s.boot ≠ .failed →
    let arg (i n : Nat) : Nat := m.args.toNat / 256 ^ i % 256 ^ n
    let d := m.die.toNat
    let ix := m.index.toNat
    let replies (i : Instr) (status value : Nat) (p : State → Prop) : Prop := ∃ u, exec i s = .next (complete u m status value) ∧ p u
    let ok (op : Nat) : Prop := m.op.toNat = op ∧ msgOk m = true
    (∀ u status value, status < 256 →
      (m.recVa = 0 → complete u m status value = u)
      ∧ (m.recVa ≠ 0 → let h := (complete u m status value).hostMem
        let a := m.recVa.toNat
        little h a 4 = m.tag.toNat ∧ little h (a + 4) 1 = m.op.toNat ∧ little h (a + 5) 1 = status ∧ little h (a + 6) 2 = 0
        ∧ little h (a + 8) 8 = value % 2 ^ 64 ∧ little h (a + 16) 8 = u.cycle.toNat ∧ little h (a + 24) 8 = 0
        ∧ (∀ b, (b < a ∨ a + 32 ≤ b) → Memory.byte h b = Memory.byte u.hostMem b)
        ∧ complete u m status value = { u with hostMem := h }))
    ∧ (msgOk m = false → (∀ p ∈ ([(0x01, .msgEnqueue), (0x02, .msgRepair), (0x03, .msgMigrate), (0x04, .msgPreempt), (0x05, .msgBind),
          (0x06, .msgMould), (0x07, .msgPage), (0x08, .msgMode), (0x0A, .msgAttest), (0x0B, .msgRing), (0x0C, .msgReset)] :
          List (Nat × (HostMsg → Instr))), m.op.toNat = p.1 → exec (p.2 m) s = .next (complete s m 2 0))
        ∧ exec (.msgUnlistedOp m) s = .next (complete s m 2 0))
    ∧ (ok 0x01 →
      ((s.queue d ix).room = true → ∃ l, l / 2 ^ 29 = d ∧ replies (.msgEnqueue m) 0 l (fun u => ∃ e : QEntry,
        (u.queue d ix).entries = (s.queue d ix).entries ++ [e] ∧ e.kind = 1 ∧ e.launch = l ∧ e.group = 0 ∧ e.reserve = false
        ∧ (u.launch l).bytes = m.payload ∧ (u.launch l).host = true ∧ (u.launch l).faulted = false
        ∧ (u.launch l).notify = (if m.mflags = 1 then some m else none) ∧ u.phys = s.phys ∧ u.warps = s.warps))
      ∧ ((s.queue d ix).room = false → exec (.msgEnqueue m) s = .next (complete s m 1 0)))
    ∧ (ok 0x02 →
      (arg 0 1 = 0 →
        ((∀ e ∈ (s.queue d ix).entries, e.bad = false) → exec (.msgRepair m) s = .next (complete s m 3 0))
        ∧ (∀ l1 e l2, (s.queue d ix).entries = l1 ++ e :: l2 → (∀ x ∈ l1, x.bad = false) → e.bad = true →
          (readEntry m.payload e = none → exec (.msgRepair m) s = .next (complete s m 2 0))
          ∧ (∀ e2, readEntry m.payload e = some e2 → e2.bad = false ∧ ∃ sh : Shadow, sh[l1.length]? = some (e2, false)
            ∧ exec (.msgRepair m) s =
              .next (complete (s.setQueue d ix { entries := l1 ++ e2 :: l2, halted := l2.any (fun x => x.bad), shadow := sh }) m 0 0))))
      ∧ (arg 0 1 = 1 → ∀ l1 e l2, (s.die d).phases = l1 ++ e :: l2 → (∀ x ∈ l1, x.bad = false ∨ x.tgt ≠ ix) → e.bad = true → e.tgt = ix →
          ∀ e2, readEntry m.payload e = some e2 → (∀ x ∈ l2, x.bad = false) → replies (.msgRepair m) 0 0 (fun u =>
            (u.die d).phases = l1 ++ e2 :: l2 ∧ ix ∉ (u.die d).phaseHalted
            ∧ ∀ c, c ≠ ix → (c ∈ (u.die d).phaseHalted ↔ c ∈ (s.die d).phaseHalted)))
      ∧ (arg 0 1 = 2 → (s.node d ix).kind ≠ 0 → (s.node d ix).bad = true → field m.payload 0 1 ≠ 0 → replies (.msgRepair m) 0 0 (fun u =>
            (u.node d ix).bad = false ∧ (u.node d ix).kind = field m.payload 0 1 ∧ (u.node d ix).count = field m.payload 4 2
            ∧ (∀ n, n ≠ ix → u.node d n = s.node d n)
            ∧ (SMap.rising (s.die d).nodes = true → (∀ p ∈ (s.die d).nodes, p.1 ≠ ix → p.2.bad = false ∧ p.2.faulted = false) → (u.die d).graphHalted = false)))
      ∧ (arg 0 1 = 2 → (s.node d ix).kind = 0 ∨ (s.node d ix).bad = false → exec (.msgRepair m) s = .next (complete s m 3 0)))
    ∧ (ok 0x03 →
      let src := arg 0 1
      let dst := arg 1 1
      let n := min (if src / 32 = dst / 32 then arg 2 1 else min (arg 2 1) (4096 - (s.die (dst / 32)).phases.length)) (queuedOn s src)
      replies (.msgMigrate m) 0 n (fun u => (∀ c, c ≠ src → c ≠ dst → queuedOn u c = queuedOn s c)
        ∧ (src ≠ dst → queuedOn u src = queuedOn s src - n ∧ queuedOn u dst = queuedOn s dst + n) ∧ u.phys = s.phys ∧ u.warps = s.warps))
    ∧ (ok 0x04 →
      let l := arg 0 4
      (SMap.has s.launches l = false → exec (.msgPreempt m) s = .next (complete s m 3 0))
      ∧ (SMap.has s.launches l = true → arg 4 1 = 1 → replies (.msgPreempt m) 0 0 (fun u => (u.launch l).faulted = true
          ∧ (∀ g, SMap.has u.groups g = true → (u.group g).launch = l → (u.group g).faulted = true) ∧ u.phys = s.phys))
      ∧ (SMap.has s.launches l = true → arg 4 1 = 0 → s.preempts = [] →
        (groupsOf s l = [] → exec (.msgPreempt m) s = .next (complete s m 0 0))
        ∧ (∀ g, groupsOf s l = [g] → (s.group g).launch = l → ∃ u, (exec (.msgPreempt m) s = .next u)
          ∧ (canSave s g = true → areaFree s g (saveArea s g) = true →
            (u.group g).saving = true ∧ (u.group g).saveAt = saveArea s g ∧ u.preempts = [(m, [g])] ∧ u.hostMem = s.hostMem)
          ∧ (canSave s g = false → (s.group g).faulted = false →
            u.preempts = [(m, [g])] ∧ u.groups = s.groups ∧ u.hostMem = s.hostMem))))
    ∧ (ok 0x05 →
      let k := s.core (ix % 256)
      exec (.msgBind m) s = .next (complete (s.setCore (ix % 256)
        { k with slots := SMap.put 0 (ix / 256) (BitVec.ofNat 64 (arg 0 8)) k.slots, pass := SMap.erase (ix / 256) k.pass }) m 0
        (SMap.look 0 k.slots (ix / 256)).toNat))

/-- R215, R441, R451, R455, R456, R458, R459: the messages that answer a request, set a mode, bind and unbind keys, attest and register
the ring.
That an unbinding of an unbound slot gives 3 is the model's reading (log 93), and the report's layout, the nonce first, its choice (log 48). -/
def Obligations.HostAnswersAndKeys : Prop :=
  ∀ (m : HostMsg) (s : State),
    let arg (i n : Nat) : Nat := m.args.toNat / 256 ^ i % 256 ^ n
    let ix := m.index.toNat
    let ok (op : Nat) : Prop := m.op.toNat = op ∧ msgOk m = true ∧ s.boot ≠ .failed
    let refused (i : Instr) (status : Nat) : Prop := exec i s = .next (complete s m status 0)
    (ok 0x06 →
      ((arg 0 4, ix) ∉ s.moulds → refused (.msgMould m) 3)
      ∧ (∀ r rc, (arg 0 4, ix) ∈ s.moulds → s.region ix = some r → r.recast = some rc →
        let n := mouldLength r.ndim m.payload
        (¬(mouldHead r.ndim m.payload = true ∧ n ≤ m.payload.length) → refused (.msgMould m) 2)
        ∧ (mouldHead r.ndim m.payload = true → n ≤ m.payload.length → ∃ u, exec (.msgMould m) s = .next (complete u m 0 0)
          ∧ u.region ix = some { r with recast := some { rc with prop := some (m.payload.take n) } } ∧ (arg 0 4, ix) ∉ u.moulds
          ∧ u.phys = s.phys)))
    ∧ (ok 0x07 →
      ((∀ r ∈ s.reqs, r.id = arg 0 4 → r.host = false) → refused (.msgPage m) 3)
      ∧ (∀ r wp w, findReq s (arg 0 4) = some r → r.host = true → r.regen = 0 → r.asker = .warp wp → SMap.find s.warps wp = some w →
        w.block = .fault → (∀ q ∈ s.reqs, q.id ≠ r.id → q.asker ≠ .warp wp) →
        ∃ u, exec (.msgPage m) s = .next (complete u m 0 0) ∧ u.reqs = s.reqs.filter (fun q => q.id != r.id) ∧ u.phys = s.phys
          ∧ u.warp wp = { w with
              block := .free
              verdict := w.verdict ++ (if arg 4 1 = 0 then [] else [(r.va / 2 ^ 16, decide (arg 4 1 = 2))]) }))
    ∧ (ok 0x08 → ∃ x : BitVec 7, exec (.msgMode m) s = .next (complete { s with mode := x } m 0 0)
        ∧ ∀ b, b < 7 → x.getLsbD b = if b = ix then decide (arg 0 1 = 1) else s.mode.getLsbD b)
    ∧ (ok 0x09 → arg 3 1 = 0 →
      let pair := arg 0 2 * 16 + arg 2 1
      let t := Config.transportKey s.kemNo (m.payload.take 1568)
      let taken : Prop := SMap.has s.keys ix = true ∨ ∃ k ∈ s.keys, k.2.1 = pair
      (taken → refused (.msgKey m) 4)
      ∧ (¬ taken → s.kemNo = 0 ∨ Config.keyUnwrap t (m.payload.drop 1568) = none → refused (.msgKey m) 2)
      ∧ (∀ k, ¬ taken → s.kemNo ≠ 0 → Config.keyUnwrap t (m.payload.drop 1568) = some k →
        exec (.msgKey m) s = .next (complete { s with keys := SMap.set ix (pair, k) s.keys, transport := some t } m 0 0)))
    ∧ (ok 0x09 → arg 3 1 = 1 →
      (SMap.has s.keys ix = true → exec (.msgKeyUnbind m) s = .next (complete { s with keys := SMap.erase ix s.keys } m 0 0))
      ∧ (SMap.has s.keys ix = false → refused (.msgKeyUnbind m) 3))
    ∧ (m.op.toNat = 0x0A → msgOk m = true → ∃ u, exec (.msgAttest m) s = .next u ∧ u.kemNo = s.kemNo + 1 ∧ u.transport = none ∧ u.keys = s.keys
        ∧ u.phys = s.phys ∧ (m.recVa = 0 → u.hostMem = s.hostMem)
        ∧ (m.recVa ≠ 0 → ∀ i, i < 32 → Memory.byte u.hostMem (m.recVa.toNat + i) = (m.payload[i]?).getD 0))
    ∧ (ok 0x0B →
      let ring : Ring := { n := arg 0 1, va := arg 8 16 }
      let word (h : Memory) (o : Nat) : Nat := little h (ring.va + o) 8
      (s.log = [] → ∃ u, exec (.msgRing m) s = .next (complete u m 0 0) ∧ u.ring = some ring ∧ u.log = [] ∧ u.logLost = 0
        ∧ word u.hostMem 16 = s.logLost % 2 ^ 64 ∧ word u.hostMem 0 = word s.hostMem 0)
      ∧ (∀ x, s.log = [x] → (word s.hostMem 0 + 2 ^ 64 - word s.hostMem 8) % 2 ^ 64 ≠ 2 ^ ring.n →
        ∃ u, exec (.msgRing m) s = .next (complete u m 0 0) ∧ u.ring = some ring ∧ u.log = [] ∧ u.logLost = 0
          ∧ word u.hostMem 0 = (word s.hostMem 0 + 1) % 2 ^ 64 ∧ word u.hostMem 16 = s.logLost % 2 ^ 64
          ∧ little u.hostMem (ring.va + 64 + 64 * (word s.hostMem 0 % 2 ^ ring.n)) 64 = x.toNat))

/-- R285, R357, R454, R457, R462, R463: a warm reset, from the host or after a record of sev 3, which waits for the stores under way; a cold
reset, the loss of power, a failed link, and Avosh's bind record; the tick of logical time, which no die's clock is behind with at any
turn.
That an agenda may name one tick early (log 97), what a cold reset leaves and keeps (log 96) and the two roots of trust (log 144) are the
model's choices; what a warm reset keeps is its reading (log 95). -/
def Obligations.ResetsAndTime : Prop :=
  (∀ s : State, s.cores.all (fun k => k.2.stores.isEmpty) = true →
    let restarted (t : State) : Prop := t.warps = [] ∧ t.groups = [] ∧ t.saved = [] ∧ t.launches = [] ∧ t.queues = []
    ∧ t.regions = [] ∧ t.l1 = [] ∧ t.l2 = [] ∧ t.tlb = []
    ∧ t.windows = [] ∧ t.ls = [] ∧ t.keys = [] ∧ t.mode = 0 ∧ t.cxlDown = [] ∧ t.sev3 = false ∧ t.vault = s.vault ∧ t.cycle = s.cycle
    ∧ (∀ c, ∃ v, t.core c = { ct := v } ∧ (s.windows = [] → v = (s.core c).ct))
    ∧ (∀ d, (s.windows = [] → (t.die d).dt = (s.die d).dt) ∧ (t.die d).phases = [] ∧ (t.die d).nodes = [] ∧ (t.die d).monitors = (s.die d).monitors)
    ∧ (s.windows = [] → s.dir = [] → ∀ line, line < 2 ^ 45 →
        rawLine t line = match s.l2At (homeDie line) line with
          | some y => if y.dirty then y.data else rawLine s line
          | none => rawLine s line)
    (∀ m : HostMsg, m.op = 0x0C → msgOk m = true → s.boot ≠ .failed → m.recVa = 0 → ∃ t, exec (.msgReset m) s = .next t ∧ restarted t)
    ∧ (s.sev3 = true → ∃ t, exec .avoshWarmReset s = .next t ∧ restarted t))
  ∧ (∀ s : State, s.cores.all (fun k => k.2.stores.isEmpty) = false → s.sev3 = true → ∃ t, exec .avoshWarmReset s = .next t
    ∧ t.resetting ≠ none ∧ t.warps = [] ∧ t.groups = [] ∧ t.queues = [] ∧ t.phys = s.phys ∧ t.hostMem = s.hostMem
    ∧ (∀ c, (t.core c).stores = (s.core c).stores ∧ (t.core c).ct = (s.core c).ct))
  ∧ (∀ s : State, Runs (exec .avoshWarmReset s) ∧ ∀ m : HostMsg, Runs (exec (.msgReset m) s))
  ∧ (∀ s : State, ∃ t, exec .coldReset s = .next t ∧ t.warps = [] ∧ t.groups = [] ∧ t.launches = [] ∧ t.queues = [] ∧ t.regions = []
    ∧ t.l1 = [] ∧ t.l2 = [] ∧ t.tlb = [] ∧ t.dir = [] ∧ t.vault = [] ∧ t.ls = [] ∧ t.keys = [] ∧ t.mode = 0 ∧ t.lost = false ∧ t.cycle = 0
    ∧ t.hostMem = s.hostMem ∧ t.flash = s.flash ∧ t.rollback = s.rollback
    ∧ t.boot = (if bootImages s = [] then .failed else .running) ∧ t.images = (bootImages s).map (fun x => x.digest)
    ∧ (∀ x ∈ bootImages s, ∃ io, io < 2 ∧ bootImage s io = some x)
    ∧ (∀ io x, bootImage s io = some x → x ∈ (SMap.look [] s.flash io).take 2 ∧ s.rollback ≤ x.version ∧ Config.shake256 x.bytes = x.digest
        ∧ Config.falconVerifies x.digest x.signature = true))
  ∧ (∀ s : State, (s.lost = true → exec .deviceLost s = .next s)
    ∧ (s.lost = false → ∃ (t : State) (l : List Act), exec .deviceLost s = .next t ∧ t.lost = true ∧ t.lostAnswers = s.lostAnswers ++ l
      ∧ { t with lost := s.lost, msgs := s.msgs, lostAnswers := s.lostAnswers } = s
      ∧ let asks (m : Msg) : Prop := 8 ≤ m.agent ∧ m.kind ∈ [MsgKind.rdS, .rdX, .upg, .putE, .putM]
        (∀ m, m ∈ t.msgs ↔ m ∈ s.msgs ∧ ¬ asks m) ∧ ∀ m ∈ s.msgs, asks m → .host m ∈ l))
  ∧ (∀ (s : State) (p : Nat), p < 8 → exec (.cxlLinkFail p) s = .next { s with cxlDown := SMap.set p true s.cxlDown })
  ∧ (∀ (s : State) (x : Turn) (d : Nat), d < 8 → s.resetting = none → (tick s x).arith / 256 ≤ ((tick s x).die d).ticks)
  ∧ (∀ (s : State) (d : Nat), d < 8 → (s.die d).ticks < s.arith / 256 →
    ((tickDies s).die d).dt = (s.die d).dt + (s.arith / 256 - (s.die d).ticks))
  ∧ (∀ (s : State) (d : Nat), s.arith / 256 < (s.die d).ticks → exec (.logicalTimeTick d) s = .next s)
  ∧ (∀ (s : State) (d : Nat), d < 8 → (s.die d).ticks ≤ s.arith / 256 → ∃ t, exec (.logicalTimeTick d) s = .next t
    ∧ t.die d = { s.die d with dt := (s.die d).dt + 1, ticks := (s.die d).ticks + 1 } ∧ (∀ e, e ≠ d → t.die e = s.die e)
    ∧ (∀ c, t.core c = if c / 32 = d then { s.core c with ct := (s.core c).ct + 1 } else s.core c) ∧ t.warps = s.warps ∧ t.phys = s.phys)
  ∧ (∀ (s : State) (core ix : Nat) (x : Word), core < 256 → ix < 16 → s.mode.getLsbD 0 = false → x.extractLsb' 56 5 = 0 → x.getLsbD 43 = false →
    (x.getLsbD 63 = true → x.extractLsb' 48 8 ≠ 0) →
    let k := s.core core
    exec (.avoshBindWrite core ix x) s =
      .next (s.setCore core { k with slots := SMap.put 0 ix x k.slots, pass := SMap.erase ix k.pass }))

/-! ### Words, steps and operands (R53 to R91) -/

/-- R53 to R55, R67, R77, R81: words that the spec writes out stand for the instructions that it names beside them, one of each class and
a pair; a full word of class 12 to 15, the all-zero and the all-ones word stand for none. -/
def Obligations.DecodeWords : Prop :=
  decodeWord 0x0008190382000006 = .sadd ⟨0x103, false, false, 0x103, 0x104, 0, 0, 6⟩
  ∧ decodeWord 0x08001803DF800000 = .vadd ⟨3, false, false, 3, 0x1BF, 0, 0, 0⟩
  ∧ decodeWord 0x0C00180300000064 = .vaddImm ⟨3, false, false, 3, 0x64⟩
  ∧ decodeWord 0x1030200604028008 = .ffma ⟨4, false, false, 6, 8, 10, 0, 8⟩
  ∧ decodeWord 0x2010080200000006 = .brk ⟨1, false, false, 2, 6⟩
  ∧ decodeWord 0x2830490400000000 = .sysw ⟨9, false, false, 0x104, 0, 0, 0, 0⟩
  ∧ decodeWord 0x3000214603840004 = .ld ⟨4, false, false, 0x146, 7, 0x10, 0, 4⟩
  ∧ decodeWord 0x3860514801830243 = .atom ⟨10, false, false, 0x148, 3, 0xC, 0, 0x243⟩
  ∧ decodeWord 0x40084904A34140A0 = .cpy ⟨0x109, false, false, 0x104, 0x146, 0x105, 0, 0xA0⟩
  ∧ decodeWord 0x48B0014A84000200 = .cwait ⟨0, false, false, 0x14A, 0x108, 0, 0, 0x200⟩
  ∧ decodeWord 0x5050010600800014 = .miter ⟨0, false, false, 0x106, 1, 0, 0, 0x14⟩
  ∧ decodeWord 0x584021C303000000 = .ceval ⟨4, false, false, 0x1C3, 6, 0, 0, 0⟩
  ∧ decodeWord 0x9000C1C090826400 = .pairWord ⟨⟨1, 0, 3, 7, 0, 0⟩, true, ⟨1, 2, 9, 0x90, 0, 0⟩⟩
  ∧ decodeWord 0 = .illegalWord 0 ∧ decodeWord (BitVec.allOnes 64) = .illegalWord (BitVec.allOnes 64)
  ∧ ∀ x : Word, x.getLsbD 63 = false → 12 ≤ (x.extractLsb' 59 4).toNat → decodeWord x = .illegalWord x

/-- R53 to R55, R67, R72 to R81: decoding the word of a well-formed instruction gives it back, with every operand, and the word is the only
one that does; every word decodes to an instruction whose word it is, so that no two instructions share one. -/
def Obligations.DecodeEncode : Prop :=
  (∀ (i : Instr) (w : Word), i.wellFormed = true → encode i = some w → decodeWord w = i ∧ ∀ v, decodeWord v = i → v = w)
  ∧ (∀ w : Word, encode (decodeWord w) = some w)
  ∧ (∀ (i : Instr) (w : Word) (l : List Byte), i.wellFormed = true → encode i = some w → decode (bytesOfWord w ++ l) = some (i, l))

/-- R163, R252: a warp's slot, when it serves that warp and nothing is due before it, runs the word that its selected split stands at: step
is exec of the decoded instruction with that warp as the issuer; where it is its group's first, the monitors sample the group's dispatch
before it (R208).
R63, R467: a slot of a partition serves the warp of it that stands inside a chain, while that warp's next member waits too, else one that has been passed over too often and
can issue, else the one it is offered to; a turn of an event runs the event; a step stops only when the device has lost its power
and no turn is left.
The number of slots is the model's free value (log 131). -/
def Obligations.StepRunsWord : Prop :=
  (∀ (s : State) (x : Turn) (rest : List Turn) (wp i : Nat) (sp : Split) (e : TlbEntry), s.agenda = x :: rest → x.act = .issue wp → s.lost = false → s.resetting = none →
    let u := tick { s with agenda := rest } x
    let w := u.warp wp
    let g := u.group w.grp
    let va := (g.codeBase.toNat + 8 * sp.pc.toNat) % 2 ^ 80
    let pa := pteFrame e.pte + va % 2 ^ e.shift
    servedWarp u wp = wp → warpRuns u wp = true → dueEvent u wp = none → issueIdx w = some i → w.frontier[i]? = some sp → u.msgs = [] →
    tlbFind u (wp / 32 / 4) g.asid va = some e → pteAllows u g.asid e.pte .execute pa = true → pa % 128 ≤ 120 → AtHome u (pa / 128) →
    (homeLine u (pa / 128) g.asid).2 = false →
    let word := wordOfBytes ((List.range 8).map (fun j => homeByte u (pa / 128) (pa % 128 + j)))
    let v := countSlots u wp
    let y := ({ v with issuer := wp } : State).setWarp wp { v.warp wp with cur := i, chosen := true }
    let z := if pteCast e.pte then y else y.visit (wp / 32) (pa / 128)
    step s = exec (decodeWord word) (noteFirst z wp)
    ∧ (g.queued = none → noteFirst z wp = z)
    ∧ (∀ q, g.queued = some q →
      noteFirst z wp = (z.note (coreOf w.grp) 0x08 (u.cycle - q).toNat).setGroup w.grp { g with queued := none })
    ∧ { v.warp wp with since := w.since } = w ∧ (mates u wp = [] → w.since = 0 → v = u)
    ∧ u.cycle = s.cycle + BitVec.ofNat 64 x.ref ∧ u.arith = s.arith + x.arith ∧ u.warps = s.warps ∧ (s.windows = [] → u.phys = s.phys))
  ∧ (∀ (s : State) (wp : Nat),
      let l := (mates s wp).filter (fun u => warpRuns s u || inChain s u)
      (servedWarp s wp = wp ∨ servedWarp s wp ∈ l)
      ∧ (l = [] → servedWarp s wp = wp) ∧ (inChain s wp = true → servedWarp s wp = wp)
      ∧ (∀ u ∈ mates s wp, inChain s u = true → inChain s (servedWarp s wp) = true)
      ∧ (∀ u ∈ (mates s wp).filter (warpRuns s), (s.warp u).since ≠ 0 → Config.serveBound ≤ (s.warp u).since → canTurn s u = true →
          inChain s (servedWarp s wp) = true ∨ (servedWarp s wp ∈ l ∧ (s.warp (servedWarp s wp)).since ≠ 0
            ∧ Config.serveBound ≤ (s.warp (servedWarp s wp)).since)))
  ∧ (∀ (s : State) (x : Turn) (rest : List Turn) (i : Instr), s.agenda = x :: rest → x.act = .event i → encode i = none → s.lost = false →
    step s = exec i (tick { s with agenda := rest } x))
  ∧ (∀ s : State, Runs (step s) ∨ (step s = .fault .deviceLost ∧ s.agenda = [] ∧ s.lost = true))

/-- R58, R59, R63, R111, R134: what the operand codes name, for uniform places, for lanes and for float formats. -/
def Obligations.OperandValues : Prop :=
  ∀ (w : Warp) (c : BitVec 9) (t : Nat),
    let n := c.toNat
    (n < 0x100 → w.vsrc false c t = BitVec.ofNat 64 (w.vlane n t).toNat
      ∧ w.vsrc true c t = BitVec.ofNat 64 ((w.vlane n t).toNat + 2 ^ 32 * (w.vlane (n + 1) t).toNat))
    ∧ (0x100 ≤ n → n < 0x140 → w.uni c = w.s (n - 0x100) ∧ ∀ wide, w.vsrc wide c t = w.s (n - 0x100))
    ∧ (0x140 ≤ n → n < 0x144 →
      let y := [w.y0, w.y1, w.y2, w.y3].getD (n - 0x140) none
      (∀ x, y = some (.uniform x) → w.uni c = x ∧ ∀ wide, w.vsrc wide c t = x)
      ∧ (∀ x : Lanes Word, y = some (.vector x) → ∀ wide, w.vsrc wide c t = x.at t))
    ∧ (0x144 ≤ n → n < 0x154 → w.areg c = w.a (n - 0x144))
    ∧ (0x180 ≤ n → w.uni c = BitVec.ofInt 64 ((n : Int) - 0x1C0) ∧ (∀ wide, w.vsrc wide c t = BitVec.ofInt 64 ((n : Int) - 0x1C0))
      ∧ ∀ F ∈ [f16, bf16, f32, f64], w.vsrcF F c t = w.uniF F c
          ∧ (F.read (w.uniF F c)).same (.fin (decide (n < 0x1C0)) ((n : Int) - 0x1C0).natAbs 0) = true)
    ∧ (n < 0x180 → ∀ F ∈ [f16, bf16, f32, f64], w.vsrcF F c t = (w.vsrc (F.width == 64) c t).toNat % 2 ^ F.width)

/-- R88 to R91: the multiple of 2^u that a magnitude m·2^e is rounded to in each mode; the rounding of a value into a wide format gives
that multiple, where it lies in the format's range, and inexact tells that it differs; overflow and underflow set their flags.
R121, R140: of finite operands, A + B, A − B, A × B and A × B + C are the exact values so rounded, once; an exact zero sum has the sign that
the direction gives. -/
def Obligations.FloatRounding : Prop :=
  (∀ (neg : Bool) (draw m k : Nat) (e : Int), 0 < k →
    let q (mode : Nat) : Nat := (roundAt ⟨mode, draw⟩ neg m e false (e + k)).1
    (q 0 * 2 ^ k * 2 ≤ 2 * m + 2 ^ k ∧ 2 * m ≤ q 0 * 2 ^ k * 2 + 2 ^ k
      ∧ (q 0 * 2 ^ k * 2 = 2 * m + 2 ^ k ∨ 2 * m = q 0 * 2 ^ k * 2 + 2 ^ k → q 0 % 2 = 0))
    ∧ (q 1 * 2 ^ k ≤ m ∧ m < (q 1 + 1) * 2 ^ k)
    ∧ (if neg then q 2 = q 1 else m ≤ q 2 * 2 ^ k ∧ q 2 * 2 ^ k < m + 2 ^ k)
    ∧ (if neg then m ≤ q 3 * 2 ^ k ∧ q 3 * 2 ^ k < m + 2 ^ k else q 3 = q 1)
    ∧ (q 4 = m / 2 ^ k + (if 2 ^ 32 ≤ m % 2 ^ k * 2 ^ 32 / 2 ^ k + draw then 1 else 0))
    ∧ (∀ mode, (roundAt ⟨mode, draw⟩ neg m e false (e + k)).2 = decide (m % 2 ^ k ≠ 0)))
  ∧ (∀ (r : Rnd) (neg : Bool) (m k : Nat) (e : Int), roundAt r neg m e false (e - k) = (m * 2 ^ k, false))
  ∧ (∀ F ∈ [f16, bf16, f32, f64, a96], ∀ (r : Rnd) (neg : Bool) (m : Nat) (e : Int), 0 < m →
    let u := max (F.fullUlp m e) F.low
    let q := roundAt r neg m e false u
    (q.1 = 0 ∨ u + (q.1.log2 : Int) ≤ F.top → (F.read (F.round r false neg m e false).1).same (.fin neg q.1 u) = true
      ∧ (F.round r false neg m e false).2.getLsbD 1 = q.2)
    ∧ (q.1 ≠ 0 → F.top < u + (q.1.log2 : Int) →
      F.round r false neg m e false
        = (if r.mode = 1 ∨ (r.mode = 2 ∧ neg = true) ∨ (r.mode = 3 ∧ neg = false) then F.largest neg else F.infinity neg, 0x0A))
    ∧ (q.1 = 0 ∨ u + (q.1.log2 : Int) ≤ F.top →
      let v := F.fullUlp m e
      (F.round r false neg m e false).2.getLsbD 2
        = (q.2 && decide (v + ((roundAt r neg m e false v).1.log2 : Int) < F.low + (F.fb : Int)))
      ∧ (F.round r false neg m e false).2 &&& 0xF9 = 0))
  ∧ ∀ F ∈ [f16, bf16, f32, f64], ∀ (r : Rnd) (a b c : Nat) (n1 n2 n3 : Bool) (m1 m2 m3 : Nat) (e1 e2 e3 : Int),
    a < 2 ^ F.width → b < 2 ^ F.width → c < 2 ^ F.width →
    F.read a = .fin n1 m1 e1 → F.read b = .fin n2 m2 e2 → F.read c = .fin n3 m3 e3 →
    let x := numOf (F.read a)
    let y := numOf (F.read b)
    let z := numOf (F.read c)
    let rounds (v : ℚ) (q : Nat × Flags) : Prop := ∃ neg m e, numOf (.fin neg m e) = v ∧ q = F.round r false neg m e false
    let zero (n1 n2 : Bool) : Nat × Flags := (F.signBit (if n1 = n2 then n1 else r.mode == 3), 0)
    (x + y ≠ 0 → rounds (x + y) (F.add r false a b)) ∧ (x + y = 0 → F.add r false a b = zero n1 n2)
    ∧ (x - y ≠ 0 → rounds (x - y) (F.sub r false a b)) ∧ (x - y = 0 → F.sub r false a b = zero n1 (!n2))
    ∧ (x * y ≠ 0 → rounds (x * y) (F.mul r false a b)) ∧ (x * y = 0 → F.mul r false a b = (F.signBit (n1 != n2), 0))
    ∧ (x * y + z ≠ 0 → rounds (x * y + z) (F.fma r false a b c)) ∧ (x * y + z = 0 → F.fma r false a b c = zero (n1 != n2) n3)

/-- R83 to R85: a NaN operand, the first of them, gives the result of every float form, made quiet, with nv for a signalling one; a
conversion keeps the payload's high bits; what has no value is the default NaN. That zero times infinity plus a quiet NaN sets no nv is the
model's choice (log 132). With ftz each form reads a subnormal operand as a zero of
its sign, and a result that is subnormal after rounding becomes one, with uf and nx.
R122: the eight comparisons, with NaNs and their nv.
R141: the function forms at zeros, infinities and negative operands.
R142: FMIN and FMAX order −0 below +0, and give the other operand for one NaN. -/
def Obligations.FloatSpecials : Prop :=
  ∀ F ∈ [f16, bf16, f32, f64], ∀ (r : Rnd) (z : Bool) (a b c : Nat), a < 2 ^ F.width → b < 2 ^ F.width → c < 2 ^ F.width →
    let top := (2 ^ F.eb - 1) * 2 ^ F.fb
    let half := 2 ^ (F.fb - 1)
    let sign := 2 ^ (F.eb + F.fb)
    let nan (x : Nat) : Bool := decide (top < x % sign)
    let sig (x : Nat) : Bool := nan x && decide (x % sign < top + half)
    let quiet (x : Nat) : Nat := if sig x then x + half else x
    let nv (p : Bool) : Flags := if p then 0x20 else 0
    let x := F.read a
    let y := F.read b
    F.defaultNan = top + half
    ∧ (∀ p ∈ float2Forms,
        (nan a || nan b → p.2 F r z a b = (quiet (if nan a then a else b), nv (sig a || sig b)))
        ∧ p.2 F r true a b = p.2 F r true (flushed F a) (flushed F b))
    ∧ (∀ p ∈ float1Forms, (nan a → p.2 F r z a = (quiet a, nv (sig a))) ∧ p.2 F r true a = p.2 F r true (flushed F a))
    ∧ (nan a || nan b || nan c → F.fma r z a b c = (quiet (if nan a then a else if nan b then b else c), nv (sig a || sig b || sig c)))
    ∧ F.fma r true a b c = F.fma r true (flushed F a) (flushed F b) (flushed F c)
    ∧ (∀ G ∈ [f16, bf16, f32, f64],
        let fr := if F.fb ≤ G.fb then a % 2 ^ F.fb * 2 ^ (G.fb - F.fb) else a % 2 ^ F.fb / 2 ^ (F.fb - G.fb)
        (nan a → F.convert G r z a = (a / sign * 2 ^ (G.eb + G.fb) + (2 ^ G.eb - 1) * 2 ^ G.fb
          + (if 2 ^ (G.fb - 1) ≤ fr then fr else fr + 2 ^ (G.fb - 1)), nv (sig a)))
        ∧ F.convert G r true a = F.convert G r true (flushed F a))
    ∧ (∀ s ∈ [0, sign], ∀ t ∈ [0, sign],
        let bad : Nat × Flags := (top + half, 0x20)
        let both : Nat := if s = t then 0 else sign
        (s ≠ t → F.add r z (top + s) (top + t) = bad) ∧ (s = t → F.sub r z (top + s) (top + t) = bad)
        ∧ F.mul r z s (top + t) = bad ∧ F.mul r z (top + s) t = bad ∧ F.div r z s t = bad ∧ F.div r z (top + s) (top + t) = bad
        ∧ (0 < a % sign → a % sign < top → a / sign * sign = s → F.div r false a t = (top + both, 0x10)
            ∧ F.div r false a (top + t) = (both, 0) ∧ F.div r false (top + t) a = (top + both, 0)
            ∧ (s = sign → F.sqrt r false a = bad ∧ F.rsqrt r false a = bad ∧ F.log2 r false a = bad))
        ∧ F.recip r z s = (top + s, 0x10) ∧ F.recip r z (top + s) = (s, 0)
        ∧ F.sqrt r z s = (s, 0) ∧ F.sqrt r z (top + s) = (if s = 0 then (top, 0) else bad)
        ∧ F.rsqrt r z s = (top + s, 0x10) ∧ F.rsqrt r z (top + s) = (if s = 0 then (0, 0) else bad)
        ∧ F.exp2 r z (top + s) = (if s = 0 then top else 0, 0)
        ∧ F.log2 r z s = (top + sign, 0x10) ∧ F.log2 r z (top + s) = (if s = 0 then (top, 0) else bad) ∧ F.log2 r z (F.bias * 2 ^ F.fb) = (0, 0)
        ∧ F.sinCos false r z (top + s) = bad ∧ F.sinCos true r z (top + s) = bad ∧ F.sinCos false r z s = (s, 0))
    ∧ (∀ (neg : Bool) (m : Nat) (e : Int), 0 < m →
        let u := max (F.fullUlp m e) F.low
        let q := (roundAt r neg m e false u).1
        let small := q ≠ 0 ∧ u + (q.log2 : Int) < F.low + (F.fb : Int)
        (small → F.round r true neg m e false = (F.signBit neg, 0x06)) ∧ (¬ small → F.round r true neg m e false = F.round r false neg m e false))
    ∧ (∀ cond, cond < 8 →
        FcmpTable F cond a b (F.compare false cond a b).1 (F.compare false cond a b).2
        ∧ F.compare true cond a b = F.compare false cond (flushed F a) (flushed F b))
    ∧ (∀ isMax : Bool,
        let least := FVless x y ∨ (FVequal x y ∧ sign ≤ a)
        (nan a → nan b → F.minmax false isMax a b = (quiet a, nv (sig a || sig b)))
        ∧ (nan a → nan b = false → F.minmax false isMax a b = (b, nv (sig a)))
        ∧ (nan a = false → nan b → F.minmax false isMax a b = (a, nv (sig b)))
        ∧ (nan a = false → nan b = false → least → F.minmax false isMax a b = (if isMax then b else a, 0))
        ∧ (nan a = false → nan b = false → ¬ least → F.minmax false isMax a b = (if isMax then a else b, 0))
        ∧ F.minmax true isMax a b = F.minmax false isMax (flushed F a) (flushed F b))

/-- R63, R163, R171: what the end of a slot whose word completes leaves: the split has gone on, the latches have moved on, the registers
are those of the word's warp; other warps and memory stay. -/
def Obligations.SlotEnds : Prop :=
  ∀ (f : RWord) (s : State) (sp x : Split) (w : Warp) (y : Option Latch),
    let wp := s.issuer
    let i := (s.warp wp).cur
    let g := s.group w.grp
    let t := ended s f sp false w y
    g.faulted = false → (∀ o, o ≠ wp → ∀ b, arrivedAt (s.warp o) b = none) → wp ∈ g.warps →
    w.frontier[i]? = some x → x.mask ≠ 0 → x.wait = .ready → w.kwrites = [] →
    (f.h = true →
      t.warp wp = { w with
        y0 := y, y1 := w.y0, y2 := w.y1, y3 := w.y2, verdict := [], pos := w.pos + 1, vtime := w.vtime + BitVec.ofNat 64 s.slot
        hang := (t.warp wp).hang, frontier := w.frontier.set i { x with pc := x.pc + 1 } })
    ∧ (f.h = false → w.frontier.length = 1 →
      let z := t.warp wp
      (∃ x2, z.frontier = [x2] ∧ x2.pc = x.pc + 1 ∧ x2.mask = x.mask ∧ x2.prio = x.prio ∧ x2.depth = x.depth ∧ x2.wait = .ready)
      ∧ z.pos = 0 ∧ z.y0 = y ∧ z.y1 = w.y0 ∧ z.y2 = w.y1 ∧ z.y3 = w.y2 ∧ z.vtime = w.vtime + BitVec.ofNat 64 s.slot
      ∧ (∀ n, z.s n = w.s n ∧ z.a n = w.a n ∧ z.d n = w.d n ∧ z.q n = w.q n) ∧ (∀ n k0, n < 8 → z.k k0 n = w.k k0 n)
      ∧ (∀ n u, z.vlane n u = w.vlane n u) ∧ (∀ u, z.genOf u = w.genOf u) ∧ z.fpmode = w.fpmode ∧ z.alloc = w.alloc ∧ z.sup = w.sup
      ∧ z.tokPend = w.tokPend ∧ z.tokTag = w.tokTag ∧ z.pend = w.pend ∧ z.pxi = w.pxi ∧ z.itercap = w.itercap)
    ∧ (∀ o, o ≠ wp → t.warp o = s.warp o) ∧ t.phys = s.phys ∧ t.ls = s.ls ∧ t.vault = s.vault ∧ t.cores = s.cores ∧ t.launches = s.launches

/-- R61, R82, R163, R197: a word of classes 0 to 4, and every pair word, whatever comes of it, result or trap, leaves memory, the vaults,
caches, translations and messages as they are; a byte of a local store stays, or lies in the area of the issuer's group and is cleared with
it; no warp outside the issuer's group changes; and the local store keeps its canonical form. -/
def Obligations.ComputeWordsConfined : Prop :=
  ∀ (x : Word) (s : State), x.getLsbD 63 = true ∨ (x.extractLsb' 59 4).toNat ≤ 4 →
    ∃ t, exec (decodeWord x) s = .next t ∧ t.phys = s.phys ∧ t.vault = s.vault ∧ t.l1 = s.l1 ∧ t.l2 = s.l2 ∧ t.dir = s.dir ∧ t.tlb = s.tlb
      ∧ t.msgs = s.msgs ∧ t.regions = s.regions ∧ t.mode = s.mode ∧ t.dies = s.dies
      ∧ (let g := (s.warp s.issuer).grp
          let lo := coreOf g * 2 ^ 20 + (s.group g).lsBase
          ∀ a, Memory.byte t.ls a = Memory.byte s.ls a ∨ (lo ≤ a ∧ a < lo + (s.group g).lsSize ∧ Memory.byte t.ls a = 0)) ∧ (Memory.wf s.ls = true → Memory.wf t.ls = true)
      ∧ ∀ wp, wp ≠ s.issuer → wp ∉ (s.group (s.warp s.issuer).grp).warps → t.warp wp = s.warp wp

/-- The model's own invariant (log 12): every step, whatever the turn, keeps the canonical form of each memory (physical memory, the local
stores, the vaults, the hosts' memory): addresses rise strictly and no listed byte is 0, so that equal memories are equal data. -/
def Obligations.MemoriesStayCanonical : Prop :=
  ∀ s t : State, step s = .next t →
    Memory.wf s.phys = true ∧ Memory.wf s.ls = true ∧ Memory.wf s.vault = true ∧ Memory.wf s.hostMem = true →
    Memory.wf t.phys = true ∧ Memory.wf t.ls = true ∧ Memory.wf t.vault = true ∧ Memory.wf t.hostMem = true

/-- R204, R215, R285, R352, R457: what a reset leaves: nothing launched, no warp, every core on, logical times, cycles and MODE at 0, an
empty log and no ring; memory in its canonical form. That caches, translations, regions and memory are empty at power-on is the model's
choice (logs 12 and 96). -/
def Obligations.ResetValues : Prop :=
  let s := State.reset
  s.warps = [] ∧ s.groups = [] ∧ s.launches = [] ∧ s.queues = [] ∧ s.regions = [] ∧ s.mode = 0 ∧ s.cycle = 0 ∧ s.ring = none ∧ s.log = []
  ∧ s.keys = [] ∧ s.tlb = [] ∧ s.l1 = [] ∧ s.l2 = [] ∧ s.dir = [] ∧ s.lost = false
  ∧ (∀ c, (s.core c).power = .on ∧ (s.core c).ct = 0 ∧ (s.core c).cmds = [] ∧ (s.core c).slots = [])
  ∧ (∀ d, (s.die d).dt = 0 ∧ (s.die d).phases = [] ∧ (s.die d).nodes = [])
  ∧ Memory.wf s.phys = true ∧ Memory.wf s.ls = true ∧ Memory.wf s.vault = true ∧ Memory.wf s.hostMem = true
end

