-- ==== Sys2Proof/Laws/Encode.lean ====
section
/-! SUPPORT. What the fields of an encoded word are, and what decoding one comes to. -/

set_option Elab.async false

namespace Sys2Proof

open Machine

theorem sub_lt_iff_add (i a b : Nat) : i - a < b + 1 ↔ i < a + (b + 1) := by omega
theorem sub_eq_zero_of_not (i a : Nat) (h : i < a + 1) : (decide (i - a = 0)) = true := by
  simp; omega

/-- Bit i of a word of the register layout (R54). -/
theorem encR_bit (c o : Nat) (f : RWord) (i : Nat) : (encR c o f).getLsbD i =
    if i < 10 then f.m.getLsbD i else if i < 14 then f.k.getLsbD (i - 10) else if i < 23 then f.c.getLsbD (i - 14)
    else if i < 32 then f.b.getLsbD (i - 23) else if i < 41 then f.a.getLsbD (i - 32) else if i < 42 then f.h
    else if i < 43 then f.w else if i < 52 then f.dst.getLsbD (i - 43) else if i < 59 then (BitVec.ofNat 7 o).getLsbD (i - 52)
    else if i < 63 then (BitVec.ofNat 4 c).getLsbD (i - 59) else false := by
  show BitVec.getLsbD (w := 1 + 4 + 7 + 9 + 1 + 1 + 9 + 9 + 9 + 4 + 10)
    (0#1 ++ BitVec.ofNat 4 c ++ BitVec.ofNat 7 o ++ f.dst ++ BitVec.ofBool f.w ++ BitVec.ofBool f.h ++ f.a ++ f.b ++ f.c ++ f.k ++ f.m) i = _
  simp only [BitVec.getLsbD_append, BitVec.getLsbD_ofBool, BitVec.getLsbD_zero]
  simp only [Nat.sub_sub, Nat.reduceAdd,
    sub_lt_iff_add i 10 3, sub_lt_iff_add i 14 8, sub_lt_iff_add i 23 8, sub_lt_iff_add i 32 8, sub_lt_iff_add i 41 0,
    sub_lt_iff_add i 42 0, sub_lt_iff_add i 43 8, sub_lt_iff_add i 52 6, sub_lt_iff_add i 59 3]
  repeat' (split <;> try rfl)
  all_goals (first | rfl | (rw [sub_eq_zero_of_not _ _ (by assumption)]; rfl))

/-- Bit i of a word of the immediate layout (R55). -/
theorem encI_bit (c o : Nat) (f : IWord) (i : Nat) : (encI c o f).getLsbD i =
    if i < 32 then f.imm.getLsbD i else if i < 41 then f.a.getLsbD (i - 32) else if i < 42 then f.h
    else if i < 43 then f.w else if i < 52 then f.dst.getLsbD (i - 43) else if i < 59 then (BitVec.ofNat 7 o).getLsbD (i - 52)
    else if i < 63 then (BitVec.ofNat 4 c).getLsbD (i - 59) else false := by
  show BitVec.getLsbD (w := 1 + 4 + 7 + 9 + 1 + 1 + 9 + 32)
    (0#1 ++ BitVec.ofNat 4 c ++ BitVec.ofNat 7 o ++ f.dst ++ BitVec.ofBool f.w ++ BitVec.ofBool f.h ++ f.a ++ f.imm) i = _
  simp only [BitVec.getLsbD_append, BitVec.getLsbD_ofBool, BitVec.getLsbD_zero]
  simp only [Nat.sub_sub, Nat.reduceAdd,
    sub_lt_iff_add i 32 8, sub_lt_iff_add i 41 0,
    sub_lt_iff_add i 42 0, sub_lt_iff_add i 43 8, sub_lt_iff_add i 52 6, sub_lt_iff_add i 59 3]
  repeat' (split <;> try rfl)
  all_goals (first | rfl | (rw [sub_eq_zero_of_not _ _ (by assumption)]; rfl))

/-- Bit i of a pair word's slot (R67). -/
theorem encSlot_bit (s : Slot) (i : Nat) : (encSlot s).getLsbD i =
    if i < 3 then s.flags.getLsbD i else if i < 6 then s.k.getLsbD (i - 3) else if i < 14 then s.src.getLsbD (i - 6)
    else if i < 22 then s.dst.getLsbD (i - 14) else if i < 28 then s.op.getLsbD (i - 22) else s.cls.getLsbD (i - 28) := by
  show BitVec.getLsbD (w := 3 + 6 + 8 + 8 + 3 + 3) (s.cls ++ s.op ++ s.dst ++ s.src ++ s.k ++ s.flags) i = _
  simp only [BitVec.getLsbD_append]
  simp only [Nat.sub_sub, Nat.reduceAdd,
    sub_lt_iff_add i 3 2, sub_lt_iff_add i 6 7, sub_lt_iff_add i 14 7, sub_lt_iff_add i 22 5]

/-- Bit i of a pair word (R67). -/
theorem encP_bit (p : PWord) (i : Nat) : (encP p).getLsbD i =
    if i < 31 then (encSlot p.sb).getLsbD i else if i < 32 then p.serial else if i < 63 then (encSlot p.sa).getLsbD (i - 32)
    else (1#1).getLsbD (i - 63) := by
  show BitVec.getLsbD (w := 1 + 31 + 1 + 31) (1#1 ++ encSlot p.sa ++ BitVec.ofBool p.serial ++ encSlot p.sb) i = _
  simp only [BitVec.getLsbD_append, BitVec.getLsbD_ofBool]
  simp only [Nat.sub_sub, Nat.reduceAdd, sub_lt_iff_add i 31 0, sub_lt_iff_add i 32 30]
  repeat' (split <;> try rfl)
  all_goals (first | rfl | (rw [sub_eq_zero_of_not _ _ (by assumption)]; rfl))

theorem encR_dst (c o : Nat) (f : RWord) : (encR c o f).extractLsb' 43 9 = f.dst := by
  apply BitVec.eq_of_getLsbD_eq
  intro i hi
  rw [BitVec.getLsbD_extractLsb', encR_bit]
  simp only [hi, decide_true, Bool.true_and]
  (repeat rw [if_neg (by omega)])
  (try rw [if_pos (by omega)])
  congr 1; omega
theorem encR_a (c o : Nat) (f : RWord) : (encR c o f).extractLsb' 32 9 = f.a := by
  apply BitVec.eq_of_getLsbD_eq
  intro i hi
  rw [BitVec.getLsbD_extractLsb', encR_bit]
  simp only [hi, decide_true, Bool.true_and]
  (repeat rw [if_neg (by omega)])
  (try rw [if_pos (by omega)])
  congr 1; omega
theorem encR_b (c o : Nat) (f : RWord) : (encR c o f).extractLsb' 23 9 = f.b := by
  apply BitVec.eq_of_getLsbD_eq
  intro i hi
  rw [BitVec.getLsbD_extractLsb', encR_bit]
  simp only [hi, decide_true, Bool.true_and]
  (repeat rw [if_neg (by omega)])
  (try rw [if_pos (by omega)])
  congr 1; omega
theorem encR_c (c o : Nat) (f : RWord) : (encR c o f).extractLsb' 14 9 = f.c := by
  apply BitVec.eq_of_getLsbD_eq
  intro i hi
  rw [BitVec.getLsbD_extractLsb', encR_bit]
  simp only [hi, decide_true, Bool.true_and]
  (repeat rw [if_neg (by omega)])
  (try rw [if_pos (by omega)])
  congr 1; omega
theorem encR_k (c o : Nat) (f : RWord) : (encR c o f).extractLsb' 10 4 = f.k := by
  apply BitVec.eq_of_getLsbD_eq
  intro i hi
  rw [BitVec.getLsbD_extractLsb', encR_bit]
  simp only [hi, decide_true, Bool.true_and]
  (repeat rw [if_neg (by omega)])
  (try rw [if_pos (by omega)])
  congr 1; omega
theorem encR_m (c o : Nat) (f : RWord) : (encR c o f).extractLsb' 0 10 = f.m := by
  apply BitVec.eq_of_getLsbD_eq
  intro i hi
  rw [BitVec.getLsbD_extractLsb', encR_bit]
  simp only [hi, decide_true, Bool.true_and]
  (try rw [if_pos (by omega)])
  congr 1; omega
theorem encR_class (c o : Nat) (f : RWord) : (encR c o f).extractLsb' 59 4 = BitVec.ofNat 4 c := by
  apply BitVec.eq_of_getLsbD_eq
  intro i hi
  rw [BitVec.getLsbD_extractLsb', encR_bit]
  simp only [hi, decide_true, Bool.true_and]
  (repeat rw [if_neg (by omega)])
  (try rw [if_pos (by omega)])
  congr 1; omega
theorem encR_op (c o : Nat) (f : RWord) : (encR c o f).extractLsb' 52 7 = BitVec.ofNat 7 o := by
  apply BitVec.eq_of_getLsbD_eq
  intro i hi
  rw [BitVec.getLsbD_extractLsb', encR_bit]
  simp only [hi, decide_true, Bool.true_and]
  (repeat rw [if_neg (by omega)])
  (try rw [if_pos (by omega)])
  congr 1; omega
theorem encI_dst (c o : Nat) (f : IWord) : (encI c o f).extractLsb' 43 9 = f.dst := by
  apply BitVec.eq_of_getLsbD_eq
  intro i hi
  rw [BitVec.getLsbD_extractLsb', encI_bit]
  simp only [hi, decide_true, Bool.true_and]
  (repeat rw [if_neg (by omega)])
  (try rw [if_pos (by omega)])
  congr 1; omega
theorem encI_a (c o : Nat) (f : IWord) : (encI c o f).extractLsb' 32 9 = f.a := by
  apply BitVec.eq_of_getLsbD_eq
  intro i hi
  rw [BitVec.getLsbD_extractLsb', encI_bit]
  simp only [hi, decide_true, Bool.true_and]
  (repeat rw [if_neg (by omega)])
  (try rw [if_pos (by omega)])
  congr 1; omega
theorem encI_imm (c o : Nat) (f : IWord) : (encI c o f).extractLsb' 0 32 = f.imm := by
  apply BitVec.eq_of_getLsbD_eq
  intro i hi
  rw [BitVec.getLsbD_extractLsb', encI_bit]
  simp only [hi, decide_true, Bool.true_and]
  (try rw [if_pos (by omega)])
  congr 1; omega
theorem encI_class (c o : Nat) (f : IWord) : (encI c o f).extractLsb' 59 4 = BitVec.ofNat 4 c := by
  apply BitVec.eq_of_getLsbD_eq
  intro i hi
  rw [BitVec.getLsbD_extractLsb', encI_bit]
  simp only [hi, decide_true, Bool.true_and]
  (repeat rw [if_neg (by omega)])
  (try rw [if_pos (by omega)])
  congr 1; omega
theorem encI_op (c o : Nat) (f : IWord) : (encI c o f).extractLsb' 52 7 = BitVec.ofNat 7 o := by
  apply BitVec.eq_of_getLsbD_eq
  intro i hi
  rw [BitVec.getLsbD_extractLsb', encI_bit]
  simp only [hi, decide_true, Bool.true_and]
  (repeat rw [if_neg (by omega)])
  (try rw [if_pos (by omega)])
  congr 1; omega
theorem encP_sa_cls (p : PWord) : (encP p).extractLsb' 60 3 = p.sa.cls := by
  apply BitVec.eq_of_getLsbD_eq
  intro i hi
  rw [BitVec.getLsbD_extractLsb', encP_bit]
  simp only [hi, decide_true, Bool.true_and]
  (repeat rw [if_neg (by omega)])
  rw [if_pos (by omega), encSlot_bit]
  (repeat rw [if_neg (by omega)])
  congr 1; omega
theorem encP_sa_op (p : PWord) : (encP p).extractLsb' 54 6 = p.sa.op := by
  apply BitVec.eq_of_getLsbD_eq
  intro i hi
  rw [BitVec.getLsbD_extractLsb', encP_bit]
  simp only [hi, decide_true, Bool.true_and]
  (repeat rw [if_neg (by omega)])
  rw [if_pos (by omega), encSlot_bit]
  (repeat rw [if_neg (by omega)])
  (try rw [if_pos (by omega)])
  congr 1; omega
theorem encP_sa_dst (p : PWord) : (encP p).extractLsb' 46 8 = p.sa.dst := by
  apply BitVec.eq_of_getLsbD_eq
  intro i hi
  rw [BitVec.getLsbD_extractLsb', encP_bit]
  simp only [hi, decide_true, Bool.true_and]
  (repeat rw [if_neg (by omega)])
  rw [if_pos (by omega), encSlot_bit]
  (repeat rw [if_neg (by omega)])
  (try rw [if_pos (by omega)])
  congr 1; omega
theorem encP_sa_src (p : PWord) : (encP p).extractLsb' 38 8 = p.sa.src := by
  apply BitVec.eq_of_getLsbD_eq
  intro i hi
  rw [BitVec.getLsbD_extractLsb', encP_bit]
  simp only [hi, decide_true, Bool.true_and]
  (repeat rw [if_neg (by omega)])
  rw [if_pos (by omega), encSlot_bit]
  (repeat rw [if_neg (by omega)])
  (try rw [if_pos (by omega)])
  congr 1; omega
theorem encP_sa_k (p : PWord) : (encP p).extractLsb' 35 3 = p.sa.k := by
  apply BitVec.eq_of_getLsbD_eq
  intro i hi
  rw [BitVec.getLsbD_extractLsb', encP_bit]
  simp only [hi, decide_true, Bool.true_and]
  (repeat rw [if_neg (by omega)])
  rw [if_pos (by omega), encSlot_bit]
  (repeat rw [if_neg (by omega)])
  (try rw [if_pos (by omega)])
  congr 1; omega
theorem encP_sa_flags (p : PWord) : (encP p).extractLsb' 32 3 = p.sa.flags := by
  apply BitVec.eq_of_getLsbD_eq
  intro i hi
  rw [BitVec.getLsbD_extractLsb', encP_bit]
  simp only [hi, decide_true, Bool.true_and]
  (repeat rw [if_neg (by omega)])
  rw [if_pos (by omega), encSlot_bit]
  (try rw [if_pos (by omega)])
  congr 1; omega
theorem encP_sb_cls (p : PWord) : (encP p).extractLsb' 28 3 = p.sb.cls := by
  apply BitVec.eq_of_getLsbD_eq
  intro i hi
  rw [BitVec.getLsbD_extractLsb', encP_bit]
  simp only [hi, decide_true, Bool.true_and]
  rw [if_pos (by omega), encSlot_bit]
  (repeat rw [if_neg (by omega)])
  congr 1; omega
theorem encP_sb_op (p : PWord) : (encP p).extractLsb' 22 6 = p.sb.op := by
  apply BitVec.eq_of_getLsbD_eq
  intro i hi
  rw [BitVec.getLsbD_extractLsb', encP_bit]
  simp only [hi, decide_true, Bool.true_and]
  rw [if_pos (by omega), encSlot_bit]
  (repeat rw [if_neg (by omega)])
  (try rw [if_pos (by omega)])
  congr 1; omega
theorem encP_sb_dst (p : PWord) : (encP p).extractLsb' 14 8 = p.sb.dst := by
  apply BitVec.eq_of_getLsbD_eq
  intro i hi
  rw [BitVec.getLsbD_extractLsb', encP_bit]
  simp only [hi, decide_true, Bool.true_and]
  rw [if_pos (by omega), encSlot_bit]
  (repeat rw [if_neg (by omega)])
  (try rw [if_pos (by omega)])
  congr 1; omega
theorem encP_sb_src (p : PWord) : (encP p).extractLsb' 6 8 = p.sb.src := by
  apply BitVec.eq_of_getLsbD_eq
  intro i hi
  rw [BitVec.getLsbD_extractLsb', encP_bit]
  simp only [hi, decide_true, Bool.true_and]
  rw [if_pos (by omega), encSlot_bit]
  (repeat rw [if_neg (by omega)])
  (try rw [if_pos (by omega)])
  congr 1; omega
theorem encP_sb_k (p : PWord) : (encP p).extractLsb' 3 3 = p.sb.k := by
  apply BitVec.eq_of_getLsbD_eq
  intro i hi
  rw [BitVec.getLsbD_extractLsb', encP_bit]
  simp only [hi, decide_true, Bool.true_and]
  rw [if_pos (by omega), encSlot_bit]
  (repeat rw [if_neg (by omega)])
  (try rw [if_pos (by omega)])
  congr 1; omega
theorem encP_sb_flags (p : PWord) : (encP p).extractLsb' 0 3 = p.sb.flags := by
  apply BitVec.eq_of_getLsbD_eq
  intro i hi
  rw [BitVec.getLsbD_extractLsb', encP_bit]
  simp only [hi, decide_true, Bool.true_and]
  rw [if_pos (by omega), encSlot_bit]
  (try rw [if_pos (by omega)])
  congr 1; omega

@[simp] theorem rword_encR (c o : Nat) (f : RWord) : rword (encR c o f) = f := by
  unfold rword
  rw [encR_dst, encR_a, encR_b, encR_c, encR_k, encR_m, encR_bit, encR_bit]
  rfl

@[simp] theorem iword_encI (c o : Nat) (f : IWord) : iword (encI c o f) = f := by
  unfold iword
  rw [encI_dst, encI_a, encI_imm, encI_bit, encI_bit]
  rfl

@[simp] theorem pword_encP (p : PWord) : pword (encP p) = p := by
  unfold pword
  rw [encP_sa_cls, encP_sa_op, encP_sa_dst, encP_sa_src, encP_sa_k, encP_sa_flags, encP_sb_cls, encP_sb_op, encP_sb_dst,
    encP_sb_src, encP_sb_k, encP_sb_flags, encP_bit]
  rfl

/-- Decoding a word of the register layout goes by its class and op. -/
theorem decodeWord_encR (c o : Nat) (f : RWord) (hz : encR c o f ≠ 0) :
    decodeWord (encR c o f) =
      (match (BitVec.ofNat 4 c).toNat with
      | 0 => decodeClass0 (BitVec.ofNat 7 o).toNat (encR c o f)
      | 1 => decodeClass1 (BitVec.ofNat 7 o).toNat (encR c o f)
      | 2 => decodeClass2 (BitVec.ofNat 7 o).toNat (encR c o f)
      | 3 => decodeClass3 (BitVec.ofNat 7 o).toNat (encR c o f)
      | 4 => decodeClass4 (BitVec.ofNat 7 o).toNat (encR c o f)
      | 5 => decodeClass5 (BitVec.ofNat 7 o).toNat (encR c o f)
      | 6 => decodeClass6 (BitVec.ofNat 7 o).toNat (encR c o f)
      | 7 => decodeClass7 (BitVec.ofNat 7 o).toNat (encR c o f)
      | 8 => decodeClass8 (BitVec.ofNat 7 o).toNat (encR c o f)
      | 9 => decodeClass9 (BitVec.ofNat 7 o).toNat (encR c o f)
      | 10 => decodeClass10 (BitVec.ofNat 7 o).toNat (encR c o f)
      | 11 => decodeClass11 (BitVec.ofNat 7 o).toNat (encR c o f)
      | _ => .illegalWord (encR c o f)) := by
  have h63 : (encR c o f).getLsbD 63 = false := by rw [encR_bit]; rfl
  have hn : encR c o f ≠ BitVec.allOnes 64 := by
    intro e
    rw [e] at h63
    revert h63
    decide
  unfold decodeWord
  simp only [hz, hn, decide_false, Bool.or_self, Bool.false_eq_true, if_false, h63, encR_class, encR_op] <;> rfl

/-- Decoding a word of the immediate layout goes by its class and op. -/
theorem decodeWord_encI (c o : Nat) (f : IWord) (hz : encI c o f ≠ 0) :
    decodeWord (encI c o f) =
      (match (BitVec.ofNat 4 c).toNat with
      | 0 => decodeClass0 (BitVec.ofNat 7 o).toNat (encI c o f)
      | 1 => decodeClass1 (BitVec.ofNat 7 o).toNat (encI c o f)
      | 2 => decodeClass2 (BitVec.ofNat 7 o).toNat (encI c o f)
      | 3 => decodeClass3 (BitVec.ofNat 7 o).toNat (encI c o f)
      | 4 => decodeClass4 (BitVec.ofNat 7 o).toNat (encI c o f)
      | 5 => decodeClass5 (BitVec.ofNat 7 o).toNat (encI c o f)
      | 6 => decodeClass6 (BitVec.ofNat 7 o).toNat (encI c o f)
      | 7 => decodeClass7 (BitVec.ofNat 7 o).toNat (encI c o f)
      | 8 => decodeClass8 (BitVec.ofNat 7 o).toNat (encI c o f)
      | 9 => decodeClass9 (BitVec.ofNat 7 o).toNat (encI c o f)
      | 10 => decodeClass10 (BitVec.ofNat 7 o).toNat (encI c o f)
      | 11 => decodeClass11 (BitVec.ofNat 7 o).toNat (encI c o f)
      | _ => .illegalWord (encI c o f)) := by
  have h63 : (encI c o f).getLsbD 63 = false := by rw [encI_bit]; rfl
  have hn : encI c o f ≠ BitVec.allOnes 64 := by
    intro e
    rw [e] at h63
    revert h63
    decide
  unfold decodeWord
  simp only [hz, hn, decide_false, Bool.or_self, Bool.false_eq_true, if_false, h63, encI_class, encI_op] <;> rfl

/-- A word whose class or op is not 0, or whose destination is not, is not the zero word. -/
theorem encR_ne_zero (c o : Nat) (f : RWord) (h : BitVec.ofNat 4 c ≠ 0 ∨ BitVec.ofNat 7 o ≠ 0 ∨ f.dst ≠ 0) : encR c o f ≠ 0 := by
  intro e
  have h1 := encR_class c o f
  have h2 := encR_op c o f
  have h3 := encR_dst c o f
  rw [e] at h1 h2 h3
  rcases h with h | h | h
  · exact h (h1.symm.trans (by decide))
  · exact h (h2.symm.trans (by decide))
  · exact h (h3.symm.trans (by decide))

theorem encI_ne_zero (c o : Nat) (f : IWord) (h : BitVec.ofNat 4 c ≠ 0 ∨ BitVec.ofNat 7 o ≠ 0) : encI c o f ≠ 0 := by
  intro e
  have h1 := encI_class c o f
  have h2 := encI_op c o f
  rw [e] at h1 h2
  rcases h with h | h
  · exact h (h1.symm.trans (by decide))
  · exact h (h2.symm.trans (by decide))

end Sys2Proof
end

