-- ==== Sys2Proof/Laws/Exec.lean ====
section
/-! SUPPORT. No meaning stops: every instruction answers a next state from every state. -/

set_option Elab.async false

namespace Sys2Proof.Machine

theorem sideLogReplay_next (core ix : Nat) (s : State) : ∃ t, execSideLogReplay core ix s = .next t := by
  unfold execSideLogReplay
  dsimp only
  repeat' split
  all_goals exact ⟨_, rfl⟩

theorem castLoad_next (core ix part : Nat) (s : State) : ∃ t, execCastLoad core ix part s = .next t := by
  unfold execCastLoad
  dsimp only
  repeat' split
  all_goals exact ⟨_, rfl⟩

theorem castStore_next (core ix : Nat) (s : State) : ∃ t, execCastStore core ix s = .next t := by
  unfold execCastStore
  dsimp only
  repeat' split
  all_goals exact ⟨_, rfl⟩

/-- Every instruction answers a next state. -/
theorem exec_next (i : Instr) (s : State) : ∃ t, exec i s = .next t := by
  cases i
  case sideLogReplay => exact sideLogReplay_next _ _ _
  case castLoad => exact castLoad_next _ _ _ _
  case castStore => exact castStore_next _ _ _
  all_goals first
    | exact ⟨_, rfl⟩
    | (simp only [exec, execPairWord, execIllegalWord, execTrapDelivery, execLoadReturn, execHomeStore, execSliceRead, execPushFill, execPushAck,
        execDispatch, execMatrixOpPerform, execEngineCommandComplete, execSpinwExpiry, execYieldExpiry, execForcedTurn, execHang, execMonitorSample,
        execVtimeTimerFire, execDeadlineFire, execGroupSave, execGroupRestore, execPageFaultService, execRegenerationComplete, execVictimEvict,
        execAtomicWindowEnd, execRds, execRdx, execUpg, execPute, execPutm, execEvict, execInvack,
        execRcldata, execRclack, execData, execGntx, execInv, execRcl, execPutack, execFill,
        execProxyEvict, execCopyUnitLand, execPhaseEnd, execWeirBalance, execLaunchComplete, execLaunchFaultedEnd, execGraphLoad, execNodeRun,
        execNodeComplete, execQueueEntryError, execRegionBuildComplete, execRegionCloseComplete, execRecastScanDone, execEvaluatorFreezeAck,
        execMsgEnqueue, execMsgRepair, execMsgMigrate, execMsgPreempt, execMsgBind, execMsgMould, execMsgPage, execMsgMode,
        execMsgKey, execMsgKeyUnbind, execMsgAttest, execMsgRing, execMsgReset, execGatePrepComplete, execGatePowerUp, execCxlLinkFail,
        execLogicalTimeTick, execAvoshBindWrite, execAvoshWarmReset, execMsgUnlistedOp, onReq, execRds, execRdx, execUpg, onMsg, acceptMsg]
       repeat' split
       all_goals exact ⟨_, rfl⟩)

end Sys2Proof.Machine
end

