-- ==== Sys2Proof/Laws/Store.lean ====
section
/-! SUPPORT. Reads after writes of sparse maps and of memory, and the canonical form of memory: every memory operation
keeps it. -/

set_option Elab.async false

namespace Sys2Proof

/-! ### Maps -/

@[simp] theorem SMap.look_nil {α : Type} (d : α) (k : Nat) : SMap.look d [] k = d := rfl
@[simp] theorem SMap.find_nil {α : Type} (k : Nat) : SMap.find ([] : SMap α) k = none := rfl

@[simp] theorem SMap.look_set_same {α : Type} (d x : α) (m : SMap α) (k : Nat) : SMap.look d (SMap.set k x m) k = x := by
  induction m with
  | nil => simp [SMap.set, SMap.look]
  | cons p r ih =>
    obtain ⟨j, y⟩ := p
    unfold SMap.set
    split
    · simp [SMap.look]
    · split
      · simp [SMap.look]
      · rename_i h
        simp [SMap.look, Ne.symm h, ih]

@[simp] theorem SMap.look_set_ne {α : Type} (d x : α) (m : SMap α) {k j : Nat} (h : j ≠ k) :
    SMap.look d (SMap.set k x m) j = SMap.look d m j := by
  induction m with
  | nil => simp [SMap.set, SMap.look, Ne.symm h]
  | cons p r ih =>
    obtain ⟨i, y⟩ := p
    unfold SMap.set
    split
    · simp [SMap.look, Ne.symm h]
    · split
      · rename_i e
        subst e
        simp [SMap.look, Ne.symm h]
      · simp [SMap.look, ih]

theorem SMap.look_set {α : Type} (d x : α) (m : SMap α) (k j : Nat) :
    SMap.look d (SMap.set k x m) j = if j = k then x else SMap.look d m j := by
  split
  · subst j; simp
  · rename_i h; simp [h]

@[simp] theorem SMap.set_set {α : Type} (x y : α) (m : SMap α) (k : Nat) : SMap.set k x (SMap.set k y m) = SMap.set k x m := by
  induction m with
  | nil => simp [SMap.set]
  | cons p r ih =>
    obtain ⟨j, z⟩ := p
    by_cases h1 : k < j
    · simp [SMap.set, h1]
    · by_cases h2 : k = j
      · simp [SMap.set, h2]
      · simp [SMap.set, h1, h2, ih]

theorem SMap.find_set {α : Type} (x : α) (m : SMap α) (k j : Nat) :
    SMap.find (SMap.set k x m) j = if j = k then some x else SMap.find m j := by
  induction m with
  | nil =>
    by_cases h : j = k
    · simp [SMap.set, SMap.find, h]
    · simp [SMap.set, SMap.find, h, Ne.symm h]
  | cons p r ih =>
    obtain ⟨i, y⟩ := p
    unfold SMap.set
    split
    · by_cases h : j = k
      · simp [SMap.find, h]
      · simp [SMap.find, h, Ne.symm h]
    · split
      · rename_i e
        subst e
        by_cases h : j = k
        · simp [SMap.find, h]
        · simp [SMap.find, h, Ne.symm h]
      · rename_i e
        by_cases h : i = j
        · subst h; simp [SMap.find, Ne.symm e]
        · simp [SMap.find, h, ih]

@[simp] theorem SMap.find_set_same {α : Type} (x : α) (m : SMap α) (k : Nat) : SMap.find (SMap.set k x m) k = some x := by
  simp [SMap.find_set]

@[simp] theorem SMap.find_set_ne {α : Type} (x : α) (m : SMap α) {k j : Nat} (h : j ≠ k) :
    SMap.find (SMap.set k x m) j = SMap.find m j := by simp [SMap.find_set, h]

@[simp] theorem SMap.has_set_same {α : Type} (x : α) (m : SMap α) (k : Nat) : SMap.has (SMap.set k x m) k = true := by
  simp [SMap.has]

@[simp] theorem SMap.has_set_ne {α : Type} (x : α) (m : SMap α) {k j : Nat} (h : j ≠ k) :
    SMap.has (SMap.set k x m) j = SMap.has m j := by simp [SMap.has, h]

theorem SMap.look_of_find {α : Type} (d : α) {m : SMap α} {k : Nat} {x : α} (h : SMap.find m k = some x) :
    SMap.look d m k = x := by
  induction m with
  | nil => simp at h
  | cons p r ih =>
    obtain ⟨j, y⟩ := p
    unfold SMap.find at h
    unfold SMap.look
    split at h
    · simp_all
    · simp_all

@[simp] theorem SMap.look_erase_same {α : Type} (d : α) (m : SMap α) (k : Nat) : SMap.look d (SMap.erase k m) k = d := by
  induction m with
  | nil => rfl
  | cons p r ih =>
    obtain ⟨j, y⟩ := p
    unfold SMap.erase at *
    by_cases h : j = k
    · simpa [h] using ih
    · simpa [h, SMap.look] using ih

@[simp] theorem SMap.look_erase_ne {α : Type} (d : α) (m : SMap α) {k j : Nat} (h : j ≠ k) :
    SMap.look d (SMap.erase k m) j = SMap.look d m j := by
  induction m with
  | nil => rfl
  | cons p r ih =>
    obtain ⟨i, y⟩ := p
    unfold SMap.erase at *
    by_cases e : i = k
    · subst e; simpa [SMap.look, Ne.symm h] using ih
    · by_cases e2 : i = j
      · simp [SMap.look, e2, h]
      · simpa [SMap.look, e, e2] using ih

@[simp] theorem SMap.look_put_same {α : Type} [DecidableEq α] (d x : α) (m : SMap α) (k : Nat) :
    SMap.look d (SMap.put d k x m) k = x := by
  unfold SMap.put; split <;> simp_all

@[simp] theorem SMap.look_put_ne {α : Type} [DecidableEq α] (d x : α) (m : SMap α) {k j : Nat} (h : j ≠ k) :
    SMap.look d (SMap.put d k x m) j = SMap.look d m j := by
  unfold SMap.put; split <;> simp_all

theorem SMap.look_put {α : Type} [DecidableEq α] (d x : α) (m : SMap α) (k j : Nat) :
    SMap.look d (SMap.put d k x m) j = if j = k then x else SMap.look d m j := by
  split
  · subst j; simp
  · rename_i h; simp [h]

theorem SMap.rising_cons {α : Type} (p : Nat × α) (m : SMap α) :
    SMap.rising (p :: m) = true ↔ SMap.rising m = true ∧ ∀ q ∈ m, p.1 < q.1 := by
  induction m generalizing p with
  | nil => simp [SMap.rising]
  | cons q r ih =>
    obtain ⟨j, y⟩ := p
    obtain ⟨k, z⟩ := q
    simp only [SMap.rising, Bool.and_eq_true, decide_eq_true_eq, List.mem_cons, forall_eq_or_imp]
    constructor
    · rintro ⟨h1, h2⟩
      exact ⟨h2, h1, fun q hq => Nat.lt_trans h1 (((ih _).mp h2).2 q hq)⟩
    · rintro ⟨h1, h2, -⟩
      exact ⟨h2, h1⟩

theorem SMap.mem_set {α : Type} {k : Nat} {x : α} {m : SMap α} {q : Nat × α} (h : q ∈ SMap.set k x m) :
    q = (k, x) ∨ q ∈ m := by
  induction m with
  | nil => simpa [SMap.set] using h
  | cons p r ih =>
    obtain ⟨j, y⟩ := p
    unfold SMap.set at h
    split at h
    · simp_all
    · split at h
      · simp only [List.mem_cons] at h ⊢
        tauto
      · simp only [List.mem_cons] at h ⊢
        rcases h with h | h
        · tauto
        · rcases ih h with h | h <;> tauto

/-- A write keeps the keys rising. -/
theorem SMap.rising_set {α : Type} {k : Nat} {x : α} {m : SMap α} (h : SMap.rising m = true) :
    SMap.rising (SMap.set k x m) = true := by
  induction m with
  | nil => rfl
  | cons p r ih =>
    obtain ⟨j, y⟩ := p
    have hr := (SMap.rising_cons _ _).mp h
    unfold SMap.set
    split
    · rename_i hk
      rw [SMap.rising_cons]
      refine ⟨h, fun q hq => ?_⟩
      rcases List.mem_cons.mp hq with rfl | hq
      · exact hk
      · exact Nat.lt_trans hk (hr.2 q hq)
    · split
      · rename_i e
        subst e
        rw [SMap.rising_cons]
        exact ⟨hr.1, hr.2⟩
      · rw [SMap.rising_cons]
        refine ⟨ih hr.1, fun q hq => ?_⟩
        rcases SMap.mem_set hq with rfl | hq
        · show j < k; omega
        · exact hr.2 q hq

theorem SMap.rising_filter {α : Type} {m : SMap α} (p : Nat × α → Bool) (h : SMap.rising m = true) :
    SMap.rising (m.filter p) = true := by
  induction m with
  | nil => rfl
  | cons q r ih =>
    have hr := (SMap.rising_cons _ _).mp h
    rw [List.filter_cons]
    split
    · rw [SMap.rising_cons]
      exact ⟨ih hr.1, fun x hx => hr.2 x (List.mem_of_mem_filter hx)⟩
    · exact ih hr.1

theorem SMap.look_filter {α : Type} {d : α} {m : SMap α} {p : Nat × α → Bool} {x : Nat} (h : ∀ b, p (x, b) = true) :
    SMap.look d (m.filter p) x = SMap.look d m x := by
  induction m with
  | nil => rfl
  | cons q r ih =>
    obtain ⟨j, y⟩ := q
    rw [List.filter_cons]
    by_cases e : j = x
    · subst e; simp [h, SMap.look]
    · split <;> simp [SMap.look, e, ih]

theorem SMap.look_filter_none {α : Type} {d : α} {m : SMap α} {p : Nat × α → Bool} {x : Nat} (h : ∀ b, p (x, b) = false) :
    SMap.look d (m.filter p) x = d := by
  induction m with
  | nil => rfl
  | cons q r ih =>
    obtain ⟨j, y⟩ := q
    rw [List.filter_cons]
    by_cases e : j = x
    · subst e; simp [h, ih]
    · split <;> simp [SMap.look, e, ih]

theorem SMap.rising_look {α : Type} {d : α} {m : SMap α} (h : SMap.rising m = true) {c : Nat × α} (hc : c ∈ m) :
    SMap.look d m c.1 = c.2 := by
  induction m with
  | nil => simp at hc
  | cons p r ih =>
    have hr := (SMap.rising_cons _ _).mp h
    rcases List.mem_cons.mp hc with rfl | hm
    · simp [SMap.look]
    · have := hr.2 c hm
      obtain ⟨j, y⟩ := p
      have e : j ≠ c.1 := by simp only at this; omega
      simp [SMap.look, e, ih hr.1 hm]

end Sys2Proof

namespace Sys2Proof.Machine

/-! ### Memory -/

@[simp] theorem Memory.byte_nil (a : Nat) : Memory.byte [] a = 0 := rfl

/-- A byte read after it is stored is the byte stored. -/
@[simp] theorem Memory.byte_store_same (m : Memory) (a : Nat) (b : Byte) : (m.store a b).byte a = b := by
  simp [Memory.byte, Memory.store]

/-- A store leaves every other byte alone. -/
@[simp] theorem Memory.byte_store_ne (m : Memory) {a x : Nat} (b : Byte) (h : x ≠ a) : (m.store a b).byte x = m.byte x := by
  simp [Memory.byte, Memory.store, h]

/-- What a store of bytes leaves at every address. -/
theorem Memory.byte_storeBytes (l : List Byte) (m : Memory) (a x : Nat) :
    (m.storeBytes a l).byte x = if a ≤ x ∧ x < a + l.length then l.getD (x - a) 0 else m.byte x := by
  induction l generalizing m a with
  | nil => simp [Memory.storeBytes]
  | cons b r ih =>
    rw [Memory.storeBytes, ih]
    by_cases h : x = a
    · subst h; simp
    · by_cases h2 : a + 1 ≤ x ∧ x < a + 1 + r.length
      · have e : x - a = (x - (a + 1)) + 1 := by omega
        rw [if_pos h2, if_pos (by simp only [List.length_cons]; omega), e, List.getD_cons_succ]
      · rw [if_neg h2, if_neg (by simp only [List.length_cons]; omega), Memory.byte_store_ne _ _ h]

/-- What a clear leaves at every address. -/
theorem Memory.byte_clear (m : Memory) (a n x : Nat) :
    (m.clear a n).byte x = if a ≤ x ∧ x < a + n then 0 else m.byte x := by
  unfold Memory.byte Memory.clear
  split
  · rename_i h; exact SMap.look_filter_none (fun b => by simp [h.1, h.2])
  · rename_i h; exact SMap.look_filter (fun b => by simp; omega)

theorem Memory.wf_iff (m : Memory) : m.wf = true ↔ SMap.rising m = true ∧ ∀ c ∈ m, c.2 ≠ 0 := by
  simp [Memory.wf]

@[simp] theorem Memory.wf_nil : Memory.wf [] = true := rfl

/-- A store keeps the canonical form. -/
theorem Memory.wf_store {m : Memory} (a : Nat) (b : Byte) (h : m.wf = true) : (m.store a b).wf = true := by
  rw [Memory.wf_iff] at h ⊢
  unfold Memory.store SMap.put
  split
  · exact ⟨SMap.rising_filter _ h.1, fun c hc => h.2 c (List.mem_of_mem_filter hc)⟩
  · rename_i hb
    refine ⟨SMap.rising_set h.1, fun c hc => ?_⟩
    rcases SMap.mem_set hc with rfl | hc
    · exact hb
    · exact h.2 c hc

/-- A store of bytes keeps the canonical form. -/
theorem Memory.wf_storeBytes (l : List Byte) {m : Memory} (a : Nat) (h : m.wf = true) : (m.storeBytes a l).wf = true := by
  induction l generalizing m a with
  | nil => exact h
  | cons b r ih => exact ih (a + 1) (Memory.wf_store a b h)

/-- A clear keeps the canonical form. -/
theorem Memory.wf_clear {m : Memory} (a n : Nat) (h : m.wf = true) : (m.clear a n).wf = true := by
  rw [Memory.wf_iff] at h ⊢
  exact ⟨SMap.rising_filter _ h.1, fun c hc => h.2 c (List.mem_of_mem_filter hc)⟩

/-- The memory of the machine after reset has the canonical form. -/
theorem reset_memory_wf : Memory.wf State.reset.phys = true ∧ Memory.wf State.reset.ls = true
    ∧ Memory.wf State.reset.vault = true ∧ Memory.wf State.reset.hostMem = true := ⟨rfl, rfl, rfl, rfl⟩

end Sys2Proof.Machine
end

