-- ==== Sys2Proof/Laws/State.lean ====
section
/-! SUPPORT. What each update of the state, of a warp and of its registers does to each part. -/

namespace Sys2Proof.Machine

/-! ### Parts of the state -/

@[simp] theorem State.setWarp_groups (s : State) (wp : Nat) (x : Warp) : (s.setWarp wp x).groups = s.groups := rfl
@[simp] theorem State.setWarp_cores (s : State) (wp : Nat) (x : Warp) : (s.setWarp wp x).cores = s.cores := rfl
@[simp] theorem State.setWarp_dies (s : State) (wp : Nat) (x : Warp) : (s.setWarp wp x).dies = s.dies := rfl
@[simp] theorem State.setWarp_queues (s : State) (wp : Nat) (x : Warp) : (s.setWarp wp x).queues = s.queues := rfl
@[simp] theorem State.setWarp_launches (s : State) (wp : Nat) (x : Warp) : (s.setWarp wp x).launches = s.launches := rfl
@[simp] theorem State.setWarp_saved (s : State) (wp : Nat) (x : Warp) : (s.setWarp wp x).saved = s.saved := rfl
@[simp] theorem State.setWarp_ls (s : State) (wp : Nat) (x : Warp) : (s.setWarp wp x).ls = s.ls := rfl
@[simp] theorem State.setWarp_lsBad (s : State) (wp : Nat) (x : Warp) : (s.setWarp wp x).lsBad = s.lsBad := rfl
@[simp] theorem State.setWarp_vault (s : State) (wp : Nat) (x : Warp) : (s.setWarp wp x).vault = s.vault := rfl
@[simp] theorem State.setWarp_vaultBad (s : State) (wp : Nat) (x : Warp) : (s.setWarp wp x).vaultBad = s.vaultBad := rfl
@[simp] theorem State.setWarp_phys (s : State) (wp : Nat) (x : Warp) : (s.setWarp wp x).phys = s.phys := rfl
@[simp] theorem State.setWarp_physBad (s : State) (wp : Nat) (x : Warp) : (s.setWarp wp x).physBad = s.physBad := rfl
@[simp] theorem State.setWarp_tags (s : State) (wp : Nat) (x : Warp) : (s.setWarp wp x).tags = s.tags := rfl
@[simp] theorem State.setWarp_prots (s : State) (wp : Nat) (x : Warp) : (s.setWarp wp x).prots = s.prots := rfl
@[simp] theorem State.setWarp_l1 (s : State) (wp : Nat) (x : Warp) : (s.setWarp wp x).l1 = s.l1 := rfl
@[simp] theorem State.setWarp_l2 (s : State) (wp : Nat) (x : Warp) : (s.setWarp wp x).l2 = s.l2 := rfl
@[simp] theorem State.setWarp_gone (s : State) (wp : Nat) (x : Warp) : (s.setWarp wp x).gone = s.gone := rfl
@[simp] theorem State.setWarp_filled (s : State) (wp : Nat) (x : Warp) : (s.setWarp wp x).filled = s.filled := rfl
@[simp] theorem State.setWarp_dir (s : State) (wp : Nat) (x : Warp) : (s.setWarp wp x).dir = s.dir := rfl
@[simp] theorem State.setWarp_tlb (s : State) (wp : Nat) (x : Warp) : (s.setWarp wp x).tlb = s.tlb := rfl
@[simp] theorem State.setWarp_windows (s : State) (wp : Nat) (x : Warp) : (s.setWarp wp x).windows = s.windows := rfl
@[simp] theorem State.setWarp_msgs (s : State) (wp : Nat) (x : Warp) : (s.setWarp wp x).msgs = s.msgs := rfl
@[simp] theorem State.setWarp_arrivals (s : State) (wp : Nat) (x : Warp) : (s.setWarp wp x).arrivals = s.arrivals := rfl
@[simp] theorem State.setWarp_samples (s : State) (wp : Nat) (x : Warp) : (s.setWarp wp x).samples = s.samples := rfl
@[simp] theorem State.setWarp_regions (s : State) (wp : Nat) (x : Warp) : (s.setWarp wp x).regions = s.regions := rfl
@[simp] theorem State.setWarp_regToks (s : State) (wp : Nat) (x : Warp) : (s.setWarp wp x).regToks = s.regToks := rfl
@[simp] theorem State.setWarp_reqs (s : State) (wp : Nat) (x : Warp) : (s.setWarp wp x).reqs = s.reqs := rfl
@[simp] theorem State.setWarp_moulds (s : State) (wp : Nat) (x : Warp) : (s.setWarp wp x).moulds = s.moulds := rfl
@[simp] theorem State.setWarp_nextId (s : State) (wp : Nat) (x : Warp) : (s.setWarp wp x).nextId = s.nextId := rfl
@[simp] theorem State.setWarp_cycle (s : State) (wp : Nat) (x : Warp) : (s.setWarp wp x).cycle = s.cycle := rfl
@[simp] theorem State.setWarp_arith (s : State) (wp : Nat) (x : Warp) : (s.setWarp wp x).arith = s.arith := rfl
@[simp] theorem State.setWarp_mode (s : State) (wp : Nat) (x : Warp) : (s.setWarp wp x).mode = s.mode := rfl
@[simp] theorem State.setWarp_ring (s : State) (wp : Nat) (x : Warp) : (s.setWarp wp x).ring = s.ring := rfl
@[simp] theorem State.setWarp_log (s : State) (wp : Nat) (x : Warp) : (s.setWarp wp x).log = s.log := rfl
@[simp] theorem State.setWarp_logLost (s : State) (wp : Nat) (x : Warp) : (s.setWarp wp x).logLost = s.logLost := rfl
@[simp] theorem State.setWarp_keys (s : State) (wp : Nat) (x : Warp) : (s.setWarp wp x).keys = s.keys := rfl
@[simp] theorem State.setWarp_transport (s : State) (wp : Nat) (x : Warp) : (s.setWarp wp x).transport = s.transport := rfl
@[simp] theorem State.setWarp_kemNo (s : State) (wp : Nat) (x : Warp) : (s.setWarp wp x).kemNo = s.kemNo := rfl
@[simp] theorem State.setWarp_rollback (s : State) (wp : Nat) (x : Warp) : (s.setWarp wp x).rollback = s.rollback := rfl
@[simp] theorem State.setWarp_boot (s : State) (wp : Nat) (x : Warp) : (s.setWarp wp x).boot = s.boot := rfl
@[simp] theorem State.setWarp_flash (s : State) (wp : Nat) (x : Warp) : (s.setWarp wp x).flash = s.flash := rfl
@[simp] theorem State.setWarp_sev3 (s : State) (wp : Nat) (x : Warp) : (s.setWarp wp x).sev3 = s.sev3 := rfl
@[simp] theorem State.setWarp_preempts (s : State) (wp : Nat) (x : Warp) : (s.setWarp wp x).preempts = s.preempts := rfl
@[simp] theorem State.setWarp_resetting (s : State) (wp : Nat) (x : Warp) : (s.setWarp wp x).resetting = s.resetting := rfl
@[simp] theorem State.setWarp_images (s : State) (wp : Nat) (x : Warp) : (s.setWarp wp x).images = s.images := rfl
@[simp] theorem State.setWarp_cxlDown (s : State) (wp : Nat) (x : Warp) : (s.setWarp wp x).cxlDown = s.cxlDown := rfl
@[simp] theorem State.setWarp_lost (s : State) (wp : Nat) (x : Warp) : (s.setWarp wp x).lost = s.lost := rfl
@[simp] theorem State.setWarp_lostAnswers (s : State) (wp : Nat) (x : Warp) : (s.setWarp wp x).lostAnswers = s.lostAnswers := rfl
@[simp] theorem State.setWarp_issuer (s : State) (wp : Nat) (x : Warp) : (s.setWarp wp x).issuer = s.issuer := rfl
@[simp] theorem State.setWarp_agenda (s : State) (wp : Nat) (x : Warp) : (s.setWarp wp x).agenda = s.agenda := rfl
@[simp] theorem State.setWarp_slot (s : State) (wp : Nat) (x : Warp) : (s.setWarp wp x).slot = s.slot := rfl
@[simp] theorem State.setWarp_fresh (s : State) (wp : Nat) (x : Warp) : (s.setWarp wp x).fresh = s.fresh := rfl
@[simp] theorem State.setWarp_hostMem (s : State) (wp : Nat) (x : Warp) : (s.setWarp wp x).hostMem = s.hostMem := rfl
@[simp] theorem State.setGroup_warps (s : State) (g : Nat) (x : Group) : (s.setGroup g x).warps = s.warps := rfl
@[simp] theorem State.setGroup_cores (s : State) (g : Nat) (x : Group) : (s.setGroup g x).cores = s.cores := rfl
@[simp] theorem State.setGroup_dies (s : State) (g : Nat) (x : Group) : (s.setGroup g x).dies = s.dies := rfl
@[simp] theorem State.setGroup_queues (s : State) (g : Nat) (x : Group) : (s.setGroup g x).queues = s.queues := rfl
@[simp] theorem State.setGroup_launches (s : State) (g : Nat) (x : Group) : (s.setGroup g x).launches = s.launches := rfl
@[simp] theorem State.setGroup_saved (s : State) (g : Nat) (x : Group) : (s.setGroup g x).saved = s.saved := rfl
@[simp] theorem State.setGroup_ls (s : State) (g : Nat) (x : Group) : (s.setGroup g x).ls = s.ls := rfl
@[simp] theorem State.setGroup_lsBad (s : State) (g : Nat) (x : Group) : (s.setGroup g x).lsBad = s.lsBad := rfl
@[simp] theorem State.setGroup_vault (s : State) (g : Nat) (x : Group) : (s.setGroup g x).vault = s.vault := rfl
@[simp] theorem State.setGroup_vaultBad (s : State) (g : Nat) (x : Group) : (s.setGroup g x).vaultBad = s.vaultBad := rfl
@[simp] theorem State.setGroup_phys (s : State) (g : Nat) (x : Group) : (s.setGroup g x).phys = s.phys := rfl
@[simp] theorem State.setGroup_physBad (s : State) (g : Nat) (x : Group) : (s.setGroup g x).physBad = s.physBad := rfl
@[simp] theorem State.setGroup_tags (s : State) (g : Nat) (x : Group) : (s.setGroup g x).tags = s.tags := rfl
@[simp] theorem State.setGroup_prots (s : State) (g : Nat) (x : Group) : (s.setGroup g x).prots = s.prots := rfl
@[simp] theorem State.setGroup_l1 (s : State) (g : Nat) (x : Group) : (s.setGroup g x).l1 = s.l1 := rfl
@[simp] theorem State.setGroup_l2 (s : State) (g : Nat) (x : Group) : (s.setGroup g x).l2 = s.l2 := rfl
@[simp] theorem State.setGroup_gone (s : State) (g : Nat) (x : Group) : (s.setGroup g x).gone = s.gone := rfl
@[simp] theorem State.setGroup_filled (s : State) (g : Nat) (x : Group) : (s.setGroup g x).filled = s.filled := rfl
@[simp] theorem State.setGroup_dir (s : State) (g : Nat) (x : Group) : (s.setGroup g x).dir = s.dir := rfl
@[simp] theorem State.setGroup_tlb (s : State) (g : Nat) (x : Group) : (s.setGroup g x).tlb = s.tlb := rfl
@[simp] theorem State.setGroup_windows (s : State) (g : Nat) (x : Group) : (s.setGroup g x).windows = s.windows := rfl
@[simp] theorem State.setGroup_msgs (s : State) (g : Nat) (x : Group) : (s.setGroup g x).msgs = s.msgs := rfl
@[simp] theorem State.setGroup_arrivals (s : State) (g : Nat) (x : Group) : (s.setGroup g x).arrivals = s.arrivals := rfl
@[simp] theorem State.setGroup_samples (s : State) (g : Nat) (x : Group) : (s.setGroup g x).samples = s.samples := rfl
@[simp] theorem State.setGroup_regions (s : State) (g : Nat) (x : Group) : (s.setGroup g x).regions = s.regions := rfl
@[simp] theorem State.setGroup_regToks (s : State) (g : Nat) (x : Group) : (s.setGroup g x).regToks = s.regToks := rfl
@[simp] theorem State.setGroup_reqs (s : State) (g : Nat) (x : Group) : (s.setGroup g x).reqs = s.reqs := rfl
@[simp] theorem State.setGroup_moulds (s : State) (g : Nat) (x : Group) : (s.setGroup g x).moulds = s.moulds := rfl
@[simp] theorem State.setGroup_nextId (s : State) (g : Nat) (x : Group) : (s.setGroup g x).nextId = s.nextId := rfl
@[simp] theorem State.setGroup_cycle (s : State) (g : Nat) (x : Group) : (s.setGroup g x).cycle = s.cycle := rfl
@[simp] theorem State.setGroup_arith (s : State) (g : Nat) (x : Group) : (s.setGroup g x).arith = s.arith := rfl
@[simp] theorem State.setGroup_mode (s : State) (g : Nat) (x : Group) : (s.setGroup g x).mode = s.mode := rfl
@[simp] theorem State.setGroup_ring (s : State) (g : Nat) (x : Group) : (s.setGroup g x).ring = s.ring := rfl
@[simp] theorem State.setGroup_log (s : State) (g : Nat) (x : Group) : (s.setGroup g x).log = s.log := rfl
@[simp] theorem State.setGroup_logLost (s : State) (g : Nat) (x : Group) : (s.setGroup g x).logLost = s.logLost := rfl
@[simp] theorem State.setGroup_keys (s : State) (g : Nat) (x : Group) : (s.setGroup g x).keys = s.keys := rfl
@[simp] theorem State.setGroup_transport (s : State) (g : Nat) (x : Group) : (s.setGroup g x).transport = s.transport := rfl
@[simp] theorem State.setGroup_kemNo (s : State) (g : Nat) (x : Group) : (s.setGroup g x).kemNo = s.kemNo := rfl
@[simp] theorem State.setGroup_rollback (s : State) (g : Nat) (x : Group) : (s.setGroup g x).rollback = s.rollback := rfl
@[simp] theorem State.setGroup_boot (s : State) (g : Nat) (x : Group) : (s.setGroup g x).boot = s.boot := rfl
@[simp] theorem State.setGroup_flash (s : State) (g : Nat) (x : Group) : (s.setGroup g x).flash = s.flash := rfl
@[simp] theorem State.setGroup_sev3 (s : State) (g : Nat) (x : Group) : (s.setGroup g x).sev3 = s.sev3 := rfl
@[simp] theorem State.setGroup_preempts (s : State) (g : Nat) (x : Group) : (s.setGroup g x).preempts = s.preempts := rfl
@[simp] theorem State.setGroup_resetting (s : State) (g : Nat) (x : Group) : (s.setGroup g x).resetting = s.resetting := rfl
@[simp] theorem State.setGroup_images (s : State) (g : Nat) (x : Group) : (s.setGroup g x).images = s.images := rfl
@[simp] theorem State.setGroup_cxlDown (s : State) (g : Nat) (x : Group) : (s.setGroup g x).cxlDown = s.cxlDown := rfl
@[simp] theorem State.setGroup_lost (s : State) (g : Nat) (x : Group) : (s.setGroup g x).lost = s.lost := rfl
@[simp] theorem State.setGroup_lostAnswers (s : State) (g : Nat) (x : Group) : (s.setGroup g x).lostAnswers = s.lostAnswers := rfl
@[simp] theorem State.setGroup_issuer (s : State) (g : Nat) (x : Group) : (s.setGroup g x).issuer = s.issuer := rfl
@[simp] theorem State.setGroup_agenda (s : State) (g : Nat) (x : Group) : (s.setGroup g x).agenda = s.agenda := rfl
@[simp] theorem State.setGroup_slot (s : State) (g : Nat) (x : Group) : (s.setGroup g x).slot = s.slot := rfl
@[simp] theorem State.setGroup_fresh (s : State) (g : Nat) (x : Group) : (s.setGroup g x).fresh = s.fresh := rfl
@[simp] theorem State.setGroup_hostMem (s : State) (g : Nat) (x : Group) : (s.setGroup g x).hostMem = s.hostMem := rfl
@[simp] theorem State.setCore_warps (s : State) (c : Nat) (x : Core) : (s.setCore c x).warps = s.warps := rfl
@[simp] theorem State.setCore_groups (s : State) (c : Nat) (x : Core) : (s.setCore c x).groups = s.groups := rfl
@[simp] theorem State.setCore_dies (s : State) (c : Nat) (x : Core) : (s.setCore c x).dies = s.dies := rfl
@[simp] theorem State.setCore_queues (s : State) (c : Nat) (x : Core) : (s.setCore c x).queues = s.queues := rfl
@[simp] theorem State.setCore_launches (s : State) (c : Nat) (x : Core) : (s.setCore c x).launches = s.launches := rfl
@[simp] theorem State.setCore_saved (s : State) (c : Nat) (x : Core) : (s.setCore c x).saved = s.saved := rfl
@[simp] theorem State.setCore_ls (s : State) (c : Nat) (x : Core) : (s.setCore c x).ls = s.ls := rfl
@[simp] theorem State.setCore_lsBad (s : State) (c : Nat) (x : Core) : (s.setCore c x).lsBad = s.lsBad := rfl
@[simp] theorem State.setCore_vault (s : State) (c : Nat) (x : Core) : (s.setCore c x).vault = s.vault := rfl
@[simp] theorem State.setCore_vaultBad (s : State) (c : Nat) (x : Core) : (s.setCore c x).vaultBad = s.vaultBad := rfl
@[simp] theorem State.setCore_phys (s : State) (c : Nat) (x : Core) : (s.setCore c x).phys = s.phys := rfl
@[simp] theorem State.setCore_physBad (s : State) (c : Nat) (x : Core) : (s.setCore c x).physBad = s.physBad := rfl
@[simp] theorem State.setCore_tags (s : State) (c : Nat) (x : Core) : (s.setCore c x).tags = s.tags := rfl
@[simp] theorem State.setCore_prots (s : State) (c : Nat) (x : Core) : (s.setCore c x).prots = s.prots := rfl
@[simp] theorem State.setCore_l1 (s : State) (c : Nat) (x : Core) : (s.setCore c x).l1 = s.l1 := rfl
@[simp] theorem State.setCore_l2 (s : State) (c : Nat) (x : Core) : (s.setCore c x).l2 = s.l2 := rfl
@[simp] theorem State.setCore_gone (s : State) (c : Nat) (x : Core) : (s.setCore c x).gone = s.gone := rfl
@[simp] theorem State.setCore_filled (s : State) (c : Nat) (x : Core) : (s.setCore c x).filled = s.filled := rfl
@[simp] theorem State.setCore_dir (s : State) (c : Nat) (x : Core) : (s.setCore c x).dir = s.dir := rfl
@[simp] theorem State.setCore_tlb (s : State) (c : Nat) (x : Core) : (s.setCore c x).tlb = s.tlb := rfl
@[simp] theorem State.setCore_windows (s : State) (c : Nat) (x : Core) : (s.setCore c x).windows = s.windows := rfl
@[simp] theorem State.setCore_msgs (s : State) (c : Nat) (x : Core) : (s.setCore c x).msgs = s.msgs := rfl
@[simp] theorem State.setCore_arrivals (s : State) (c : Nat) (x : Core) : (s.setCore c x).arrivals = s.arrivals := rfl
@[simp] theorem State.setCore_samples (s : State) (c : Nat) (x : Core) : (s.setCore c x).samples = s.samples := rfl
@[simp] theorem State.setCore_regions (s : State) (c : Nat) (x : Core) : (s.setCore c x).regions = s.regions := rfl
@[simp] theorem State.setCore_regToks (s : State) (c : Nat) (x : Core) : (s.setCore c x).regToks = s.regToks := rfl
@[simp] theorem State.setCore_reqs (s : State) (c : Nat) (x : Core) : (s.setCore c x).reqs = s.reqs := rfl
@[simp] theorem State.setCore_moulds (s : State) (c : Nat) (x : Core) : (s.setCore c x).moulds = s.moulds := rfl
@[simp] theorem State.setCore_nextId (s : State) (c : Nat) (x : Core) : (s.setCore c x).nextId = s.nextId := rfl
@[simp] theorem State.setCore_cycle (s : State) (c : Nat) (x : Core) : (s.setCore c x).cycle = s.cycle := rfl
@[simp] theorem State.setCore_arith (s : State) (c : Nat) (x : Core) : (s.setCore c x).arith = s.arith := rfl
@[simp] theorem State.setCore_mode (s : State) (c : Nat) (x : Core) : (s.setCore c x).mode = s.mode := rfl
@[simp] theorem State.setCore_ring (s : State) (c : Nat) (x : Core) : (s.setCore c x).ring = s.ring := rfl
@[simp] theorem State.setCore_log (s : State) (c : Nat) (x : Core) : (s.setCore c x).log = s.log := rfl
@[simp] theorem State.setCore_logLost (s : State) (c : Nat) (x : Core) : (s.setCore c x).logLost = s.logLost := rfl
@[simp] theorem State.setCore_keys (s : State) (c : Nat) (x : Core) : (s.setCore c x).keys = s.keys := rfl
@[simp] theorem State.setCore_transport (s : State) (c : Nat) (x : Core) : (s.setCore c x).transport = s.transport := rfl
@[simp] theorem State.setCore_kemNo (s : State) (c : Nat) (x : Core) : (s.setCore c x).kemNo = s.kemNo := rfl
@[simp] theorem State.setCore_rollback (s : State) (c : Nat) (x : Core) : (s.setCore c x).rollback = s.rollback := rfl
@[simp] theorem State.setCore_boot (s : State) (c : Nat) (x : Core) : (s.setCore c x).boot = s.boot := rfl
@[simp] theorem State.setCore_flash (s : State) (c : Nat) (x : Core) : (s.setCore c x).flash = s.flash := rfl
@[simp] theorem State.setCore_sev3 (s : State) (c : Nat) (x : Core) : (s.setCore c x).sev3 = s.sev3 := rfl
@[simp] theorem State.setCore_preempts (s : State) (c : Nat) (x : Core) : (s.setCore c x).preempts = s.preempts := rfl
@[simp] theorem State.setCore_resetting (s : State) (c : Nat) (x : Core) : (s.setCore c x).resetting = s.resetting := rfl
@[simp] theorem State.setCore_images (s : State) (c : Nat) (x : Core) : (s.setCore c x).images = s.images := rfl
@[simp] theorem State.setCore_cxlDown (s : State) (c : Nat) (x : Core) : (s.setCore c x).cxlDown = s.cxlDown := rfl
@[simp] theorem State.setCore_lost (s : State) (c : Nat) (x : Core) : (s.setCore c x).lost = s.lost := rfl
@[simp] theorem State.setCore_lostAnswers (s : State) (c : Nat) (x : Core) : (s.setCore c x).lostAnswers = s.lostAnswers := rfl
@[simp] theorem State.setCore_issuer (s : State) (c : Nat) (x : Core) : (s.setCore c x).issuer = s.issuer := rfl
@[simp] theorem State.setCore_agenda (s : State) (c : Nat) (x : Core) : (s.setCore c x).agenda = s.agenda := rfl
@[simp] theorem State.setCore_slot (s : State) (c : Nat) (x : Core) : (s.setCore c x).slot = s.slot := rfl
@[simp] theorem State.setCore_fresh (s : State) (c : Nat) (x : Core) : (s.setCore c x).fresh = s.fresh := rfl
@[simp] theorem State.setCore_hostMem (s : State) (c : Nat) (x : Core) : (s.setCore c x).hostMem = s.hostMem := rfl
@[simp] theorem State.setDie_warps (s : State) (d : Nat) (x : Die) : (s.setDie d x).warps = s.warps := rfl
@[simp] theorem State.setDie_groups (s : State) (d : Nat) (x : Die) : (s.setDie d x).groups = s.groups := rfl
@[simp] theorem State.setDie_cores (s : State) (d : Nat) (x : Die) : (s.setDie d x).cores = s.cores := rfl
@[simp] theorem State.setDie_queues (s : State) (d : Nat) (x : Die) : (s.setDie d x).queues = s.queues := rfl
@[simp] theorem State.setDie_launches (s : State) (d : Nat) (x : Die) : (s.setDie d x).launches = s.launches := rfl
@[simp] theorem State.setDie_saved (s : State) (d : Nat) (x : Die) : (s.setDie d x).saved = s.saved := rfl
@[simp] theorem State.setDie_ls (s : State) (d : Nat) (x : Die) : (s.setDie d x).ls = s.ls := rfl
@[simp] theorem State.setDie_lsBad (s : State) (d : Nat) (x : Die) : (s.setDie d x).lsBad = s.lsBad := rfl
@[simp] theorem State.setDie_vault (s : State) (d : Nat) (x : Die) : (s.setDie d x).vault = s.vault := rfl
@[simp] theorem State.setDie_vaultBad (s : State) (d : Nat) (x : Die) : (s.setDie d x).vaultBad = s.vaultBad := rfl
@[simp] theorem State.setDie_phys (s : State) (d : Nat) (x : Die) : (s.setDie d x).phys = s.phys := rfl
@[simp] theorem State.setDie_physBad (s : State) (d : Nat) (x : Die) : (s.setDie d x).physBad = s.physBad := rfl
@[simp] theorem State.setDie_tags (s : State) (d : Nat) (x : Die) : (s.setDie d x).tags = s.tags := rfl
@[simp] theorem State.setDie_prots (s : State) (d : Nat) (x : Die) : (s.setDie d x).prots = s.prots := rfl
@[simp] theorem State.setDie_l1 (s : State) (d : Nat) (x : Die) : (s.setDie d x).l1 = s.l1 := rfl
@[simp] theorem State.setDie_l2 (s : State) (d : Nat) (x : Die) : (s.setDie d x).l2 = s.l2 := rfl
@[simp] theorem State.setDie_gone (s : State) (d : Nat) (x : Die) : (s.setDie d x).gone = s.gone := rfl
@[simp] theorem State.setDie_filled (s : State) (d : Nat) (x : Die) : (s.setDie d x).filled = s.filled := rfl
@[simp] theorem State.setDie_dir (s : State) (d : Nat) (x : Die) : (s.setDie d x).dir = s.dir := rfl
@[simp] theorem State.setDie_tlb (s : State) (d : Nat) (x : Die) : (s.setDie d x).tlb = s.tlb := rfl
@[simp] theorem State.setDie_windows (s : State) (d : Nat) (x : Die) : (s.setDie d x).windows = s.windows := rfl
@[simp] theorem State.setDie_msgs (s : State) (d : Nat) (x : Die) : (s.setDie d x).msgs = s.msgs := rfl
@[simp] theorem State.setDie_arrivals (s : State) (d : Nat) (x : Die) : (s.setDie d x).arrivals = s.arrivals := rfl
@[simp] theorem State.setDie_samples (s : State) (d : Nat) (x : Die) : (s.setDie d x).samples = s.samples := rfl
@[simp] theorem State.setDie_regions (s : State) (d : Nat) (x : Die) : (s.setDie d x).regions = s.regions := rfl
@[simp] theorem State.setDie_regToks (s : State) (d : Nat) (x : Die) : (s.setDie d x).regToks = s.regToks := rfl
@[simp] theorem State.setDie_reqs (s : State) (d : Nat) (x : Die) : (s.setDie d x).reqs = s.reqs := rfl
@[simp] theorem State.setDie_moulds (s : State) (d : Nat) (x : Die) : (s.setDie d x).moulds = s.moulds := rfl
@[simp] theorem State.setDie_nextId (s : State) (d : Nat) (x : Die) : (s.setDie d x).nextId = s.nextId := rfl
@[simp] theorem State.setDie_cycle (s : State) (d : Nat) (x : Die) : (s.setDie d x).cycle = s.cycle := rfl
@[simp] theorem State.setDie_arith (s : State) (d : Nat) (x : Die) : (s.setDie d x).arith = s.arith := rfl
@[simp] theorem State.setDie_mode (s : State) (d : Nat) (x : Die) : (s.setDie d x).mode = s.mode := rfl
@[simp] theorem State.setDie_ring (s : State) (d : Nat) (x : Die) : (s.setDie d x).ring = s.ring := rfl
@[simp] theorem State.setDie_log (s : State) (d : Nat) (x : Die) : (s.setDie d x).log = s.log := rfl
@[simp] theorem State.setDie_logLost (s : State) (d : Nat) (x : Die) : (s.setDie d x).logLost = s.logLost := rfl
@[simp] theorem State.setDie_keys (s : State) (d : Nat) (x : Die) : (s.setDie d x).keys = s.keys := rfl
@[simp] theorem State.setDie_transport (s : State) (d : Nat) (x : Die) : (s.setDie d x).transport = s.transport := rfl
@[simp] theorem State.setDie_kemNo (s : State) (d : Nat) (x : Die) : (s.setDie d x).kemNo = s.kemNo := rfl
@[simp] theorem State.setDie_rollback (s : State) (d : Nat) (x : Die) : (s.setDie d x).rollback = s.rollback := rfl
@[simp] theorem State.setDie_boot (s : State) (d : Nat) (x : Die) : (s.setDie d x).boot = s.boot := rfl
@[simp] theorem State.setDie_flash (s : State) (d : Nat) (x : Die) : (s.setDie d x).flash = s.flash := rfl
@[simp] theorem State.setDie_sev3 (s : State) (d : Nat) (x : Die) : (s.setDie d x).sev3 = s.sev3 := rfl
@[simp] theorem State.setDie_preempts (s : State) (d : Nat) (x : Die) : (s.setDie d x).preempts = s.preempts := rfl
@[simp] theorem State.setDie_resetting (s : State) (d : Nat) (x : Die) : (s.setDie d x).resetting = s.resetting := rfl
@[simp] theorem State.setDie_images (s : State) (d : Nat) (x : Die) : (s.setDie d x).images = s.images := rfl
@[simp] theorem State.setDie_cxlDown (s : State) (d : Nat) (x : Die) : (s.setDie d x).cxlDown = s.cxlDown := rfl
@[simp] theorem State.setDie_lost (s : State) (d : Nat) (x : Die) : (s.setDie d x).lost = s.lost := rfl
@[simp] theorem State.setDie_lostAnswers (s : State) (d : Nat) (x : Die) : (s.setDie d x).lostAnswers = s.lostAnswers := rfl
@[simp] theorem State.setDie_issuer (s : State) (d : Nat) (x : Die) : (s.setDie d x).issuer = s.issuer := rfl
@[simp] theorem State.setDie_agenda (s : State) (d : Nat) (x : Die) : (s.setDie d x).agenda = s.agenda := rfl
@[simp] theorem State.setDie_slot (s : State) (d : Nat) (x : Die) : (s.setDie d x).slot = s.slot := rfl
@[simp] theorem State.setDie_fresh (s : State) (d : Nat) (x : Die) : (s.setDie d x).fresh = s.fresh := rfl
@[simp] theorem State.setDie_hostMem (s : State) (d : Nat) (x : Die) : (s.setDie d x).hostMem = s.hostMem := rfl
@[simp] theorem State.setLaunch_warps (s : State) (l : Nat) (x : Launch) : (s.setLaunch l x).warps = s.warps := rfl
@[simp] theorem State.setLaunch_groups (s : State) (l : Nat) (x : Launch) : (s.setLaunch l x).groups = s.groups := rfl
@[simp] theorem State.setLaunch_cores (s : State) (l : Nat) (x : Launch) : (s.setLaunch l x).cores = s.cores := rfl
@[simp] theorem State.setLaunch_dies (s : State) (l : Nat) (x : Launch) : (s.setLaunch l x).dies = s.dies := rfl
@[simp] theorem State.setLaunch_queues (s : State) (l : Nat) (x : Launch) : (s.setLaunch l x).queues = s.queues := rfl
@[simp] theorem State.setLaunch_saved (s : State) (l : Nat) (x : Launch) : (s.setLaunch l x).saved = s.saved := rfl
@[simp] theorem State.setLaunch_ls (s : State) (l : Nat) (x : Launch) : (s.setLaunch l x).ls = s.ls := rfl
@[simp] theorem State.setLaunch_lsBad (s : State) (l : Nat) (x : Launch) : (s.setLaunch l x).lsBad = s.lsBad := rfl
@[simp] theorem State.setLaunch_vault (s : State) (l : Nat) (x : Launch) : (s.setLaunch l x).vault = s.vault := rfl
@[simp] theorem State.setLaunch_vaultBad (s : State) (l : Nat) (x : Launch) : (s.setLaunch l x).vaultBad = s.vaultBad := rfl
@[simp] theorem State.setLaunch_phys (s : State) (l : Nat) (x : Launch) : (s.setLaunch l x).phys = s.phys := rfl
@[simp] theorem State.setLaunch_physBad (s : State) (l : Nat) (x : Launch) : (s.setLaunch l x).physBad = s.physBad := rfl
@[simp] theorem State.setLaunch_tags (s : State) (l : Nat) (x : Launch) : (s.setLaunch l x).tags = s.tags := rfl
@[simp] theorem State.setLaunch_prots (s : State) (l : Nat) (x : Launch) : (s.setLaunch l x).prots = s.prots := rfl
@[simp] theorem State.setLaunch_l1 (s : State) (l : Nat) (x : Launch) : (s.setLaunch l x).l1 = s.l1 := rfl
@[simp] theorem State.setLaunch_l2 (s : State) (l : Nat) (x : Launch) : (s.setLaunch l x).l2 = s.l2 := rfl
@[simp] theorem State.setLaunch_gone (s : State) (l : Nat) (x : Launch) : (s.setLaunch l x).gone = s.gone := rfl
@[simp] theorem State.setLaunch_filled (s : State) (l : Nat) (x : Launch) : (s.setLaunch l x).filled = s.filled := rfl
@[simp] theorem State.setLaunch_dir (s : State) (l : Nat) (x : Launch) : (s.setLaunch l x).dir = s.dir := rfl
@[simp] theorem State.setLaunch_tlb (s : State) (l : Nat) (x : Launch) : (s.setLaunch l x).tlb = s.tlb := rfl
@[simp] theorem State.setLaunch_windows (s : State) (l : Nat) (x : Launch) : (s.setLaunch l x).windows = s.windows := rfl
@[simp] theorem State.setLaunch_msgs (s : State) (l : Nat) (x : Launch) : (s.setLaunch l x).msgs = s.msgs := rfl
@[simp] theorem State.setLaunch_arrivals (s : State) (l : Nat) (x : Launch) : (s.setLaunch l x).arrivals = s.arrivals := rfl
@[simp] theorem State.setLaunch_samples (s : State) (l : Nat) (x : Launch) : (s.setLaunch l x).samples = s.samples := rfl
@[simp] theorem State.setLaunch_regions (s : State) (l : Nat) (x : Launch) : (s.setLaunch l x).regions = s.regions := rfl
@[simp] theorem State.setLaunch_regToks (s : State) (l : Nat) (x : Launch) : (s.setLaunch l x).regToks = s.regToks := rfl
@[simp] theorem State.setLaunch_reqs (s : State) (l : Nat) (x : Launch) : (s.setLaunch l x).reqs = s.reqs := rfl
@[simp] theorem State.setLaunch_moulds (s : State) (l : Nat) (x : Launch) : (s.setLaunch l x).moulds = s.moulds := rfl
@[simp] theorem State.setLaunch_nextId (s : State) (l : Nat) (x : Launch) : (s.setLaunch l x).nextId = s.nextId := rfl
@[simp] theorem State.setLaunch_cycle (s : State) (l : Nat) (x : Launch) : (s.setLaunch l x).cycle = s.cycle := rfl
@[simp] theorem State.setLaunch_arith (s : State) (l : Nat) (x : Launch) : (s.setLaunch l x).arith = s.arith := rfl
@[simp] theorem State.setLaunch_mode (s : State) (l : Nat) (x : Launch) : (s.setLaunch l x).mode = s.mode := rfl
@[simp] theorem State.setLaunch_ring (s : State) (l : Nat) (x : Launch) : (s.setLaunch l x).ring = s.ring := rfl
@[simp] theorem State.setLaunch_log (s : State) (l : Nat) (x : Launch) : (s.setLaunch l x).log = s.log := rfl
@[simp] theorem State.setLaunch_logLost (s : State) (l : Nat) (x : Launch) : (s.setLaunch l x).logLost = s.logLost := rfl
@[simp] theorem State.setLaunch_keys (s : State) (l : Nat) (x : Launch) : (s.setLaunch l x).keys = s.keys := rfl
@[simp] theorem State.setLaunch_transport (s : State) (l : Nat) (x : Launch) : (s.setLaunch l x).transport = s.transport := rfl
@[simp] theorem State.setLaunch_kemNo (s : State) (l : Nat) (x : Launch) : (s.setLaunch l x).kemNo = s.kemNo := rfl
@[simp] theorem State.setLaunch_rollback (s : State) (l : Nat) (x : Launch) : (s.setLaunch l x).rollback = s.rollback := rfl
@[simp] theorem State.setLaunch_boot (s : State) (l : Nat) (x : Launch) : (s.setLaunch l x).boot = s.boot := rfl
@[simp] theorem State.setLaunch_flash (s : State) (l : Nat) (x : Launch) : (s.setLaunch l x).flash = s.flash := rfl
@[simp] theorem State.setLaunch_sev3 (s : State) (l : Nat) (x : Launch) : (s.setLaunch l x).sev3 = s.sev3 := rfl
@[simp] theorem State.setLaunch_preempts (s : State) (l : Nat) (x : Launch) : (s.setLaunch l x).preempts = s.preempts := rfl
@[simp] theorem State.setLaunch_resetting (s : State) (l : Nat) (x : Launch) : (s.setLaunch l x).resetting = s.resetting := rfl
@[simp] theorem State.setLaunch_images (s : State) (l : Nat) (x : Launch) : (s.setLaunch l x).images = s.images := rfl
@[simp] theorem State.setLaunch_cxlDown (s : State) (l : Nat) (x : Launch) : (s.setLaunch l x).cxlDown = s.cxlDown := rfl
@[simp] theorem State.setLaunch_lost (s : State) (l : Nat) (x : Launch) : (s.setLaunch l x).lost = s.lost := rfl
@[simp] theorem State.setLaunch_lostAnswers (s : State) (l : Nat) (x : Launch) : (s.setLaunch l x).lostAnswers = s.lostAnswers := rfl
@[simp] theorem State.setLaunch_issuer (s : State) (l : Nat) (x : Launch) : (s.setLaunch l x).issuer = s.issuer := rfl
@[simp] theorem State.setLaunch_agenda (s : State) (l : Nat) (x : Launch) : (s.setLaunch l x).agenda = s.agenda := rfl
@[simp] theorem State.setLaunch_slot (s : State) (l : Nat) (x : Launch) : (s.setLaunch l x).slot = s.slot := rfl
@[simp] theorem State.setLaunch_fresh (s : State) (l : Nat) (x : Launch) : (s.setLaunch l x).fresh = s.fresh := rfl
@[simp] theorem State.setLaunch_hostMem (s : State) (l : Nat) (x : Launch) : (s.setLaunch l x).hostMem = s.hostMem := rfl
@[simp] theorem State.setQueue_warps (s : State) (d q : Nat) (x : Queue) : (s.setQueue d q x).warps = s.warps := rfl
@[simp] theorem State.setQueue_groups (s : State) (d q : Nat) (x : Queue) : (s.setQueue d q x).groups = s.groups := rfl
@[simp] theorem State.setQueue_cores (s : State) (d q : Nat) (x : Queue) : (s.setQueue d q x).cores = s.cores := rfl
@[simp] theorem State.setQueue_dies (s : State) (d q : Nat) (x : Queue) : (s.setQueue d q x).dies = s.dies := rfl
@[simp] theorem State.setQueue_launches (s : State) (d q : Nat) (x : Queue) : (s.setQueue d q x).launches = s.launches := rfl
@[simp] theorem State.setQueue_saved (s : State) (d q : Nat) (x : Queue) : (s.setQueue d q x).saved = s.saved := rfl
@[simp] theorem State.setQueue_ls (s : State) (d q : Nat) (x : Queue) : (s.setQueue d q x).ls = s.ls := rfl
@[simp] theorem State.setQueue_lsBad (s : State) (d q : Nat) (x : Queue) : (s.setQueue d q x).lsBad = s.lsBad := rfl
@[simp] theorem State.setQueue_vault (s : State) (d q : Nat) (x : Queue) : (s.setQueue d q x).vault = s.vault := rfl
@[simp] theorem State.setQueue_vaultBad (s : State) (d q : Nat) (x : Queue) : (s.setQueue d q x).vaultBad = s.vaultBad := rfl
@[simp] theorem State.setQueue_phys (s : State) (d q : Nat) (x : Queue) : (s.setQueue d q x).phys = s.phys := rfl
@[simp] theorem State.setQueue_physBad (s : State) (d q : Nat) (x : Queue) : (s.setQueue d q x).physBad = s.physBad := rfl
@[simp] theorem State.setQueue_tags (s : State) (d q : Nat) (x : Queue) : (s.setQueue d q x).tags = s.tags := rfl
@[simp] theorem State.setQueue_prots (s : State) (d q : Nat) (x : Queue) : (s.setQueue d q x).prots = s.prots := rfl
@[simp] theorem State.setQueue_l1 (s : State) (d q : Nat) (x : Queue) : (s.setQueue d q x).l1 = s.l1 := rfl
@[simp] theorem State.setQueue_l2 (s : State) (d q : Nat) (x : Queue) : (s.setQueue d q x).l2 = s.l2 := rfl
@[simp] theorem State.setQueue_gone (s : State) (d q : Nat) (x : Queue) : (s.setQueue d q x).gone = s.gone := rfl
@[simp] theorem State.setQueue_filled (s : State) (d q : Nat) (x : Queue) : (s.setQueue d q x).filled = s.filled := rfl
@[simp] theorem State.setQueue_dir (s : State) (d q : Nat) (x : Queue) : (s.setQueue d q x).dir = s.dir := rfl
@[simp] theorem State.setQueue_tlb (s : State) (d q : Nat) (x : Queue) : (s.setQueue d q x).tlb = s.tlb := rfl
@[simp] theorem State.setQueue_windows (s : State) (d q : Nat) (x : Queue) : (s.setQueue d q x).windows = s.windows := rfl
@[simp] theorem State.setQueue_msgs (s : State) (d q : Nat) (x : Queue) : (s.setQueue d q x).msgs = s.msgs := rfl
@[simp] theorem State.setQueue_arrivals (s : State) (d q : Nat) (x : Queue) : (s.setQueue d q x).arrivals = s.arrivals := rfl
@[simp] theorem State.setQueue_samples (s : State) (d q : Nat) (x : Queue) : (s.setQueue d q x).samples = s.samples := rfl
@[simp] theorem State.setQueue_regions (s : State) (d q : Nat) (x : Queue) : (s.setQueue d q x).regions = s.regions := rfl
@[simp] theorem State.setQueue_regToks (s : State) (d q : Nat) (x : Queue) : (s.setQueue d q x).regToks = s.regToks := rfl
@[simp] theorem State.setQueue_reqs (s : State) (d q : Nat) (x : Queue) : (s.setQueue d q x).reqs = s.reqs := rfl
@[simp] theorem State.setQueue_moulds (s : State) (d q : Nat) (x : Queue) : (s.setQueue d q x).moulds = s.moulds := rfl
@[simp] theorem State.setQueue_nextId (s : State) (d q : Nat) (x : Queue) : (s.setQueue d q x).nextId = s.nextId := rfl
@[simp] theorem State.setQueue_cycle (s : State) (d q : Nat) (x : Queue) : (s.setQueue d q x).cycle = s.cycle := rfl
@[simp] theorem State.setQueue_arith (s : State) (d q : Nat) (x : Queue) : (s.setQueue d q x).arith = s.arith := rfl
@[simp] theorem State.setQueue_mode (s : State) (d q : Nat) (x : Queue) : (s.setQueue d q x).mode = s.mode := rfl
@[simp] theorem State.setQueue_ring (s : State) (d q : Nat) (x : Queue) : (s.setQueue d q x).ring = s.ring := rfl
@[simp] theorem State.setQueue_log (s : State) (d q : Nat) (x : Queue) : (s.setQueue d q x).log = s.log := rfl
@[simp] theorem State.setQueue_logLost (s : State) (d q : Nat) (x : Queue) : (s.setQueue d q x).logLost = s.logLost := rfl
@[simp] theorem State.setQueue_keys (s : State) (d q : Nat) (x : Queue) : (s.setQueue d q x).keys = s.keys := rfl
@[simp] theorem State.setQueue_transport (s : State) (d q : Nat) (x : Queue) : (s.setQueue d q x).transport = s.transport := rfl
@[simp] theorem State.setQueue_kemNo (s : State) (d q : Nat) (x : Queue) : (s.setQueue d q x).kemNo = s.kemNo := rfl
@[simp] theorem State.setQueue_rollback (s : State) (d q : Nat) (x : Queue) : (s.setQueue d q x).rollback = s.rollback := rfl
@[simp] theorem State.setQueue_boot (s : State) (d q : Nat) (x : Queue) : (s.setQueue d q x).boot = s.boot := rfl
@[simp] theorem State.setQueue_flash (s : State) (d q : Nat) (x : Queue) : (s.setQueue d q x).flash = s.flash := rfl
@[simp] theorem State.setQueue_sev3 (s : State) (d q : Nat) (x : Queue) : (s.setQueue d q x).sev3 = s.sev3 := rfl
@[simp] theorem State.setQueue_preempts (s : State) (d q : Nat) (x : Queue) : (s.setQueue d q x).preempts = s.preempts := rfl
@[simp] theorem State.setQueue_resetting (s : State) (d q : Nat) (x : Queue) : (s.setQueue d q x).resetting = s.resetting := rfl
@[simp] theorem State.setQueue_images (s : State) (d q : Nat) (x : Queue) : (s.setQueue d q x).images = s.images := rfl
@[simp] theorem State.setQueue_cxlDown (s : State) (d q : Nat) (x : Queue) : (s.setQueue d q x).cxlDown = s.cxlDown := rfl
@[simp] theorem State.setQueue_lost (s : State) (d q : Nat) (x : Queue) : (s.setQueue d q x).lost = s.lost := rfl
@[simp] theorem State.setQueue_lostAnswers (s : State) (d q : Nat) (x : Queue) : (s.setQueue d q x).lostAnswers = s.lostAnswers := rfl
@[simp] theorem State.setQueue_issuer (s : State) (d q : Nat) (x : Queue) : (s.setQueue d q x).issuer = s.issuer := rfl
@[simp] theorem State.setQueue_agenda (s : State) (d q : Nat) (x : Queue) : (s.setQueue d q x).agenda = s.agenda := rfl
@[simp] theorem State.setQueue_slot (s : State) (d q : Nat) (x : Queue) : (s.setQueue d q x).slot = s.slot := rfl
@[simp] theorem State.setQueue_fresh (s : State) (d q : Nat) (x : Queue) : (s.setQueue d q x).fresh = s.fresh := rfl
@[simp] theorem State.setQueue_hostMem (s : State) (d q : Nat) (x : Queue) : (s.setQueue d q x).hostMem = s.hostMem := rfl
@[simp] theorem State.setWarp_warp (s : State) (wp n : Nat) (x : Warp) : (s.setWarp wp x).warp n = if n = wp then x else s.warp n := by
  simp [State.setWarp, State.warp, SMap.look_set]
@[simp] theorem State.setWarp_group (s : State) (wp n : Nat) (x : Warp) : (s.setWarp wp x).group n = s.group n := rfl
@[simp] theorem State.setWarp_core (s : State) (wp n : Nat) (x : Warp) : (s.setWarp wp x).core n = s.core n := rfl
@[simp] theorem State.setWarp_die (s : State) (wp n : Nat) (x : Warp) : (s.setWarp wp x).die n = s.die n := rfl
@[simp] theorem State.setWarp_launch (s : State) (wp n : Nat) (x : Warp) : (s.setWarp wp x).launch n = s.launch n := rfl
@[simp] theorem State.setWarp_queue (s : State) (wp d q : Nat) (x : Warp) : (s.setWarp wp x).queue d q = s.queue d q := rfl
@[simp] theorem State.setGroup_warp (s : State) (g n : Nat) (x : Group) : (s.setGroup g x).warp n = s.warp n := rfl
@[simp] theorem State.setGroup_group (s : State) (g n : Nat) (x : Group) : (s.setGroup g x).group n = if n = g then x else s.group n := by
  simp [State.setGroup, State.group, SMap.look_set]
@[simp] theorem State.setGroup_core (s : State) (g n : Nat) (x : Group) : (s.setGroup g x).core n = s.core n := rfl
@[simp] theorem State.setGroup_die (s : State) (g n : Nat) (x : Group) : (s.setGroup g x).die n = s.die n := rfl
@[simp] theorem State.setGroup_launch (s : State) (g n : Nat) (x : Group) : (s.setGroup g x).launch n = s.launch n := rfl
@[simp] theorem State.setGroup_queue (s : State) (g d q : Nat) (x : Group) : (s.setGroup g x).queue d q = s.queue d q := rfl
@[simp] theorem State.setCore_warp (s : State) (c n : Nat) (x : Core) : (s.setCore c x).warp n = s.warp n := rfl
@[simp] theorem State.setCore_group (s : State) (c n : Nat) (x : Core) : (s.setCore c x).group n = s.group n := rfl
@[simp] theorem State.setCore_core (s : State) (c n : Nat) (x : Core) : (s.setCore c x).core n = if n = c then x else s.core n := by
  simp [State.setCore, State.core, SMap.look_set]
@[simp] theorem State.setCore_die (s : State) (c n : Nat) (x : Core) : (s.setCore c x).die n = s.die n := rfl
@[simp] theorem State.setCore_launch (s : State) (c n : Nat) (x : Core) : (s.setCore c x).launch n = s.launch n := rfl
@[simp] theorem State.setCore_queue (s : State) (c d q : Nat) (x : Core) : (s.setCore c x).queue d q = s.queue d q := rfl
@[simp] theorem State.setDie_warp (s : State) (d n : Nat) (x : Die) : (s.setDie d x).warp n = s.warp n := rfl
@[simp] theorem State.setDie_group (s : State) (d n : Nat) (x : Die) : (s.setDie d x).group n = s.group n := rfl
@[simp] theorem State.setDie_core (s : State) (d n : Nat) (x : Die) : (s.setDie d x).core n = s.core n := rfl
@[simp] theorem State.setDie_die (s : State) (d n : Nat) (x : Die) : (s.setDie d x).die n = if n = d then x else s.die n := by
  simp [State.setDie, State.die, SMap.look_set]
@[simp] theorem State.setDie_launch (s : State) (d n : Nat) (x : Die) : (s.setDie d x).launch n = s.launch n := rfl
@[simp] theorem State.setDie_queue (s : State) (d d q : Nat) (x : Die) : (s.setDie d x).queue d q = s.queue d q := rfl
@[simp] theorem State.setLaunch_warp (s : State) (l n : Nat) (x : Launch) : (s.setLaunch l x).warp n = s.warp n := rfl
@[simp] theorem State.setLaunch_group (s : State) (l n : Nat) (x : Launch) : (s.setLaunch l x).group n = s.group n := rfl
@[simp] theorem State.setLaunch_core (s : State) (l n : Nat) (x : Launch) : (s.setLaunch l x).core n = s.core n := rfl
@[simp] theorem State.setLaunch_die (s : State) (l n : Nat) (x : Launch) : (s.setLaunch l x).die n = s.die n := rfl
@[simp] theorem State.setLaunch_launch (s : State) (l n : Nat) (x : Launch) : (s.setLaunch l x).launch n = if n = l then x else s.launch n := by
  simp [State.setLaunch, State.launch, SMap.look_set]
@[simp] theorem State.setLaunch_queue (s : State) (l d q : Nat) (x : Launch) : (s.setLaunch l x).queue d q = s.queue d q := rfl
@[simp] theorem State.setQueue_warp (s : State) (d q n : Nat) (x : Queue) : (s.setQueue d q x).warp n = s.warp n := rfl
@[simp] theorem State.setQueue_group (s : State) (d q n : Nat) (x : Queue) : (s.setQueue d q x).group n = s.group n := rfl
@[simp] theorem State.setQueue_core (s : State) (d q n : Nat) (x : Queue) : (s.setQueue d q x).core n = s.core n := rfl
@[simp] theorem State.setQueue_die (s : State) (d q n : Nat) (x : Queue) : (s.setQueue d q x).die n = s.die n := rfl
@[simp] theorem State.setQueue_launch (s : State) (d q n : Nat) (x : Queue) : (s.setQueue d q x).launch n = s.launch n := rfl
@[simp] theorem State.setWarp_setWarp (s : State) (wp : Nat) (x y : Warp) : (s.setWarp wp y).setWarp wp x = s.setWarp wp x := by
  simp [State.setWarp]
@[simp] theorem State.setGroup_setGroup (s : State) (g : Nat) (x y : Group) : (s.setGroup g y).setGroup g x = s.setGroup g x := by
  simp [State.setGroup]
@[simp] theorem State.setCore_setCore (s : State) (c : Nat) (x y : Core) : (s.setCore c y).setCore c x = s.setCore c x := by
  simp [State.setCore]
@[simp] theorem State.setDie_setDie (s : State) (d : Nat) (x y : Die) : (s.setDie d y).setDie d x = s.setDie d x := by
  simp [State.setDie]
@[simp] theorem State.setLaunch_setLaunch (s : State) (l : Nat) (x y : Launch) : (s.setLaunch l y).setLaunch l x = s.setLaunch l x := by
  simp [State.setLaunch]

/-! ### A warp -/

@[simp] theorem Warp.setS_v (w : Warp) (n : Nat) (x : Word) : (w.setS n x).v = w.v := rfl
@[simp] theorem Warp.setS_alloc (w : Warp) (n : Nat) (x : Word) : (w.setS n x).alloc = w.alloc := rfl
@[simp] theorem Warp.setS_ar (w : Warp) (n : Nat) (x : Word) : (w.setS n x).ar = w.ar := rfl
@[simp] theorem Warp.setS_kr (w : Warp) (n : Nat) (x : Word) : (w.setS n x).kr = w.kr := rfl
@[simp] theorem Warp.setS_dr (w : Warp) (n : Nat) (x : Word) : (w.setS n x).dr = w.dr := rfl
@[simp] theorem Warp.setS_qr (w : Warp) (n : Nat) (x : Word) : (w.setS n x).qr = w.qr := rfl
@[simp] theorem Warp.setS_y0 (w : Warp) (n : Nat) (x : Word) : (w.setS n x).y0 = w.y0 := rfl
@[simp] theorem Warp.setS_y1 (w : Warp) (n : Nat) (x : Word) : (w.setS n x).y1 = w.y1 := rfl
@[simp] theorem Warp.setS_y2 (w : Warp) (n : Nat) (x : Word) : (w.setS n x).y2 = w.y2 := rfl
@[simp] theorem Warp.setS_y3 (w : Warp) (n : Nat) (x : Word) : (w.setS n x).y3 = w.y3 := rfl
@[simp] theorem Warp.setS_frontier (w : Warp) (n : Nat) (x : Word) : (w.setS n x).frontier = w.frontier := rfl
@[simp] theorem Warp.setS_live (w : Warp) (n : Nat) (x : Word) : (w.setS n x).live = w.live := rfl
@[simp] theorem Warp.setS_cur (w : Warp) (n : Nat) (x : Word) : (w.setS n x).cur = w.cur := rfl
@[simp] theorem Warp.setS_chosen (w : Warp) (n : Nat) (x : Word) : (w.setS n x).chosen = w.chosen := rfl
@[simp] theorem Warp.setS_pos (w : Warp) (n : Nat) (x : Word) : (w.setS n x).pos = w.pos := rfl
@[simp] theorem Warp.setS_headPc (w : Warp) (n : Nat) (x : Word) : (w.setS n x).headPc = w.headPc := rfl
@[simp] theorem Warp.setS_headGen (w : Warp) (n : Nat) (x : Word) : (w.setS n x).headGen = w.headGen := rfl
@[simp] theorem Warp.setS_kwrites (w : Warp) (n : Nat) (x : Word) : (w.setS n x).kwrites = w.kwrites := rfl
@[simp] theorem Warp.setS_gen (w : Warp) (n : Nat) (x : Word) : (w.setS n x).gen = w.gen := rfl
@[simp] theorem Warp.setS_hang (w : Warp) (n : Nat) (x : Word) : (w.setS n x).hang = w.hang := rfl
@[simp] theorem Warp.setS_pend (w : Warp) (n : Nat) (x : Word) : (w.setS n x).pend = w.pend := rfl
@[simp] theorem Warp.setS_sup (w : Warp) (n : Nat) (x : Word) : (w.setS n x).sup = w.sup := rfl
@[simp] theorem Warp.setS_psup (w : Warp) (n : Nat) (x : Word) : (w.setS n x).psup = w.psup := rfl
@[simp] theorem Warp.setS_inh (w : Warp) (n : Nat) (x : Word) : (w.setS n x).inh = w.inh := rfl
@[simp] theorem Warp.setS_itercap (w : Warp) (n : Nat) (x : Word) : (w.setS n x).itercap = w.itercap := rfl
@[simp] theorem Warp.setS_role (w : Warp) (n : Nat) (x : Word) : (w.setS n x).role = w.role := rfl
@[simp] theorem Warp.setS_trapcause (w : Warp) (n : Nat) (x : Word) : (w.setS n x).trapcause = w.trapcause := rfl
@[simp] theorem Warp.setS_trappc (w : Warp) (n : Nat) (x : Word) : (w.setS n x).trappc = w.trappc := rfl
@[simp] theorem Warp.setS_trapinfo (w : Warp) (n : Nat) (x : Word) : (w.setS n x).trapinfo = w.trapinfo := rfl
@[simp] theorem Warp.setS_trapvec (w : Warp) (n : Nat) (x : Word) : (w.setS n x).trapvec = w.trapvec := rfl
@[simp] theorem Warp.setS_tlanes (w : Warp) (n : Nat) (x : Word) : (w.setS n x).tlanes = w.tlanes := rfl
@[simp] theorem Warp.setS_hsave0 (w : Warp) (n : Nat) (x : Word) : (w.setS n x).hsave0 = w.hsave0 := rfl
@[simp] theorem Warp.setS_hsave1 (w : Warp) (n : Nat) (x : Word) : (w.setS n x).hsave1 = w.hsave1 := rfl
@[simp] theorem Warp.setS_pxi (w : Warp) (n : Nat) (x : Word) : (w.setS n x).pxi = w.pxi := rfl
@[simp] theorem Warp.setS_trappxi (w : Warp) (n : Nat) (x : Word) : (w.setS n x).trappxi = w.trappxi := rfl
@[simp] theorem Warp.setS_vtime (w : Warp) (n : Nat) (x : Word) : (w.setS n x).vtime = w.vtime := rfl
@[simp] theorem Warp.setS_vtcmp (w : Warp) (n : Nat) (x : Word) : (w.setS n x).vtcmp = w.vtcmp := rfl
@[simp] theorem Warp.setS_deadline (w : Warp) (n : Nat) (x : Word) : (w.setS n x).deadline = w.deadline := rfl
@[simp] theorem Warp.setS_agelim (w : Warp) (n : Nat) (x : Word) : (w.setS n x).agelim = w.agelim := rfl
@[simp] theorem Warp.setS_fair (w : Warp) (n : Nat) (x : Word) : (w.setS n x).fair = w.fair := rfl
@[simp] theorem Warp.setS_fpmode (w : Warp) (n : Nat) (x : Word) : (w.setS n x).fpmode = w.fpmode := rfl
@[simp] theorem Warp.setS_tokPend (w : Warp) (n : Nat) (x : Word) : (w.setS n x).tokPend = w.tokPend := rfl
@[simp] theorem Warp.setS_carryV (w : Warp) (n : Nat) (x : Word) : (w.setS n x).carryV = w.carryV := rfl
@[simp] theorem Warp.setS_carryS (w : Warp) (n : Nat) (x : Word) : (w.setS n x).carryS = w.carryS := rfl
@[simp] theorem Warp.setS_claim (w : Warp) (n : Nat) (x : Word) : (w.setS n x).claim = w.claim := rfl
@[simp] theorem Warp.setS_block (w : Warp) (n : Nat) (x : Word) : (w.setS n x).block = w.block := rfl
@[simp] theorem Warp.setS_verdict (w : Warp) (n : Nat) (x : Word) : (w.setS n x).verdict = w.verdict := rfl
@[simp] theorem Warp.setS_gather (w : Warp) (n : Nat) (x : Word) : (w.setS n x).gather = w.gather := rfl
@[simp] theorem Warp.setS_grp (w : Warp) (n : Nat) (x : Word) : (w.setS n x).grp = w.grp := rfl
@[simp] theorem Warp.setS_since (w : Warp) (n : Nat) (x : Word) : (w.setS n x).since = w.since := rfl
@[simp] theorem Warp.setA_v (w : Warp) (n : Nat) (x : Addr) : (w.setA n x).v = w.v := rfl
@[simp] theorem Warp.setA_alloc (w : Warp) (n : Nat) (x : Addr) : (w.setA n x).alloc = w.alloc := rfl
@[simp] theorem Warp.setA_sr (w : Warp) (n : Nat) (x : Addr) : (w.setA n x).sr = w.sr := rfl
@[simp] theorem Warp.setA_kr (w : Warp) (n : Nat) (x : Addr) : (w.setA n x).kr = w.kr := rfl
@[simp] theorem Warp.setA_dr (w : Warp) (n : Nat) (x : Addr) : (w.setA n x).dr = w.dr := rfl
@[simp] theorem Warp.setA_qr (w : Warp) (n : Nat) (x : Addr) : (w.setA n x).qr = w.qr := rfl
@[simp] theorem Warp.setA_y0 (w : Warp) (n : Nat) (x : Addr) : (w.setA n x).y0 = w.y0 := rfl
@[simp] theorem Warp.setA_y1 (w : Warp) (n : Nat) (x : Addr) : (w.setA n x).y1 = w.y1 := rfl
@[simp] theorem Warp.setA_y2 (w : Warp) (n : Nat) (x : Addr) : (w.setA n x).y2 = w.y2 := rfl
@[simp] theorem Warp.setA_y3 (w : Warp) (n : Nat) (x : Addr) : (w.setA n x).y3 = w.y3 := rfl
@[simp] theorem Warp.setA_frontier (w : Warp) (n : Nat) (x : Addr) : (w.setA n x).frontier = w.frontier := rfl
@[simp] theorem Warp.setA_live (w : Warp) (n : Nat) (x : Addr) : (w.setA n x).live = w.live := rfl
@[simp] theorem Warp.setA_cur (w : Warp) (n : Nat) (x : Addr) : (w.setA n x).cur = w.cur := rfl
@[simp] theorem Warp.setA_chosen (w : Warp) (n : Nat) (x : Addr) : (w.setA n x).chosen = w.chosen := rfl
@[simp] theorem Warp.setA_pos (w : Warp) (n : Nat) (x : Addr) : (w.setA n x).pos = w.pos := rfl
@[simp] theorem Warp.setA_headPc (w : Warp) (n : Nat) (x : Addr) : (w.setA n x).headPc = w.headPc := rfl
@[simp] theorem Warp.setA_headGen (w : Warp) (n : Nat) (x : Addr) : (w.setA n x).headGen = w.headGen := rfl
@[simp] theorem Warp.setA_kwrites (w : Warp) (n : Nat) (x : Addr) : (w.setA n x).kwrites = w.kwrites := rfl
@[simp] theorem Warp.setA_gen (w : Warp) (n : Nat) (x : Addr) : (w.setA n x).gen = w.gen := rfl
@[simp] theorem Warp.setA_hang (w : Warp) (n : Nat) (x : Addr) : (w.setA n x).hang = w.hang := rfl
@[simp] theorem Warp.setA_pend (w : Warp) (n : Nat) (x : Addr) : (w.setA n x).pend = w.pend := rfl
@[simp] theorem Warp.setA_sup (w : Warp) (n : Nat) (x : Addr) : (w.setA n x).sup = w.sup := rfl
@[simp] theorem Warp.setA_psup (w : Warp) (n : Nat) (x : Addr) : (w.setA n x).psup = w.psup := rfl
@[simp] theorem Warp.setA_inh (w : Warp) (n : Nat) (x : Addr) : (w.setA n x).inh = w.inh := rfl
@[simp] theorem Warp.setA_itercap (w : Warp) (n : Nat) (x : Addr) : (w.setA n x).itercap = w.itercap := rfl
@[simp] theorem Warp.setA_role (w : Warp) (n : Nat) (x : Addr) : (w.setA n x).role = w.role := rfl
@[simp] theorem Warp.setA_trapcause (w : Warp) (n : Nat) (x : Addr) : (w.setA n x).trapcause = w.trapcause := rfl
@[simp] theorem Warp.setA_trappc (w : Warp) (n : Nat) (x : Addr) : (w.setA n x).trappc = w.trappc := rfl
@[simp] theorem Warp.setA_trapinfo (w : Warp) (n : Nat) (x : Addr) : (w.setA n x).trapinfo = w.trapinfo := rfl
@[simp] theorem Warp.setA_trapvec (w : Warp) (n : Nat) (x : Addr) : (w.setA n x).trapvec = w.trapvec := rfl
@[simp] theorem Warp.setA_tlanes (w : Warp) (n : Nat) (x : Addr) : (w.setA n x).tlanes = w.tlanes := rfl
@[simp] theorem Warp.setA_hsave0 (w : Warp) (n : Nat) (x : Addr) : (w.setA n x).hsave0 = w.hsave0 := rfl
@[simp] theorem Warp.setA_hsave1 (w : Warp) (n : Nat) (x : Addr) : (w.setA n x).hsave1 = w.hsave1 := rfl
@[simp] theorem Warp.setA_pxi (w : Warp) (n : Nat) (x : Addr) : (w.setA n x).pxi = w.pxi := rfl
@[simp] theorem Warp.setA_trappxi (w : Warp) (n : Nat) (x : Addr) : (w.setA n x).trappxi = w.trappxi := rfl
@[simp] theorem Warp.setA_vtime (w : Warp) (n : Nat) (x : Addr) : (w.setA n x).vtime = w.vtime := rfl
@[simp] theorem Warp.setA_vtcmp (w : Warp) (n : Nat) (x : Addr) : (w.setA n x).vtcmp = w.vtcmp := rfl
@[simp] theorem Warp.setA_deadline (w : Warp) (n : Nat) (x : Addr) : (w.setA n x).deadline = w.deadline := rfl
@[simp] theorem Warp.setA_agelim (w : Warp) (n : Nat) (x : Addr) : (w.setA n x).agelim = w.agelim := rfl
@[simp] theorem Warp.setA_fair (w : Warp) (n : Nat) (x : Addr) : (w.setA n x).fair = w.fair := rfl
@[simp] theorem Warp.setA_fpmode (w : Warp) (n : Nat) (x : Addr) : (w.setA n x).fpmode = w.fpmode := rfl
@[simp] theorem Warp.setA_tokPend (w : Warp) (n : Nat) (x : Addr) : (w.setA n x).tokPend = w.tokPend := rfl
@[simp] theorem Warp.setA_tokTag (w : Warp) (n : Nat) (x : Addr) : (w.setA n x).tokTag = w.tokTag := rfl
@[simp] theorem Warp.setA_carryV (w : Warp) (n : Nat) (x : Addr) : (w.setA n x).carryV = w.carryV := rfl
@[simp] theorem Warp.setA_carryS (w : Warp) (n : Nat) (x : Addr) : (w.setA n x).carryS = w.carryS := rfl
@[simp] theorem Warp.setA_claim (w : Warp) (n : Nat) (x : Addr) : (w.setA n x).claim = w.claim := rfl
@[simp] theorem Warp.setA_block (w : Warp) (n : Nat) (x : Addr) : (w.setA n x).block = w.block := rfl
@[simp] theorem Warp.setA_verdict (w : Warp) (n : Nat) (x : Addr) : (w.setA n x).verdict = w.verdict := rfl
@[simp] theorem Warp.setA_gather (w : Warp) (n : Nat) (x : Addr) : (w.setA n x).gather = w.gather := rfl
@[simp] theorem Warp.setA_grp (w : Warp) (n : Nat) (x : Addr) : (w.setA n x).grp = w.grp := rfl
@[simp] theorem Warp.setA_since (w : Warp) (n : Nat) (x : Addr) : (w.setA n x).since = w.since := rfl
@[simp] theorem Warp.setD_v (w : Warp) (n : Nat) (x : BitVec 128) : (w.setD n x).v = w.v := rfl
@[simp] theorem Warp.setD_alloc (w : Warp) (n : Nat) (x : BitVec 128) : (w.setD n x).alloc = w.alloc := rfl
@[simp] theorem Warp.setD_sr (w : Warp) (n : Nat) (x : BitVec 128) : (w.setD n x).sr = w.sr := rfl
@[simp] theorem Warp.setD_ar (w : Warp) (n : Nat) (x : BitVec 128) : (w.setD n x).ar = w.ar := rfl
@[simp] theorem Warp.setD_kr (w : Warp) (n : Nat) (x : BitVec 128) : (w.setD n x).kr = w.kr := rfl
@[simp] theorem Warp.setD_qr (w : Warp) (n : Nat) (x : BitVec 128) : (w.setD n x).qr = w.qr := rfl
@[simp] theorem Warp.setD_y0 (w : Warp) (n : Nat) (x : BitVec 128) : (w.setD n x).y0 = w.y0 := rfl
@[simp] theorem Warp.setD_y1 (w : Warp) (n : Nat) (x : BitVec 128) : (w.setD n x).y1 = w.y1 := rfl
@[simp] theorem Warp.setD_y2 (w : Warp) (n : Nat) (x : BitVec 128) : (w.setD n x).y2 = w.y2 := rfl
@[simp] theorem Warp.setD_y3 (w : Warp) (n : Nat) (x : BitVec 128) : (w.setD n x).y3 = w.y3 := rfl
@[simp] theorem Warp.setD_frontier (w : Warp) (n : Nat) (x : BitVec 128) : (w.setD n x).frontier = w.frontier := rfl
@[simp] theorem Warp.setD_live (w : Warp) (n : Nat) (x : BitVec 128) : (w.setD n x).live = w.live := rfl
@[simp] theorem Warp.setD_cur (w : Warp) (n : Nat) (x : BitVec 128) : (w.setD n x).cur = w.cur := rfl
@[simp] theorem Warp.setD_chosen (w : Warp) (n : Nat) (x : BitVec 128) : (w.setD n x).chosen = w.chosen := rfl
@[simp] theorem Warp.setD_pos (w : Warp) (n : Nat) (x : BitVec 128) : (w.setD n x).pos = w.pos := rfl
@[simp] theorem Warp.setD_headPc (w : Warp) (n : Nat) (x : BitVec 128) : (w.setD n x).headPc = w.headPc := rfl
@[simp] theorem Warp.setD_headGen (w : Warp) (n : Nat) (x : BitVec 128) : (w.setD n x).headGen = w.headGen := rfl
@[simp] theorem Warp.setD_kwrites (w : Warp) (n : Nat) (x : BitVec 128) : (w.setD n x).kwrites = w.kwrites := rfl
@[simp] theorem Warp.setD_gen (w : Warp) (n : Nat) (x : BitVec 128) : (w.setD n x).gen = w.gen := rfl
@[simp] theorem Warp.setD_hang (w : Warp) (n : Nat) (x : BitVec 128) : (w.setD n x).hang = w.hang := rfl
@[simp] theorem Warp.setD_pend (w : Warp) (n : Nat) (x : BitVec 128) : (w.setD n x).pend = w.pend := rfl
@[simp] theorem Warp.setD_sup (w : Warp) (n : Nat) (x : BitVec 128) : (w.setD n x).sup = w.sup := rfl
@[simp] theorem Warp.setD_psup (w : Warp) (n : Nat) (x : BitVec 128) : (w.setD n x).psup = w.psup := rfl
@[simp] theorem Warp.setD_inh (w : Warp) (n : Nat) (x : BitVec 128) : (w.setD n x).inh = w.inh := rfl
@[simp] theorem Warp.setD_itercap (w : Warp) (n : Nat) (x : BitVec 128) : (w.setD n x).itercap = w.itercap := rfl
@[simp] theorem Warp.setD_role (w : Warp) (n : Nat) (x : BitVec 128) : (w.setD n x).role = w.role := rfl
@[simp] theorem Warp.setD_trapcause (w : Warp) (n : Nat) (x : BitVec 128) : (w.setD n x).trapcause = w.trapcause := rfl
@[simp] theorem Warp.setD_trappc (w : Warp) (n : Nat) (x : BitVec 128) : (w.setD n x).trappc = w.trappc := rfl
@[simp] theorem Warp.setD_trapinfo (w : Warp) (n : Nat) (x : BitVec 128) : (w.setD n x).trapinfo = w.trapinfo := rfl
@[simp] theorem Warp.setD_trapvec (w : Warp) (n : Nat) (x : BitVec 128) : (w.setD n x).trapvec = w.trapvec := rfl
@[simp] theorem Warp.setD_tlanes (w : Warp) (n : Nat) (x : BitVec 128) : (w.setD n x).tlanes = w.tlanes := rfl
@[simp] theorem Warp.setD_hsave0 (w : Warp) (n : Nat) (x : BitVec 128) : (w.setD n x).hsave0 = w.hsave0 := rfl
@[simp] theorem Warp.setD_hsave1 (w : Warp) (n : Nat) (x : BitVec 128) : (w.setD n x).hsave1 = w.hsave1 := rfl
@[simp] theorem Warp.setD_pxi (w : Warp) (n : Nat) (x : BitVec 128) : (w.setD n x).pxi = w.pxi := rfl
@[simp] theorem Warp.setD_trappxi (w : Warp) (n : Nat) (x : BitVec 128) : (w.setD n x).trappxi = w.trappxi := rfl
@[simp] theorem Warp.setD_vtime (w : Warp) (n : Nat) (x : BitVec 128) : (w.setD n x).vtime = w.vtime := rfl
@[simp] theorem Warp.setD_vtcmp (w : Warp) (n : Nat) (x : BitVec 128) : (w.setD n x).vtcmp = w.vtcmp := rfl
@[simp] theorem Warp.setD_deadline (w : Warp) (n : Nat) (x : BitVec 128) : (w.setD n x).deadline = w.deadline := rfl
@[simp] theorem Warp.setD_agelim (w : Warp) (n : Nat) (x : BitVec 128) : (w.setD n x).agelim = w.agelim := rfl
@[simp] theorem Warp.setD_fair (w : Warp) (n : Nat) (x : BitVec 128) : (w.setD n x).fair = w.fair := rfl
@[simp] theorem Warp.setD_fpmode (w : Warp) (n : Nat) (x : BitVec 128) : (w.setD n x).fpmode = w.fpmode := rfl
@[simp] theorem Warp.setD_tokPend (w : Warp) (n : Nat) (x : BitVec 128) : (w.setD n x).tokPend = w.tokPend := rfl
@[simp] theorem Warp.setD_tokTag (w : Warp) (n : Nat) (x : BitVec 128) : (w.setD n x).tokTag = w.tokTag := rfl
@[simp] theorem Warp.setD_carryV (w : Warp) (n : Nat) (x : BitVec 128) : (w.setD n x).carryV = w.carryV := rfl
@[simp] theorem Warp.setD_carryS (w : Warp) (n : Nat) (x : BitVec 128) : (w.setD n x).carryS = w.carryS := rfl
@[simp] theorem Warp.setD_claim (w : Warp) (n : Nat) (x : BitVec 128) : (w.setD n x).claim = w.claim := rfl
@[simp] theorem Warp.setD_block (w : Warp) (n : Nat) (x : BitVec 128) : (w.setD n x).block = w.block := rfl
@[simp] theorem Warp.setD_verdict (w : Warp) (n : Nat) (x : BitVec 128) : (w.setD n x).verdict = w.verdict := rfl
@[simp] theorem Warp.setD_gather (w : Warp) (n : Nat) (x : BitVec 128) : (w.setD n x).gather = w.gather := rfl
@[simp] theorem Warp.setD_grp (w : Warp) (n : Nat) (x : BitVec 128) : (w.setD n x).grp = w.grp := rfl
@[simp] theorem Warp.setD_since (w : Warp) (n : Nat) (x : BitVec 128) : (w.setD n x).since = w.since := rfl
@[simp] theorem Warp.setQ_v (w : Warp) (n : Nat) (x : Lane) : (w.setQ n x).v = w.v := rfl
@[simp] theorem Warp.setQ_alloc (w : Warp) (n : Nat) (x : Lane) : (w.setQ n x).alloc = w.alloc := rfl
@[simp] theorem Warp.setQ_sr (w : Warp) (n : Nat) (x : Lane) : (w.setQ n x).sr = w.sr := rfl
@[simp] theorem Warp.setQ_ar (w : Warp) (n : Nat) (x : Lane) : (w.setQ n x).ar = w.ar := rfl
@[simp] theorem Warp.setQ_kr (w : Warp) (n : Nat) (x : Lane) : (w.setQ n x).kr = w.kr := rfl
@[simp] theorem Warp.setQ_dr (w : Warp) (n : Nat) (x : Lane) : (w.setQ n x).dr = w.dr := rfl
@[simp] theorem Warp.setQ_y0 (w : Warp) (n : Nat) (x : Lane) : (w.setQ n x).y0 = w.y0 := rfl
@[simp] theorem Warp.setQ_y1 (w : Warp) (n : Nat) (x : Lane) : (w.setQ n x).y1 = w.y1 := rfl
@[simp] theorem Warp.setQ_y2 (w : Warp) (n : Nat) (x : Lane) : (w.setQ n x).y2 = w.y2 := rfl
@[simp] theorem Warp.setQ_y3 (w : Warp) (n : Nat) (x : Lane) : (w.setQ n x).y3 = w.y3 := rfl
@[simp] theorem Warp.setQ_frontier (w : Warp) (n : Nat) (x : Lane) : (w.setQ n x).frontier = w.frontier := rfl
@[simp] theorem Warp.setQ_live (w : Warp) (n : Nat) (x : Lane) : (w.setQ n x).live = w.live := rfl
@[simp] theorem Warp.setQ_cur (w : Warp) (n : Nat) (x : Lane) : (w.setQ n x).cur = w.cur := rfl
@[simp] theorem Warp.setQ_chosen (w : Warp) (n : Nat) (x : Lane) : (w.setQ n x).chosen = w.chosen := rfl
@[simp] theorem Warp.setQ_pos (w : Warp) (n : Nat) (x : Lane) : (w.setQ n x).pos = w.pos := rfl
@[simp] theorem Warp.setQ_headPc (w : Warp) (n : Nat) (x : Lane) : (w.setQ n x).headPc = w.headPc := rfl
@[simp] theorem Warp.setQ_headGen (w : Warp) (n : Nat) (x : Lane) : (w.setQ n x).headGen = w.headGen := rfl
@[simp] theorem Warp.setQ_kwrites (w : Warp) (n : Nat) (x : Lane) : (w.setQ n x).kwrites = w.kwrites := rfl
@[simp] theorem Warp.setQ_gen (w : Warp) (n : Nat) (x : Lane) : (w.setQ n x).gen = w.gen := rfl
@[simp] theorem Warp.setQ_hang (w : Warp) (n : Nat) (x : Lane) : (w.setQ n x).hang = w.hang := rfl
@[simp] theorem Warp.setQ_pend (w : Warp) (n : Nat) (x : Lane) : (w.setQ n x).pend = w.pend := rfl
@[simp] theorem Warp.setQ_sup (w : Warp) (n : Nat) (x : Lane) : (w.setQ n x).sup = w.sup := rfl
@[simp] theorem Warp.setQ_psup (w : Warp) (n : Nat) (x : Lane) : (w.setQ n x).psup = w.psup := rfl
@[simp] theorem Warp.setQ_inh (w : Warp) (n : Nat) (x : Lane) : (w.setQ n x).inh = w.inh := rfl
@[simp] theorem Warp.setQ_itercap (w : Warp) (n : Nat) (x : Lane) : (w.setQ n x).itercap = w.itercap := rfl
@[simp] theorem Warp.setQ_role (w : Warp) (n : Nat) (x : Lane) : (w.setQ n x).role = w.role := rfl
@[simp] theorem Warp.setQ_trapcause (w : Warp) (n : Nat) (x : Lane) : (w.setQ n x).trapcause = w.trapcause := rfl
@[simp] theorem Warp.setQ_trappc (w : Warp) (n : Nat) (x : Lane) : (w.setQ n x).trappc = w.trappc := rfl
@[simp] theorem Warp.setQ_trapinfo (w : Warp) (n : Nat) (x : Lane) : (w.setQ n x).trapinfo = w.trapinfo := rfl
@[simp] theorem Warp.setQ_trapvec (w : Warp) (n : Nat) (x : Lane) : (w.setQ n x).trapvec = w.trapvec := rfl
@[simp] theorem Warp.setQ_tlanes (w : Warp) (n : Nat) (x : Lane) : (w.setQ n x).tlanes = w.tlanes := rfl
@[simp] theorem Warp.setQ_hsave0 (w : Warp) (n : Nat) (x : Lane) : (w.setQ n x).hsave0 = w.hsave0 := rfl
@[simp] theorem Warp.setQ_hsave1 (w : Warp) (n : Nat) (x : Lane) : (w.setQ n x).hsave1 = w.hsave1 := rfl
@[simp] theorem Warp.setQ_pxi (w : Warp) (n : Nat) (x : Lane) : (w.setQ n x).pxi = w.pxi := rfl
@[simp] theorem Warp.setQ_trappxi (w : Warp) (n : Nat) (x : Lane) : (w.setQ n x).trappxi = w.trappxi := rfl
@[simp] theorem Warp.setQ_vtime (w : Warp) (n : Nat) (x : Lane) : (w.setQ n x).vtime = w.vtime := rfl
@[simp] theorem Warp.setQ_vtcmp (w : Warp) (n : Nat) (x : Lane) : (w.setQ n x).vtcmp = w.vtcmp := rfl
@[simp] theorem Warp.setQ_deadline (w : Warp) (n : Nat) (x : Lane) : (w.setQ n x).deadline = w.deadline := rfl
@[simp] theorem Warp.setQ_agelim (w : Warp) (n : Nat) (x : Lane) : (w.setQ n x).agelim = w.agelim := rfl
@[simp] theorem Warp.setQ_fair (w : Warp) (n : Nat) (x : Lane) : (w.setQ n x).fair = w.fair := rfl
@[simp] theorem Warp.setQ_fpmode (w : Warp) (n : Nat) (x : Lane) : (w.setQ n x).fpmode = w.fpmode := rfl
@[simp] theorem Warp.setQ_tokPend (w : Warp) (n : Nat) (x : Lane) : (w.setQ n x).tokPend = w.tokPend := rfl
@[simp] theorem Warp.setQ_tokTag (w : Warp) (n : Nat) (x : Lane) : (w.setQ n x).tokTag = w.tokTag := rfl
@[simp] theorem Warp.setQ_carryV (w : Warp) (n : Nat) (x : Lane) : (w.setQ n x).carryV = w.carryV := rfl
@[simp] theorem Warp.setQ_carryS (w : Warp) (n : Nat) (x : Lane) : (w.setQ n x).carryS = w.carryS := rfl
@[simp] theorem Warp.setQ_claim (w : Warp) (n : Nat) (x : Lane) : (w.setQ n x).claim = w.claim := rfl
@[simp] theorem Warp.setQ_block (w : Warp) (n : Nat) (x : Lane) : (w.setQ n x).block = w.block := rfl
@[simp] theorem Warp.setQ_verdict (w : Warp) (n : Nat) (x : Lane) : (w.setQ n x).verdict = w.verdict := rfl
@[simp] theorem Warp.setQ_gather (w : Warp) (n : Nat) (x : Lane) : (w.setQ n x).gather = w.gather := rfl
@[simp] theorem Warp.setQ_grp (w : Warp) (n : Nat) (x : Lane) : (w.setQ n x).grp = w.grp := rfl
@[simp] theorem Warp.setQ_since (w : Warp) (n : Nat) (x : Lane) : (w.setQ n x).since = w.since := rfl
@[simp] theorem Warp.setV_alloc (w : Warp) (n : Nat) (m : Mask) (f : Nat → Lane) : (w.setV n m f).alloc = w.alloc := rfl
@[simp] theorem Warp.setV_sr (w : Warp) (n : Nat) (m : Mask) (f : Nat → Lane) : (w.setV n m f).sr = w.sr := rfl
@[simp] theorem Warp.setV_ar (w : Warp) (n : Nat) (m : Mask) (f : Nat → Lane) : (w.setV n m f).ar = w.ar := rfl
@[simp] theorem Warp.setV_kr (w : Warp) (n : Nat) (m : Mask) (f : Nat → Lane) : (w.setV n m f).kr = w.kr := rfl
@[simp] theorem Warp.setV_dr (w : Warp) (n : Nat) (m : Mask) (f : Nat → Lane) : (w.setV n m f).dr = w.dr := rfl
@[simp] theorem Warp.setV_qr (w : Warp) (n : Nat) (m : Mask) (f : Nat → Lane) : (w.setV n m f).qr = w.qr := rfl
@[simp] theorem Warp.setV_y0 (w : Warp) (n : Nat) (m : Mask) (f : Nat → Lane) : (w.setV n m f).y0 = w.y0 := rfl
@[simp] theorem Warp.setV_y1 (w : Warp) (n : Nat) (m : Mask) (f : Nat → Lane) : (w.setV n m f).y1 = w.y1 := rfl
@[simp] theorem Warp.setV_y2 (w : Warp) (n : Nat) (m : Mask) (f : Nat → Lane) : (w.setV n m f).y2 = w.y2 := rfl
@[simp] theorem Warp.setV_y3 (w : Warp) (n : Nat) (m : Mask) (f : Nat → Lane) : (w.setV n m f).y3 = w.y3 := rfl
@[simp] theorem Warp.setV_frontier (w : Warp) (n : Nat) (m : Mask) (f : Nat → Lane) : (w.setV n m f).frontier = w.frontier := rfl
@[simp] theorem Warp.setV_live (w : Warp) (n : Nat) (m : Mask) (f : Nat → Lane) : (w.setV n m f).live = w.live := rfl
@[simp] theorem Warp.setV_cur (w : Warp) (n : Nat) (m : Mask) (f : Nat → Lane) : (w.setV n m f).cur = w.cur := rfl
@[simp] theorem Warp.setV_chosen (w : Warp) (n : Nat) (m : Mask) (f : Nat → Lane) : (w.setV n m f).chosen = w.chosen := rfl
@[simp] theorem Warp.setV_pos (w : Warp) (n : Nat) (m : Mask) (f : Nat → Lane) : (w.setV n m f).pos = w.pos := rfl
@[simp] theorem Warp.setV_headPc (w : Warp) (n : Nat) (m : Mask) (f : Nat → Lane) : (w.setV n m f).headPc = w.headPc := rfl
@[simp] theorem Warp.setV_headGen (w : Warp) (n : Nat) (m : Mask) (f : Nat → Lane) : (w.setV n m f).headGen = w.headGen := rfl
@[simp] theorem Warp.setV_kwrites (w : Warp) (n : Nat) (m : Mask) (f : Nat → Lane) : (w.setV n m f).kwrites = w.kwrites := rfl
@[simp] theorem Warp.setV_gen (w : Warp) (n : Nat) (m : Mask) (f : Nat → Lane) : (w.setV n m f).gen = w.gen := rfl
@[simp] theorem Warp.setV_hang (w : Warp) (n : Nat) (m : Mask) (f : Nat → Lane) : (w.setV n m f).hang = w.hang := rfl
@[simp] theorem Warp.setV_pend (w : Warp) (n : Nat) (m : Mask) (f : Nat → Lane) : (w.setV n m f).pend = w.pend := rfl
@[simp] theorem Warp.setV_sup (w : Warp) (n : Nat) (m : Mask) (f : Nat → Lane) : (w.setV n m f).sup = w.sup := rfl
@[simp] theorem Warp.setV_psup (w : Warp) (n : Nat) (m : Mask) (f : Nat → Lane) : (w.setV n m f).psup = w.psup := rfl
@[simp] theorem Warp.setV_inh (w : Warp) (n : Nat) (m : Mask) (f : Nat → Lane) : (w.setV n m f).inh = w.inh := rfl
@[simp] theorem Warp.setV_itercap (w : Warp) (n : Nat) (m : Mask) (f : Nat → Lane) : (w.setV n m f).itercap = w.itercap := rfl
@[simp] theorem Warp.setV_role (w : Warp) (n : Nat) (m : Mask) (f : Nat → Lane) : (w.setV n m f).role = w.role := rfl
@[simp] theorem Warp.setV_trapcause (w : Warp) (n : Nat) (m : Mask) (f : Nat → Lane) : (w.setV n m f).trapcause = w.trapcause := rfl
@[simp] theorem Warp.setV_trappc (w : Warp) (n : Nat) (m : Mask) (f : Nat → Lane) : (w.setV n m f).trappc = w.trappc := rfl
@[simp] theorem Warp.setV_trapinfo (w : Warp) (n : Nat) (m : Mask) (f : Nat → Lane) : (w.setV n m f).trapinfo = w.trapinfo := rfl
@[simp] theorem Warp.setV_trapvec (w : Warp) (n : Nat) (m : Mask) (f : Nat → Lane) : (w.setV n m f).trapvec = w.trapvec := rfl
@[simp] theorem Warp.setV_tlanes (w : Warp) (n : Nat) (m : Mask) (f : Nat → Lane) : (w.setV n m f).tlanes = w.tlanes := rfl
@[simp] theorem Warp.setV_hsave0 (w : Warp) (n : Nat) (m : Mask) (f : Nat → Lane) : (w.setV n m f).hsave0 = w.hsave0 := rfl
@[simp] theorem Warp.setV_hsave1 (w : Warp) (n : Nat) (m : Mask) (f : Nat → Lane) : (w.setV n m f).hsave1 = w.hsave1 := rfl
@[simp] theorem Warp.setV_pxi (w : Warp) (n : Nat) (m : Mask) (f : Nat → Lane) : (w.setV n m f).pxi = w.pxi := rfl
@[simp] theorem Warp.setV_trappxi (w : Warp) (n : Nat) (m : Mask) (f : Nat → Lane) : (w.setV n m f).trappxi = w.trappxi := rfl
@[simp] theorem Warp.setV_vtime (w : Warp) (n : Nat) (m : Mask) (f : Nat → Lane) : (w.setV n m f).vtime = w.vtime := rfl
@[simp] theorem Warp.setV_vtcmp (w : Warp) (n : Nat) (m : Mask) (f : Nat → Lane) : (w.setV n m f).vtcmp = w.vtcmp := rfl
@[simp] theorem Warp.setV_deadline (w : Warp) (n : Nat) (m : Mask) (f : Nat → Lane) : (w.setV n m f).deadline = w.deadline := rfl
@[simp] theorem Warp.setV_agelim (w : Warp) (n : Nat) (m : Mask) (f : Nat → Lane) : (w.setV n m f).agelim = w.agelim := rfl
@[simp] theorem Warp.setV_fair (w : Warp) (n : Nat) (m : Mask) (f : Nat → Lane) : (w.setV n m f).fair = w.fair := rfl
@[simp] theorem Warp.setV_fpmode (w : Warp) (n : Nat) (m : Mask) (f : Nat → Lane) : (w.setV n m f).fpmode = w.fpmode := rfl
@[simp] theorem Warp.setV_tokPend (w : Warp) (n : Nat) (m : Mask) (f : Nat → Lane) : (w.setV n m f).tokPend = w.tokPend := rfl
@[simp] theorem Warp.setV_tokTag (w : Warp) (n : Nat) (m : Mask) (f : Nat → Lane) : (w.setV n m f).tokTag = w.tokTag := rfl
@[simp] theorem Warp.setV_carryV (w : Warp) (n : Nat) (m : Mask) (f : Nat → Lane) : (w.setV n m f).carryV = w.carryV := rfl
@[simp] theorem Warp.setV_carryS (w : Warp) (n : Nat) (m : Mask) (f : Nat → Lane) : (w.setV n m f).carryS = w.carryS := rfl
@[simp] theorem Warp.setV_claim (w : Warp) (n : Nat) (m : Mask) (f : Nat → Lane) : (w.setV n m f).claim = w.claim := rfl
@[simp] theorem Warp.setV_block (w : Warp) (n : Nat) (m : Mask) (f : Nat → Lane) : (w.setV n m f).block = w.block := rfl
@[simp] theorem Warp.setV_verdict (w : Warp) (n : Nat) (m : Mask) (f : Nat → Lane) : (w.setV n m f).verdict = w.verdict := rfl
@[simp] theorem Warp.setV_gather (w : Warp) (n : Nat) (m : Mask) (f : Nat → Lane) : (w.setV n m f).gather = w.gather := rfl
@[simp] theorem Warp.setV_grp (w : Warp) (n : Nat) (m : Mask) (f : Nat → Lane) : (w.setV n m f).grp = w.grp := rfl
@[simp] theorem Warp.setV_since (w : Warp) (n : Nat) (m : Mask) (f : Nat → Lane) : (w.setV n m f).since = w.since := rfl
@[simp] theorem Warp.shiftLatches_v (w : Warp) (y : Option Latch) : (w.shiftLatches y).v = w.v := rfl
@[simp] theorem Warp.shiftLatches_alloc (w : Warp) (y : Option Latch) : (w.shiftLatches y).alloc = w.alloc := rfl
@[simp] theorem Warp.shiftLatches_sr (w : Warp) (y : Option Latch) : (w.shiftLatches y).sr = w.sr := rfl
@[simp] theorem Warp.shiftLatches_ar (w : Warp) (y : Option Latch) : (w.shiftLatches y).ar = w.ar := rfl
@[simp] theorem Warp.shiftLatches_kr (w : Warp) (y : Option Latch) : (w.shiftLatches y).kr = w.kr := rfl
@[simp] theorem Warp.shiftLatches_dr (w : Warp) (y : Option Latch) : (w.shiftLatches y).dr = w.dr := rfl
@[simp] theorem Warp.shiftLatches_qr (w : Warp) (y : Option Latch) : (w.shiftLatches y).qr = w.qr := rfl
@[simp] theorem Warp.shiftLatches_frontier (w : Warp) (y : Option Latch) : (w.shiftLatches y).frontier = w.frontier := rfl
@[simp] theorem Warp.shiftLatches_live (w : Warp) (y : Option Latch) : (w.shiftLatches y).live = w.live := rfl
@[simp] theorem Warp.shiftLatches_cur (w : Warp) (y : Option Latch) : (w.shiftLatches y).cur = w.cur := rfl
@[simp] theorem Warp.shiftLatches_chosen (w : Warp) (y : Option Latch) : (w.shiftLatches y).chosen = w.chosen := rfl
@[simp] theorem Warp.shiftLatches_pos (w : Warp) (y : Option Latch) : (w.shiftLatches y).pos = w.pos := rfl
@[simp] theorem Warp.shiftLatches_headPc (w : Warp) (y : Option Latch) : (w.shiftLatches y).headPc = w.headPc := rfl
@[simp] theorem Warp.shiftLatches_headGen (w : Warp) (y : Option Latch) : (w.shiftLatches y).headGen = w.headGen := rfl
@[simp] theorem Warp.shiftLatches_kwrites (w : Warp) (y : Option Latch) : (w.shiftLatches y).kwrites = w.kwrites := rfl
@[simp] theorem Warp.shiftLatches_gen (w : Warp) (y : Option Latch) : (w.shiftLatches y).gen = w.gen := rfl
@[simp] theorem Warp.shiftLatches_hang (w : Warp) (y : Option Latch) : (w.shiftLatches y).hang = w.hang := rfl
@[simp] theorem Warp.shiftLatches_pend (w : Warp) (y : Option Latch) : (w.shiftLatches y).pend = w.pend := rfl
@[simp] theorem Warp.shiftLatches_sup (w : Warp) (y : Option Latch) : (w.shiftLatches y).sup = w.sup := rfl
@[simp] theorem Warp.shiftLatches_psup (w : Warp) (y : Option Latch) : (w.shiftLatches y).psup = w.psup := rfl
@[simp] theorem Warp.shiftLatches_inh (w : Warp) (y : Option Latch) : (w.shiftLatches y).inh = w.inh := rfl
@[simp] theorem Warp.shiftLatches_itercap (w : Warp) (y : Option Latch) : (w.shiftLatches y).itercap = w.itercap := rfl
@[simp] theorem Warp.shiftLatches_role (w : Warp) (y : Option Latch) : (w.shiftLatches y).role = w.role := rfl
@[simp] theorem Warp.shiftLatches_trapcause (w : Warp) (y : Option Latch) : (w.shiftLatches y).trapcause = w.trapcause := rfl
@[simp] theorem Warp.shiftLatches_trappc (w : Warp) (y : Option Latch) : (w.shiftLatches y).trappc = w.trappc := rfl
@[simp] theorem Warp.shiftLatches_trapinfo (w : Warp) (y : Option Latch) : (w.shiftLatches y).trapinfo = w.trapinfo := rfl
@[simp] theorem Warp.shiftLatches_trapvec (w : Warp) (y : Option Latch) : (w.shiftLatches y).trapvec = w.trapvec := rfl
@[simp] theorem Warp.shiftLatches_tlanes (w : Warp) (y : Option Latch) : (w.shiftLatches y).tlanes = w.tlanes := rfl
@[simp] theorem Warp.shiftLatches_hsave0 (w : Warp) (y : Option Latch) : (w.shiftLatches y).hsave0 = w.hsave0 := rfl
@[simp] theorem Warp.shiftLatches_hsave1 (w : Warp) (y : Option Latch) : (w.shiftLatches y).hsave1 = w.hsave1 := rfl
@[simp] theorem Warp.shiftLatches_pxi (w : Warp) (y : Option Latch) : (w.shiftLatches y).pxi = w.pxi := rfl
@[simp] theorem Warp.shiftLatches_trappxi (w : Warp) (y : Option Latch) : (w.shiftLatches y).trappxi = w.trappxi := rfl
@[simp] theorem Warp.shiftLatches_vtime (w : Warp) (y : Option Latch) : (w.shiftLatches y).vtime = w.vtime := rfl
@[simp] theorem Warp.shiftLatches_vtcmp (w : Warp) (y : Option Latch) : (w.shiftLatches y).vtcmp = w.vtcmp := rfl
@[simp] theorem Warp.shiftLatches_deadline (w : Warp) (y : Option Latch) : (w.shiftLatches y).deadline = w.deadline := rfl
@[simp] theorem Warp.shiftLatches_agelim (w : Warp) (y : Option Latch) : (w.shiftLatches y).agelim = w.agelim := rfl
@[simp] theorem Warp.shiftLatches_fair (w : Warp) (y : Option Latch) : (w.shiftLatches y).fair = w.fair := rfl
@[simp] theorem Warp.shiftLatches_fpmode (w : Warp) (y : Option Latch) : (w.shiftLatches y).fpmode = w.fpmode := rfl
@[simp] theorem Warp.shiftLatches_tokPend (w : Warp) (y : Option Latch) : (w.shiftLatches y).tokPend = w.tokPend := rfl
@[simp] theorem Warp.shiftLatches_tokTag (w : Warp) (y : Option Latch) : (w.shiftLatches y).tokTag = w.tokTag := rfl
@[simp] theorem Warp.shiftLatches_carryV (w : Warp) (y : Option Latch) : (w.shiftLatches y).carryV = w.carryV := rfl
@[simp] theorem Warp.shiftLatches_carryS (w : Warp) (y : Option Latch) : (w.shiftLatches y).carryS = w.carryS := rfl
@[simp] theorem Warp.shiftLatches_claim (w : Warp) (y : Option Latch) : (w.shiftLatches y).claim = w.claim := rfl
@[simp] theorem Warp.shiftLatches_block (w : Warp) (y : Option Latch) : (w.shiftLatches y).block = w.block := rfl
@[simp] theorem Warp.shiftLatches_verdict (w : Warp) (y : Option Latch) : (w.shiftLatches y).verdict = w.verdict := rfl
@[simp] theorem Warp.shiftLatches_gather (w : Warp) (y : Option Latch) : (w.shiftLatches y).gather = w.gather := rfl
@[simp] theorem Warp.shiftLatches_grp (w : Warp) (y : Option Latch) : (w.shiftLatches y).grp = w.grp := rfl
@[simp] theorem Warp.shiftLatches_since (w : Warp) (y : Option Latch) : (w.shiftLatches y).since = w.since := rfl
@[simp] theorem Warp.clearLatches_v (w : Warp) : (w.clearLatches).v = w.v := rfl
@[simp] theorem Warp.clearLatches_alloc (w : Warp) : (w.clearLatches).alloc = w.alloc := rfl
@[simp] theorem Warp.clearLatches_sr (w : Warp) : (w.clearLatches).sr = w.sr := rfl
@[simp] theorem Warp.clearLatches_ar (w : Warp) : (w.clearLatches).ar = w.ar := rfl
@[simp] theorem Warp.clearLatches_kr (w : Warp) : (w.clearLatches).kr = w.kr := rfl
@[simp] theorem Warp.clearLatches_dr (w : Warp) : (w.clearLatches).dr = w.dr := rfl
@[simp] theorem Warp.clearLatches_qr (w : Warp) : (w.clearLatches).qr = w.qr := rfl
@[simp] theorem Warp.clearLatches_frontier (w : Warp) : (w.clearLatches).frontier = w.frontier := rfl
@[simp] theorem Warp.clearLatches_live (w : Warp) : (w.clearLatches).live = w.live := rfl
@[simp] theorem Warp.clearLatches_cur (w : Warp) : (w.clearLatches).cur = w.cur := rfl
@[simp] theorem Warp.clearLatches_chosen (w : Warp) : (w.clearLatches).chosen = w.chosen := rfl
@[simp] theorem Warp.clearLatches_pos (w : Warp) : (w.clearLatches).pos = w.pos := rfl
@[simp] theorem Warp.clearLatches_headPc (w : Warp) : (w.clearLatches).headPc = w.headPc := rfl
@[simp] theorem Warp.clearLatches_headGen (w : Warp) : (w.clearLatches).headGen = w.headGen := rfl
@[simp] theorem Warp.clearLatches_kwrites (w : Warp) : (w.clearLatches).kwrites = w.kwrites := rfl
@[simp] theorem Warp.clearLatches_gen (w : Warp) : (w.clearLatches).gen = w.gen := rfl
@[simp] theorem Warp.clearLatches_hang (w : Warp) : (w.clearLatches).hang = w.hang := rfl
@[simp] theorem Warp.clearLatches_pend (w : Warp) : (w.clearLatches).pend = w.pend := rfl
@[simp] theorem Warp.clearLatches_sup (w : Warp) : (w.clearLatches).sup = w.sup := rfl
@[simp] theorem Warp.clearLatches_psup (w : Warp) : (w.clearLatches).psup = w.psup := rfl
@[simp] theorem Warp.clearLatches_inh (w : Warp) : (w.clearLatches).inh = w.inh := rfl
@[simp] theorem Warp.clearLatches_itercap (w : Warp) : (w.clearLatches).itercap = w.itercap := rfl
@[simp] theorem Warp.clearLatches_role (w : Warp) : (w.clearLatches).role = w.role := rfl
@[simp] theorem Warp.clearLatches_trapcause (w : Warp) : (w.clearLatches).trapcause = w.trapcause := rfl
@[simp] theorem Warp.clearLatches_trappc (w : Warp) : (w.clearLatches).trappc = w.trappc := rfl
@[simp] theorem Warp.clearLatches_trapinfo (w : Warp) : (w.clearLatches).trapinfo = w.trapinfo := rfl
@[simp] theorem Warp.clearLatches_trapvec (w : Warp) : (w.clearLatches).trapvec = w.trapvec := rfl
@[simp] theorem Warp.clearLatches_tlanes (w : Warp) : (w.clearLatches).tlanes = w.tlanes := rfl
@[simp] theorem Warp.clearLatches_hsave0 (w : Warp) : (w.clearLatches).hsave0 = w.hsave0 := rfl
@[simp] theorem Warp.clearLatches_hsave1 (w : Warp) : (w.clearLatches).hsave1 = w.hsave1 := rfl
@[simp] theorem Warp.clearLatches_pxi (w : Warp) : (w.clearLatches).pxi = w.pxi := rfl
@[simp] theorem Warp.clearLatches_trappxi (w : Warp) : (w.clearLatches).trappxi = w.trappxi := rfl
@[simp] theorem Warp.clearLatches_vtime (w : Warp) : (w.clearLatches).vtime = w.vtime := rfl
@[simp] theorem Warp.clearLatches_vtcmp (w : Warp) : (w.clearLatches).vtcmp = w.vtcmp := rfl
@[simp] theorem Warp.clearLatches_deadline (w : Warp) : (w.clearLatches).deadline = w.deadline := rfl
@[simp] theorem Warp.clearLatches_agelim (w : Warp) : (w.clearLatches).agelim = w.agelim := rfl
@[simp] theorem Warp.clearLatches_fair (w : Warp) : (w.clearLatches).fair = w.fair := rfl
@[simp] theorem Warp.clearLatches_fpmode (w : Warp) : (w.clearLatches).fpmode = w.fpmode := rfl
@[simp] theorem Warp.clearLatches_tokPend (w : Warp) : (w.clearLatches).tokPend = w.tokPend := rfl
@[simp] theorem Warp.clearLatches_tokTag (w : Warp) : (w.clearLatches).tokTag = w.tokTag := rfl
@[simp] theorem Warp.clearLatches_carryV (w : Warp) : (w.clearLatches).carryV = w.carryV := rfl
@[simp] theorem Warp.clearLatches_carryS (w : Warp) : (w.clearLatches).carryS = w.carryS := rfl
@[simp] theorem Warp.clearLatches_claim (w : Warp) : (w.clearLatches).claim = w.claim := rfl
@[simp] theorem Warp.clearLatches_block (w : Warp) : (w.clearLatches).block = w.block := rfl
@[simp] theorem Warp.clearLatches_verdict (w : Warp) : (w.clearLatches).verdict = w.verdict := rfl
@[simp] theorem Warp.clearLatches_gather (w : Warp) : (w.clearLatches).gather = w.gather := rfl
@[simp] theorem Warp.clearLatches_grp (w : Warp) : (w.clearLatches).grp = w.grp := rfl
@[simp] theorem Warp.clearLatches_since (w : Warp) : (w.clearLatches).since = w.since := rfl
@[simp] theorem Warp.flag_v (w : Warp) (x : Flags) : (w.flag x).v = w.v := rfl
@[simp] theorem Warp.flag_alloc (w : Warp) (x : Flags) : (w.flag x).alloc = w.alloc := rfl
@[simp] theorem Warp.flag_sr (w : Warp) (x : Flags) : (w.flag x).sr = w.sr := rfl
@[simp] theorem Warp.flag_ar (w : Warp) (x : Flags) : (w.flag x).ar = w.ar := rfl
@[simp] theorem Warp.flag_kr (w : Warp) (x : Flags) : (w.flag x).kr = w.kr := rfl
@[simp] theorem Warp.flag_dr (w : Warp) (x : Flags) : (w.flag x).dr = w.dr := rfl
@[simp] theorem Warp.flag_qr (w : Warp) (x : Flags) : (w.flag x).qr = w.qr := rfl
@[simp] theorem Warp.flag_y0 (w : Warp) (x : Flags) : (w.flag x).y0 = w.y0 := rfl
@[simp] theorem Warp.flag_y1 (w : Warp) (x : Flags) : (w.flag x).y1 = w.y1 := rfl
@[simp] theorem Warp.flag_y2 (w : Warp) (x : Flags) : (w.flag x).y2 = w.y2 := rfl
@[simp] theorem Warp.flag_y3 (w : Warp) (x : Flags) : (w.flag x).y3 = w.y3 := rfl
@[simp] theorem Warp.flag_frontier (w : Warp) (x : Flags) : (w.flag x).frontier = w.frontier := rfl
@[simp] theorem Warp.flag_live (w : Warp) (x : Flags) : (w.flag x).live = w.live := rfl
@[simp] theorem Warp.flag_cur (w : Warp) (x : Flags) : (w.flag x).cur = w.cur := rfl
@[simp] theorem Warp.flag_chosen (w : Warp) (x : Flags) : (w.flag x).chosen = w.chosen := rfl
@[simp] theorem Warp.flag_pos (w : Warp) (x : Flags) : (w.flag x).pos = w.pos := rfl
@[simp] theorem Warp.flag_headPc (w : Warp) (x : Flags) : (w.flag x).headPc = w.headPc := rfl
@[simp] theorem Warp.flag_headGen (w : Warp) (x : Flags) : (w.flag x).headGen = w.headGen := rfl
@[simp] theorem Warp.flag_kwrites (w : Warp) (x : Flags) : (w.flag x).kwrites = w.kwrites := rfl
@[simp] theorem Warp.flag_gen (w : Warp) (x : Flags) : (w.flag x).gen = w.gen := rfl
@[simp] theorem Warp.flag_hang (w : Warp) (x : Flags) : (w.flag x).hang = w.hang := rfl
@[simp] theorem Warp.flag_pend (w : Warp) (x : Flags) : (w.flag x).pend = w.pend := rfl
@[simp] theorem Warp.flag_sup (w : Warp) (x : Flags) : (w.flag x).sup = w.sup := rfl
@[simp] theorem Warp.flag_psup (w : Warp) (x : Flags) : (w.flag x).psup = w.psup := rfl
@[simp] theorem Warp.flag_inh (w : Warp) (x : Flags) : (w.flag x).inh = w.inh := rfl
@[simp] theorem Warp.flag_itercap (w : Warp) (x : Flags) : (w.flag x).itercap = w.itercap := rfl
@[simp] theorem Warp.flag_role (w : Warp) (x : Flags) : (w.flag x).role = w.role := rfl
@[simp] theorem Warp.flag_trapcause (w : Warp) (x : Flags) : (w.flag x).trapcause = w.trapcause := rfl
@[simp] theorem Warp.flag_trappc (w : Warp) (x : Flags) : (w.flag x).trappc = w.trappc := rfl
@[simp] theorem Warp.flag_trapinfo (w : Warp) (x : Flags) : (w.flag x).trapinfo = w.trapinfo := rfl
@[simp] theorem Warp.flag_trapvec (w : Warp) (x : Flags) : (w.flag x).trapvec = w.trapvec := rfl
@[simp] theorem Warp.flag_tlanes (w : Warp) (x : Flags) : (w.flag x).tlanes = w.tlanes := rfl
@[simp] theorem Warp.flag_hsave0 (w : Warp) (x : Flags) : (w.flag x).hsave0 = w.hsave0 := rfl
@[simp] theorem Warp.flag_hsave1 (w : Warp) (x : Flags) : (w.flag x).hsave1 = w.hsave1 := rfl
@[simp] theorem Warp.flag_pxi (w : Warp) (x : Flags) : (w.flag x).pxi = w.pxi := rfl
@[simp] theorem Warp.flag_trappxi (w : Warp) (x : Flags) : (w.flag x).trappxi = w.trappxi := rfl
@[simp] theorem Warp.flag_vtime (w : Warp) (x : Flags) : (w.flag x).vtime = w.vtime := rfl
@[simp] theorem Warp.flag_vtcmp (w : Warp) (x : Flags) : (w.flag x).vtcmp = w.vtcmp := rfl
@[simp] theorem Warp.flag_deadline (w : Warp) (x : Flags) : (w.flag x).deadline = w.deadline := rfl
@[simp] theorem Warp.flag_agelim (w : Warp) (x : Flags) : (w.flag x).agelim = w.agelim := rfl
@[simp] theorem Warp.flag_fair (w : Warp) (x : Flags) : (w.flag x).fair = w.fair := rfl
@[simp] theorem Warp.flag_tokPend (w : Warp) (x : Flags) : (w.flag x).tokPend = w.tokPend := rfl
@[simp] theorem Warp.flag_tokTag (w : Warp) (x : Flags) : (w.flag x).tokTag = w.tokTag := rfl
@[simp] theorem Warp.flag_carryV (w : Warp) (x : Flags) : (w.flag x).carryV = w.carryV := rfl
@[simp] theorem Warp.flag_carryS (w : Warp) (x : Flags) : (w.flag x).carryS = w.carryS := rfl
@[simp] theorem Warp.flag_claim (w : Warp) (x : Flags) : (w.flag x).claim = w.claim := rfl
@[simp] theorem Warp.flag_block (w : Warp) (x : Flags) : (w.flag x).block = w.block := rfl
@[simp] theorem Warp.flag_verdict (w : Warp) (x : Flags) : (w.flag x).verdict = w.verdict := rfl
@[simp] theorem Warp.flag_gather (w : Warp) (x : Flags) : (w.flag x).gather = w.gather := rfl
@[simp] theorem Warp.flag_grp (w : Warp) (x : Flags) : (w.flag x).grp = w.grp := rfl
@[simp] theorem Warp.flag_since (w : Warp) (x : Flags) : (w.flag x).since = w.since := rfl

theorem Warp.setS_s (w : Warp) (n k : Nat) (x : Word) : (w.setS n x).s k = if k = n then x else w.s k := by
  simp [Warp.setS, Warp.s, SMap.look_put]
theorem Warp.setA_a (w : Warp) (n k : Nat) (x : Addr) : (w.setA n x).a k = if k = n then x else w.a k := by
  simp [Warp.setA, Warp.a, SMap.look_put]
theorem Warp.setD_d (w : Warp) (n k : Nat) (x : BitVec 128) : (w.setD n x).d k = if k = n then x else w.d k := by
  simp [Warp.setD, Warp.d, SMap.look_put]
theorem Warp.setQ_q (w : Warp) (n k : Nat) (x : Lane) : (w.setQ n x).q k = if k = n then x else w.q k := by
  simp [Warp.setQ, Warp.q, SMap.look_put]

@[simp] theorem Lanes_mk_at {α : Type} (f : Nat → α) {t : Nat} (h : t < 128) : (Lanes.mk f).at t = f t := by
  simp [Lanes.mk, Lanes.at, Nat.mod_eq_of_lt h]

/-- What a write of lanes of a v register leaves in every lane of every register. -/
theorem Warp.setV_vlane (w : Warp) (n : Nat) (m : Mask) (f : Nat → Lane) (k : Nat) {t : Nat} (h : t < 128) :
    (w.setV n m f).vlane k t = if k = n ∧ m.getLsbD t = true then f t else w.vlane k t := by
  unfold Warp.vlane Warp.vreg Warp.setV
  rw [SMap.look_set]
  by_cases hk : k = n
  · subst hk; simp [h, Warp.vreg]
  · simp [hk]

end Sys2Proof.Machine
end

