-- ==== Sys2Proof/Laws/Frame.lean ====
section
/-! SUPPORT. What the operations that follow a word leave alone: records, group faults, traps, barriers and the release of a
group touch warps, groups, launches, queues, a core's accesses and the log, and clear a local store; nothing else. -/

set_option Elab.async false

namespace Sys2Proof.Machine

/-- Two states agree on memory, caches, directories, translations, messages, regions, keys, dies and clocks. -/
structure Calm (s t : State) : Prop where
  phys : t.phys = s.phys
  physBad : t.physBad = s.physBad
  vault : t.vault = s.vault
  vaultBad : t.vaultBad = s.vaultBad
  tags : t.tags = s.tags
  prots : t.prots = s.prots
  l1 : t.l1 = s.l1
  l2 : t.l2 = s.l2
  gone : t.gone = s.gone
  filled : t.filled = s.filled
  dir : t.dir = s.dir
  tlb : t.tlb = s.tlb
  windows : t.windows = s.windows
  msgs : t.msgs = s.msgs
  regions : t.regions = s.regions
  moulds : t.moulds = s.moulds
  dies : t.dies = s.dies
  mode : t.mode = s.mode
  keys : t.keys = s.keys
  saved : t.saved = s.saved
  cycle : t.cycle = s.cycle
  arith : t.arith = s.arith
  slot : t.slot = s.slot
  ring : t.ring = s.ring
  lost : t.lost = s.lost
  agenda : t.agenda = s.agenda

theorem Calm.refl (s : State) : Calm s s := by constructor <;> rfl

theorem Calm.trans {s t u : State} (h : Calm s t) (k : Calm t u) : Calm s u := by
  cases h; cases k
  constructor <;> simp_all

theorem calm_setWarp (s : State) (wp : Nat) (w : Warp) : Calm s (s.setWarp wp w) := by constructor <;> rfl
theorem calm_setGroup (s : State) (g : Nat) (x : Group) : Calm s (s.setGroup g x) := by constructor <;> rfl
theorem calm_setCore (s : State) (c : Nat) (x : Core) : Calm s (s.setCore c x) := by constructor <;> rfl
theorem calm_setLaunch (s : State) (l : Nat) (x : Launch) : Calm s (s.setLaunch l x) := by constructor <;> rfl
theorem calm_setQueue (s : State) (d q : Nat) (x : Queue) : Calm s (s.setQueue d q x) := by constructor <;> rfl

/-- A record goes to the ring in host memory or to the log (R455). -/
theorem calm_record (s : State) (r : Rec) : Calm s (s.record r) := by
  unfold State.record ringPut
  constructor <;> (dsimp only; repeat' split) <;> rfl

theorem calm_faultLaunch (s : State) (l : Nat) : Calm s (faultLaunch s l) := by
  unfold faultLaunch
  constructor <;> (dsimp only; repeat' split) <;> rfl

/-- A group's fault changes no memory (R197). -/
theorem calm_groupFault (s : State) (g : Nat) (r : Rec) : Calm s (groupFault s g r) := by
  unfold groupFault
  dsimp only
  split
  · exact Calm.refl s
  · exact (((calm_record _ _).trans (calm_setGroup _ _ _)).trans (calm_faultLaunch _ _)).trans (by constructor <;> rfl)

/-- Raising a trap queues it or faults the group (R197). -/
theorem calm_raise (s : State) (wp : Nat) (p : Pend) (b : Bool) : Calm s (raise s wp p b) := by
  unfold raise
  dsimp only
  split
  · exact calm_groupFault _ _ _
  · exact calm_setWarp _ _ _

theorem calm_raisePrecise (s : State) (wp i : Nat) (c : Cause) (info : Word) (m : Mask) (pc : BitVec 32) :
    Calm s (raisePrecise s wp i c info m pc) := by
  unfold raisePrecise
  exact (calm_setWarp _ _ _).trans (calm_raise _ _ _ _)

theorem calm_raiseAfter (s : State) (c : Ctx) (x : Cause) (info : Word) (pc : BitVec 32) : Calm s (raiseAfter s c x info pc) := by
  unfold raiseAfter
  exact (calm_setWarp _ _ _).trans (calm_raise _ _ _ _)

theorem calm_releaseGroup (s : State) (g : Nat) : Calm s (releaseGroup s g) := by
  unfold releaseGroup
  constructor <;> rfl

theorem calm_tryRelease (s : State) (g : Nat) : Calm s (tryRelease s g) := by
  have due : ∀ o : Option (Word × Nat), Calm s (match o with
      | some due => if (s.group g).faulted then s
        else groupFault s g { cls := 1, sev := 1, warp := slotOf due.2, cause := causeCode .matrixStorage }
      | none => s) := by
    intro o
    cases o with
    | none => exact Calm.refl s
    | some d => dsimp only; split <;> first | exact Calm.refl s | exact calm_groupFault _ _ _
  unfold tryRelease
  dsimp only
  split
  · exact Calm.refl s
  · exact (due _).trans (calm_releaseGroup _ _)

theorem calm_raiseMatrixStorage (s : State) (g : Nat) (l : List Nat) : Calm s (raiseMatrixStorage s g l) := by
  unfold raiseMatrixStorage
  cases h : (s.group g).msDue with
  | none => simp only [h]; exact Calm.refl s
  | some due =>
    obtain ⟨info, wp⟩ := due
    simp only [h]
    exact (calm_setGroup _ _ _).trans (calm_raise _ _ _ _)

/-- A list of updates that are each calm is calm. -/
theorem calm_foldl {α : Type} (f : State → α → State) (hf : ∀ s x, Calm s (f s x)) (l : List α) (s : State) : Calm s (l.foldl f s) := by
  induction l generalizing s with
  | nil => exact Calm.refl s
  | cons x r ih => exact (hf s x).trans (ih _)

theorem calm_passTogether (s : State) (g b : Nat) (l r : List Nat) : Calm s (passTogether s g b l r) := by
  unfold passTogether
  dsimp only
  split
  · split
    · exact calm_raiseMatrixStorage _ _ _
    · exact (calm_raiseMatrixStorage _ _ _).trans (calm_setGroup _ _ _)
  · exact (((calm_raiseMatrixStorage _ _ _).trans (calm_setGroup _ _ _)).trans
      (calm_foldl _ (fun s wp => calm_setWarp _ _ _) _ _)).trans (calm_setCore _ _ _)

theorem calm_trapAtBar (s : State) (wp : Nat) : Calm s (trapAtBar s wp) := by
  unfold trapAtBar
  dsimp only
  split
  · exact Calm.refl s
  · exact (calm_setWarp _ _ _).trans (calm_raisePrecise _ _ _ _ _ _ _)

theorem calm_testBarrier (s : State) (g b : Nat) : Calm s (testBarrier s g b) := by
  unfold testBarrier
  dsimp only
  repeat' split
  all_goals first
    | exact calm_setGroup _ _ _
    | exact calm_passTogether _ _ _ _ _
    | exact (calm_setGroup _ _ _).trans (calm_trapAtBar _ _)

theorem calm_testBarriers (s : State) (g : Nat) : Calm s (testBarriers s g) := by
  unfold testBarriers
  split
  · exact calm_foldl _ (fun s b => calm_testBarrier _ _ _) _ _
  · exact Calm.refl s

theorem calm_settleGroup (s : State) (g : Nat) : Calm s (settleGroup s g) := (calm_testBarriers _ _).trans (calm_tryRelease _ _)

theorem calm_slotEnd (s : State) (wp : Nat) (w : Warp) (r : Bool) : Calm s (slotEnd s wp w r) := by
  unfold slotEnd
  exact (calm_setWarp _ _ _).trans (calm_settleGroup _ _)

theorem calm_trapEnd (s : State) (wp : Nat) (w : Warp) (c : Bool) : Calm s (trapEnd s wp w c) := by
  unfold trapEnd
  exact (calm_setWarp _ _ _).trans (calm_tryRelease _ _)

theorem calm_trapBase (s : State) (wp i : Nat) (c : Bool) : Calm s (trapBase s wp i c) := by
  unfold trapBase
  split
  · exact Calm.refl s
  · exact calm_setWarp _ _ _

theorem calm_exitStore (s : State) (wp scope : Nat) (m : Mask) : Calm s (exitStore s wp scope m) := by
  unfold exitStore
  dsimp only
  split
  · exact Calm.refl s
  · constructor <;> rfl

theorem calm_exitLanes (s : State) (wp : Nat) (m : Mask) (scope : Nat) : Calm s (exitLanes s wp m scope) := by
  unfold exitLanes
  dsimp only
  repeat' split
  all_goals first
    | exact ((calm_exitStore _ _ _ _).trans (calm_setWarp _ _ _)).trans (calm_exitStore _ _ _ _)
    | exact (calm_exitStore _ _ _ _).trans (calm_setWarp _ _ _)

/-- A word that traps leaves memory and the rest as they were before its slot (R65). -/
theorem calm_conclude_trap (s : State) (c : Ctx) (h r ctl : Bool) (x : Cause) (info : Word) (m : Mask) :
    Calm s (conclude s c h r ctl (.trap x info m)) :=
  ((calm_trapBase _ _ _ _).trans (calm_raisePrecise _ _ _ _ _ _ _)).trans (calm_trapEnd _ _ _ _)

theorem calm_conclude_trapAt (s : State) (c : Ctx) (h r ctl : Bool) (x : Cause) (info : Word) (pc : BitVec 32) :
    Calm s (conclude s c h r ctl (.trapAt x info pc)) :=
  ((calm_trapBase _ _ _ _).trans (calm_raiseAfter _ _ _ _ _)).trans (calm_trapEnd _ _ _ _)

/-- A word that completes adds nothing to what its effect has done to them. -/
theorem calm_conclude_done (old s : State) (c : Ctx) (h r ctl : Bool) (y : Option Latch) :
    Calm s (conclude old c h r ctl (.done s y)) := by
  unfold conclude
  exact (calm_setWarp _ _ _).trans (calm_slotEnd _ _ _ _)

theorem calm_conclude_moved (old s : State) (c : Ctx) (h r ctl : Bool) : Calm s (conclude old c h r ctl (.moved s)) := by
  unfold conclude
  exact (calm_setWarp _ _ _).trans (calm_slotEnd _ _ _ _)

theorem conclude_hold (old : State) (c : Ctx) (h r ctl : Bool) : conclude old c h r ctl .hold = old := rfl

end Sys2Proof.Machine
end

