-- ==== Sys2Proof/Laws/Issue.lean ====
section
/-! SUPPORT. What a word that issues does. -/

set_option Elab.async false

namespace Sys2Proof

open Machine

@[simp] theorem seen_grp (s : State) (sp : Split) : (seen s sp).grp = (s.warp s.issuer).grp := by
  unfold seen slotWarp
  split <;> rfl

/-- A word that issues does its effect, and its slot ends. -/
theorem issueWord_of_issues {sh : Shape} {f : RWord} {d r : Bool} {regs : List Nat} {own : Warp → Group → Bool}
    {body : State → Ctx → Eff} {s : State} {sp : Split} (h : Issues sh f d regs s sp)
    (ho : own (seen s sp) (s.group (seen s sp).grp) = true) :
    issueWord sh f d r regs own body s =
      conclude s (slotCtx s f sp) f.h r sh.ctl (body (s.setWarp s.issuer (seen s sp)) (slotCtx s f sp)) := by
  obtain ⟨h1, h2, h3, h4, h5, h6, h7, h8⟩ := h
  have e1 : ((sh.regs f ++ regs).any fun n => !regOk (seen s sp) (s.group (seen s sp).grp).sregs n) = false := by
    simp only [List.any_eq_false, Bool.not_eq_true', Bool.not_eq_false]
    exact h3
  have e2 : ((sh.latches f).any fun p => !latchKindOk (seen s sp) p.1 p.2) = false := by
    simp only [List.any_eq_false, Bool.not_eq_true', Bool.not_eq_false]
    exact fun p hp => (h4 p hp).1
  have e3 : ((sh.latches f).any fun p => ((seen s sp).latch p.2).isNone) = false := by
    simp only [List.any_eq_false]
    intro p hp
    obtain ⟨-, y, hy, -⟩ := h4 p hp
    simp [hy]
  have e5 : (sh.priv && !(seen s sp).sup) = false := by
    cases hp : sh.priv
    · rfl
    · simp [h6 hp]
  unfold seen at e1 e2 e3 e5 h5 h8 ho
  simp [issueWord, slotCtx, seen, h1, h2, e1, e2, e3, e5, h5, h7, h8, ho]
  intro p c hm hx
  obtain ⟨-, y, hy, hn⟩ := h4 _ hm
  unfold seen at hy
  rw [hy] at hx
  cases y <;> simp_all

/-- What a full word can come to: nothing, one trap, or its effect (R82). -/
theorem issueWord_cases (sh : Shape) (f : RWord) (d r : Bool) (regs : List Nat) (own : Warp → Group → Bool)
    (body : State → Ctx → Eff) (s : State) :
    issueWord sh f d r regs own body s = s
    ∨ (∃ s1 c x info m, issueWord sh f d r regs own body s = conclude s1 c f.h r sh.ctl (.trap x info m)
        ∧ (s1 = s ∨ ∃ w, s1 = s.setWarp s.issuer w))
    ∨ (∃ sp, (s.warp s.issuer).frontier[(s.warp s.issuer).cur]? = some sp ∧ issueWord sh f d r regs own body s =
        conclude s (slotCtx s f sp) f.h r sh.ctl (body (s.setWarp s.issuer (seen s sp)) (slotCtx s f sp))) := by
  unfold issueWord
  dsimp only
  split
  · exact .inl rfl
  · rename_i sp hs
    repeat' split
    all_goals first
      | exact .inl rfl
      | exact .inr (.inl ⟨_, _, _, _, _, rfl, .inl rfl⟩)
      | exact .inr (.inl ⟨_, _, _, _, _, rfl, .inr ⟨_, rfl⟩⟩)
      | exact .inr (.inr ⟨_, hs, rfl⟩)

/-- When a word issues, as a computation. -/
def issuesB (sh : Shape) (f : RWord) (readsD : Bool) (regs : List Nat) (s : State) (sp : Split) : Bool :=
  decide ((s.warp s.issuer).frontier[(s.warp s.issuer).cur]? = some sp)
    && decide (sh.check f = none)
    && (sh.regs f ++ regs).all (fun n => regOk (seen s sp) (s.group (seen s sp).grp).sregs n)
    && (sh.latches f).all (fun p => latchKindOk (seen s sp) p.1 p.2 && (match (seen s sp).latch p.2 with
        | none => false
        | some (.awaited _ _) => false
        | some _ => true))
    && !chainViolation (seen s sp) f sh.inner && (!sh.priv || (seen s sp).sup) && !mustWait s s.issuer (sh.regs f ++ regs)
    && decide (taggedRead (seen s sp) ((({ sh with dst := if readsD then sh.dst else .unused } : Shape).regs f) ++ regs) = none)

theorem issues_of {sh : Shape} {f : RWord} {d : Bool} {regs : List Nat} {s : State} {sp : Split} (h : issuesB sh f d regs s sp = true) :
    Issues sh f d regs s sp := by
  simp only [issuesB, Bool.and_eq_true, decide_eq_true_eq, List.all_eq_true, Bool.not_eq_true'] at h
  obtain ⟨⟨⟨⟨⟨⟨⟨h1, h2⟩, h3⟩, h4⟩, h5⟩, h6⟩, h7⟩, h8⟩ := h
  refine ⟨h1, h2, h3, fun p hp => ?_, h5, fun hp => ?_, h7, h8⟩
  · obtain ⟨ha, hb⟩ := h4 p hp
    refine ⟨ha, ?_⟩
    split at hb
    · cases hb
    · cases hb
    · rename_i y hy hn
      exact ⟨y, hn, fun l u e => hy l u (e ▸ rfl)⟩
  · simpa [hp] using h6

end Sys2Proof
end

