-- ==== Sys2Proof/Laws/Ops.lean ====
section
/-! SUPPORT. What raising, delivering and returning from a trap do. -/

set_option Elab.async false

namespace Sys2Proof.Machine

/-- A trap that can be handled enters its warp's queue (R197). -/
theorem raise_queued (s : State) (wp : Nat) (p : Pend) (precise : Bool) (h1 : (s.warp wp).trapvec.getLsbD 63 = true)
    (h2 : (s.warp wp).pend.length < 8) (h3 : (precise && (s.warp wp).inh) = false) :
    raise s wp p precise = s.setWarp wp { s.warp wp with pend := enqueueTrap (s.warp wp).pend { p with cycle := some s.arith } } := by
  unfold raise
  have e : (!(s.warp wp).trapvec.getLsbD 63 || decide (8 ≤ (s.warp wp).pend.length) || (precise && (s.warp wp).inh)) = false := by
    rw [h1, h3]
    simp [h2]
  exact if_neg (ne_true_of_eq_false e)

/-- A trap that cannot be handled faults the warp's group (R197). -/
theorem raise_faults (s : State) (wp : Nat) (p : Pend) (precise : Bool)
    (h : (s.warp wp).trapvec.getLsbD 63 = false ∨ 8 ≤ (s.warp wp).pend.length ∨ (precise && (s.warp wp).inh) = true) :
    raise s wp p precise =
      groupFault s (s.warp wp).grp { cls := 1, sev := 1, warp := slotOf wp, cause := causeCode p.cause, pc := (returnPc (s.warp wp) p).toNat } := by
  unfold raise
  have e : (!(s.warp wp).trapvec.getLsbD 63 || decide (8 ≤ (s.warp wp).pend.length) || (precise && (s.warp wp).inh)) = true := by
    rcases h with h | h | h
    · rw [h]; rfl
    · rw [decide_eq_true h]; simp
    · rw [h]; simp
  exact if_pos e

/-- Delivery saves the level, enters the handler at TRAPVEC's pc and inhibits the next one (R198). -/
theorem deliver_saves (w : Warp) (p : Pend) (rest : List Pend) (sp : Split) (hp : w.pend = p :: rest)
    (hs : w.frontier[receiver w p]? = some sp) :
    (deliver w).pend = rest ∧ (deliver w).psup = w.sup ∧ (deliver w).sup = true ∧ (deliver w).inh = true
      ∧ (deliver w).trapcause = trapCauseWord p ∧ (deliver w).trapinfo = p.info ∧ (deliver w).tlanes = p.lanes
      ∧ (deliver w).trappxi = w.pxi ∧ (deliver w).pxi = 0 := by
  unfold deliver
  simp [hp, hs]

/-- Return gives back the level and lets traps be delivered again (R199). -/
theorem trapReturn_restores (w : Warp) :
    (trapReturn w).sup = w.psup ∧ (trapReturn w).inh = false ∧ (trapReturn w).pxi = w.trappxi := ⟨rfl, rfl, rfl⟩

@[simp] theorem State.warp_setWarp_same (s : State) (wp : Nat) (w : Warp) : (s.setWarp wp w).warp wp = w := by
  simp [State.warp, State.setWarp]

@[simp] theorem State.warp_setWarp_ne (s : State) {wp o : Nat} (w : Warp) (h : o ≠ wp) : (s.setWarp wp w).warp o = s.warp o := by
  simp [State.warp, State.setWarp, h]

/-- Where a word that completes inside a chain leaves its warp, before the slot's end (R63, R163). -/
theorem conclude_inner (old s : State) (c : Ctx) (r ctl : Bool) (y : Option Latch) :
    conclude old c true r ctl (.done s y) =
      slotEnd (s.setWarp c.wp { (s.warp c.wp).shiftLatches y with
        verdict := [], pos := ((s.warp c.wp).shiftLatches y).pos + 1
        frontier := (s.warp c.wp).frontier.modify c.i (fun x => { x with pc := x.pc + 1 }) }) c.wp (old.warp c.wp) r := rfl

end Sys2Proof.Machine
end

