-- ==== Sys2Proof/Laws/Order.lean ====
section
/-! SUPPORT. The orders of a warp's accesses read cores and names: a change to a warp that keeps its group leaves them. -/

set_option Elab.async false

namespace Sys2Proof.Machine

theorem State.nameOf_setWarp (s : State) {wp : Nat} {w : Warp} (h : w.grp = (s.warp wp).grp) (o : Nat) :
    (s.setWarp wp w).nameOf o = s.nameOf o := by
  by_cases ho : o = wp
  · subst ho; simp [State.nameOf, State.groupOf, h]
  · simp [State.nameOf, State.groupOf, ho]

@[simp] theorem sideLogged_core_setWarp (s : State) (wp : Nat) (w : Warp) (core asid vline : Nat) :
    sideLogged ((s.setWarp wp w).core core) asid vline = sideLogged (s.core core) asid vline := rfl

@[simp] theorem settledBefore_setWarp (s : State) (wp : Nat) (w : Warp) (n : WarpName) (id scope : Nat) :
    settledBefore (s.setWarp wp w) n id scope = settledBefore s n id scope := rfl

@[simp] theorem releaseOk_setWarp (s : State) (wp : Nat) (w : Warp) (core o : Nat) (n : WarpName) (id scope : Nat) :
    releaseOk (s.setWarp wp w) core o n id scope = releaseOk s core o n id scope := rfl

@[simp] theorem earlierOnLine_setWarp (s : State) (wp : Nat) (w : Warp) (core o : Nat) (n : WarpName) (id line : Nat) (space : Space) :
    earlierOnLine (s.setWarp wp w) core o n id line space = earlierOnLine s core o n id line space := rfl

@[simp] theorem strays_setWarp (s : State) (wp : Nat) (w : Warp) (core : Nat) (n : WarpName) (asid vline : Nat) :
    strays (s.setWarp wp w) core n asid vline = strays s core n asid vline := rfl

@[simp] theorem storeReady_setWarp (s : State) (wp : Nat) (w : Warp) (x : Store) :
    storeReady (s.setWarp wp w) x = storeReady s x := rfl

theorem releaseReady_setWarp (s : State) {wp : Nat} {w : Warp} (h : w.grp = (s.warp wp).grp) (o id scope : Nat) :
    releaseReady (s.setWarp wp w) o id scope = releaseReady s o id scope := by
  simp [releaseReady, State.nameOf_setWarp s h]

theorem heldLine_setWarp (s : State) {wp : Nat} {w : Warp} (h : w.grp = (s.warp wp).grp) (o asid vline : Nat) :
    heldLine (s.setWarp wp w) o asid vline = heldLine s o asid vline := by
  simp [heldLine, State.nameOf_setWarp s h]

theorem releasePending_setWarp (s : State) {wp : Nat} {w : Warp} (h : w.grp = (s.warp wp).grp) (o : Nat) :
    releasePending (s.setWarp wp w) o = releasePending s o := by
  simp only [releasePending, State.nameOf_setWarp s h]
  rfl

end Sys2Proof.Machine
end

