-- ==== Sys2Proof/Laws/PerInstr.lean ====
section
/-! SUPPORT. The family RoundTrip, one lemma per instruction: the word of a well-formed instruction decodes to it (R53 to R55,
R67, R72 to R81). An event has no word. -/

set_option Elab.async false

namespace Sys2Proof

open Machine

/-- Decoding the word of a well-formed instruction gives it back. -/
def Laws.RoundTrip.Statement (i : Instr) : Prop :=
  ∀ w : Word, i.wellFormed = true → encode i = some w → decodeWord w = i

theorem Laws.RoundTrip.sadd (f : RWord) : Laws.RoundTrip.Statement (.sadd f) := by
  intro w hw h
  cases h
  have hz : encR 0 0x00 f ≠ 0 := by
    intro e
    have h0 : f = rword 0 := by rw [← e, rword_encR]
    subst h0
    revert hw
    decide
  rw [decodeWord_encR _ _ _ hz]
  exact congrArg Instr.sadd (rword_encR _ _ f)
theorem Laws.RoundTrip.ssub (f : RWord) : Laws.RoundTrip.Statement (.ssub f) := by
  intro w hw h
  cases h
  rw [decodeWord_encR _ _ _ (encR_ne_zero _ _ _ (.inr (.inl (by decide))))]
  exact congrArg Instr.ssub (rword_encR _ _ f)
theorem Laws.RoundTrip.smul (f : RWord) : Laws.RoundTrip.Statement (.smul f) := by
  intro w hw h
  cases h
  rw [decodeWord_encR _ _ _ (encR_ne_zero _ _ _ (.inr (.inl (by decide))))]
  exact congrArg Instr.smul (rword_encR _ _ f)
theorem Laws.RoundTrip.smulh (f : RWord) : Laws.RoundTrip.Statement (.smulh f) := by
  intro w hw h
  cases h
  rw [decodeWord_encR _ _ _ (encR_ne_zero _ _ _ (.inr (.inl (by decide))))]
  exact congrArg Instr.smulh (rword_encR _ _ f)
theorem Laws.RoundTrip.sdiv (f : RWord) : Laws.RoundTrip.Statement (.sdiv f) := by
  intro w hw h
  cases h
  rw [decodeWord_encR _ _ _ (encR_ne_zero _ _ _ (.inr (.inl (by decide))))]
  exact congrArg Instr.sdiv (rword_encR _ _ f)
theorem Laws.RoundTrip.srem (f : RWord) : Laws.RoundTrip.Statement (.srem f) := by
  intro w hw h
  cases h
  rw [decodeWord_encR _ _ _ (encR_ne_zero _ _ _ (.inr (.inl (by decide))))]
  exact congrArg Instr.srem (rword_encR _ _ f)
theorem Laws.RoundTrip.sand (f : RWord) : Laws.RoundTrip.Statement (.sand f) := by
  intro w hw h
  cases h
  rw [decodeWord_encR _ _ _ (encR_ne_zero _ _ _ (.inr (.inl (by decide))))]
  exact congrArg Instr.sand (rword_encR _ _ f)
theorem Laws.RoundTrip.sor (f : RWord) : Laws.RoundTrip.Statement (.sor f) := by
  intro w hw h
  cases h
  rw [decodeWord_encR _ _ _ (encR_ne_zero _ _ _ (.inr (.inl (by decide))))]
  exact congrArg Instr.sor (rword_encR _ _ f)
theorem Laws.RoundTrip.sxor (f : RWord) : Laws.RoundTrip.Statement (.sxor f) := by
  intro w hw h
  cases h
  rw [decodeWord_encR _ _ _ (encR_ne_zero _ _ _ (.inr (.inl (by decide))))]
  exact congrArg Instr.sxor (rword_encR _ _ f)
theorem Laws.RoundTrip.sshl (f : RWord) : Laws.RoundTrip.Statement (.sshl f) := by
  intro w hw h
  cases h
  rw [decodeWord_encR _ _ _ (encR_ne_zero _ _ _ (.inr (.inl (by decide))))]
  exact congrArg Instr.sshl (rword_encR _ _ f)
theorem Laws.RoundTrip.sshr (f : RWord) : Laws.RoundTrip.Statement (.sshr f) := by
  intro w hw h
  cases h
  rw [decodeWord_encR _ _ _ (encR_ne_zero _ _ _ (.inr (.inl (by decide))))]
  exact congrArg Instr.sshr (rword_encR _ _ f)
theorem Laws.RoundTrip.ssar (f : RWord) : Laws.RoundTrip.Statement (.ssar f) := by
  intro w hw h
  cases h
  rw [decodeWord_encR _ _ _ (encR_ne_zero _ _ _ (.inr (.inl (by decide))))]
  exact congrArg Instr.ssar (rword_encR _ _ f)
theorem Laws.RoundTrip.smin (f : RWord) : Laws.RoundTrip.Statement (.smin f) := by
  intro w hw h
  cases h
  rw [decodeWord_encR _ _ _ (encR_ne_zero _ _ _ (.inr (.inl (by decide))))]
  exact congrArg Instr.smin (rword_encR _ _ f)
theorem Laws.RoundTrip.smax (f : RWord) : Laws.RoundTrip.Statement (.smax f) := by
  intro w hw h
  cases h
  rw [decodeWord_encR _ _ _ (encR_ne_zero _ _ _ (.inr (.inl (by decide))))]
  exact congrArg Instr.smax (rword_encR _ _ f)
theorem Laws.RoundTrip.scmp (f : RWord) : Laws.RoundTrip.Statement (.scmp f) := by
  intro w hw h
  cases h
  rw [decodeWord_encR _ _ _ (encR_ne_zero _ _ _ (.inr (.inl (by decide))))]
  exact congrArg Instr.scmp (rword_encR _ _ f)
theorem Laws.RoundTrip.ssel (f : RWord) : Laws.RoundTrip.Statement (.ssel f) := by
  intro w hw h
  cases h
  rw [decodeWord_encR _ _ _ (encR_ne_zero _ _ _ (.inr (.inl (by decide))))]
  exact congrArg Instr.ssel (rword_encR _ _ f)
theorem Laws.RoundTrip.smov (f : RWord) : Laws.RoundTrip.Statement (.smov f) := by
  intro w hw h
  cases h
  rw [decodeWord_encR _ _ _ (encR_ne_zero _ _ _ (.inr (.inl (by decide))))]
  exact congrArg Instr.smov (rword_encR _ _ f)
theorem Laws.RoundTrip.spopc (f : RWord) : Laws.RoundTrip.Statement (.spopc f) := by
  intro w hw h
  cases h
  rw [decodeWord_encR _ _ _ (encR_ne_zero _ _ _ (.inr (.inl (by decide))))]
  exact congrArg Instr.spopc (rword_encR _ _ f)
theorem Laws.RoundTrip.sclz (f : RWord) : Laws.RoundTrip.Statement (.sclz f) := by
  intro w hw h
  cases h
  rw [decodeWord_encR _ _ _ (encR_ne_zero _ _ _ (.inr (.inl (by decide))))]
  exact congrArg Instr.sclz (rword_encR _ _ f)
theorem Laws.RoundTrip.sbfe (f : RWord) : Laws.RoundTrip.Statement (.sbfe f) := by
  intro w hw h
  cases h
  rw [decodeWord_encR _ _ _ (encR_ne_zero _ _ _ (.inr (.inl (by decide))))]
  exact congrArg Instr.sbfe (rword_encR _ _ f)
theorem Laws.RoundTrip.sbfi (f : RWord) : Laws.RoundTrip.Statement (.sbfi f) := by
  intro w hw h
  cases h
  rw [decodeWord_encR _ _ _ (encR_ne_zero _ _ _ (.inr (.inl (by decide))))]
  exact congrArg Instr.sbfi (rword_encR _ _ f)
theorem Laws.RoundTrip.sfadd (f : RWord) : Laws.RoundTrip.Statement (.sfadd f) := by
  intro w hw h
  cases h
  rw [decodeWord_encR _ _ _ (encR_ne_zero _ _ _ (.inr (.inl (by decide))))]
  exact congrArg Instr.sfadd (rword_encR _ _ f)
theorem Laws.RoundTrip.sfmul (f : RWord) : Laws.RoundTrip.Statement (.sfmul f) := by
  intro w hw h
  cases h
  rw [decodeWord_encR _ _ _ (encR_ne_zero _ _ _ (.inr (.inl (by decide))))]
  exact congrArg Instr.sfmul (rword_encR _ _ f)
theorem Laws.RoundTrip.sffma (f : RWord) : Laws.RoundTrip.Statement (.sffma f) := by
  intro w hw h
  cases h
  rw [decodeWord_encR _ _ _ (encR_ne_zero _ _ _ (.inr (.inl (by decide))))]
  exact congrArg Instr.sffma (rword_encR _ _ f)
theorem Laws.RoundTrip.sfcmp (f : RWord) : Laws.RoundTrip.Statement (.sfcmp f) := by
  intro w hw h
  cases h
  rw [decodeWord_encR _ _ _ (encR_ne_zero _ _ _ (.inr (.inl (by decide))))]
  exact congrArg Instr.sfcmp (rword_encR _ _ f)
theorem Laws.RoundTrip.scvt (f : RWord) : Laws.RoundTrip.Statement (.scvt f) := by
  intro w hw h
  cases h
  rw [decodeWord_encR _ _ _ (encR_ne_zero _ _ _ (.inr (.inl (by decide))))]
  exact congrArg Instr.scvt (rword_encR _ _ f)
theorem Laws.RoundTrip.aadd (f : RWord) : Laws.RoundTrip.Statement (.aadd f) := by
  intro w hw h
  cases h
  rw [decodeWord_encR _ _ _ (encR_ne_zero _ _ _ (.inr (.inl (by decide))))]
  exact congrArg Instr.aadd (rword_encR _ _ f)
theorem Laws.RoundTrip.amov (f : RWord) : Laws.RoundTrip.Statement (.amov f) := by
  intro w hw h
  cases h
  rw [decodeWord_encR _ _ _ (encR_ne_zero _ _ _ (.inr (.inl (by decide))))]
  exact congrArg Instr.amov (rword_encR _ _ f)
theorem Laws.RoundTrip.ajoin (f : RWord) : Laws.RoundTrip.Statement (.ajoin f) := by
  intro w hw h
  cases h
  rw [decodeWord_encR _ _ _ (encR_ne_zero _ _ _ (.inr (.inl (by decide))))]
  exact congrArg Instr.ajoin (rword_encR _ _ f)
theorem Laws.RoundTrip.asplit (f : RWord) : Laws.RoundTrip.Statement (.asplit f) := by
  intro w hw h
  cases h
  rw [decodeWord_encR _ _ _ (encR_ne_zero _ _ _ (.inr (.inl (by decide))))]
  exact congrArg Instr.asplit (rword_encR _ _ f)
theorem Laws.RoundTrip.acmp (f : RWord) : Laws.RoundTrip.Statement (.acmp f) := by
  intro w hw h
  cases h
  rw [decodeWord_encR _ _ _ (encR_ne_zero _ _ _ (.inr (.inl (by decide))))]
  exact congrArg Instr.acmp (rword_encR _ _ f)
theorem Laws.RoundTrip.kand (f : RWord) : Laws.RoundTrip.Statement (.kand f) := by
  intro w hw h
  cases h
  rw [decodeWord_encR _ _ _ (encR_ne_zero _ _ _ (.inr (.inl (by decide))))]
  exact congrArg Instr.kand (rword_encR _ _ f)
theorem Laws.RoundTrip.kor (f : RWord) : Laws.RoundTrip.Statement (.kor f) := by
  intro w hw h
  cases h
  rw [decodeWord_encR _ _ _ (encR_ne_zero _ _ _ (.inr (.inl (by decide))))]
  exact congrArg Instr.kor (rword_encR _ _ f)
theorem Laws.RoundTrip.kxor (f : RWord) : Laws.RoundTrip.Statement (.kxor f) := by
  intro w hw h
  cases h
  rw [decodeWord_encR _ _ _ (encR_ne_zero _ _ _ (.inr (.inl (by decide))))]
  exact congrArg Instr.kxor (rword_encR _ _ f)
theorem Laws.RoundTrip.kandn (f : RWord) : Laws.RoundTrip.Statement (.kandn f) := by
  intro w hw h
  cases h
  rw [decodeWord_encR _ _ _ (encR_ne_zero _ _ _ (.inr (.inl (by decide))))]
  exact congrArg Instr.kandn (rword_encR _ _ f)
theorem Laws.RoundTrip.knot (f : RWord) : Laws.RoundTrip.Statement (.knot f) := by
  intro w hw h
  cases h
  rw [decodeWord_encR _ _ _ (encR_ne_zero _ _ _ (.inr (.inl (by decide))))]
  exact congrArg Instr.knot (rword_encR _ _ f)
theorem Laws.RoundTrip.kmov (f : RWord) : Laws.RoundTrip.Statement (.kmov f) := by
  intro w hw h
  cases h
  rw [decodeWord_encR _ _ _ (encR_ne_zero _ _ _ (.inr (.inl (by decide))))]
  exact congrArg Instr.kmov (rword_encR _ _ f)
theorem Laws.RoundTrip.kpopc (f : RWord) : Laws.RoundTrip.Statement (.kpopc f) := by
  intro w hw h
  cases h
  rw [decodeWord_encR _ _ _ (encR_ne_zero _ _ _ (.inr (.inl (by decide))))]
  exact congrArg Instr.kpopc (rword_encR _ _ f)
theorem Laws.RoundTrip.kfirst (f : RWord) : Laws.RoundTrip.Statement (.kfirst f) := by
  intro w hw h
  cases h
  rw [decodeWord_encR _ _ _ (encR_ne_zero _ _ _ (.inr (.inl (by decide))))]
  exact congrArg Instr.kfirst (rword_encR _ _ f)
theorem Laws.RoundTrip.kset (f : RWord) : Laws.RoundTrip.Statement (.kset f) := by
  intro w hw h
  cases h
  rw [decodeWord_encR _ _ _ (encR_ne_zero _ _ _ (.inr (.inl (by decide))))]
  exact congrArg Instr.kset (rword_encR _ _ f)
theorem Laws.RoundTrip.kget (f : RWord) : Laws.RoundTrip.Statement (.kget f) := by
  intro w hw h
  cases h
  rw [decodeWord_encR _ _ _ (encR_ne_zero _ _ _ (.inr (.inl (by decide))))]
  exact congrArg Instr.kget (rword_encR _ _ f)
theorem Laws.RoundTrip.saddImm (f : IWord) : Laws.RoundTrip.Statement (.saddImm f) := by
  intro w hw h
  cases h
  rw [decodeWord_encI _ _ _ (encI_ne_zero _ _ _ (.inr (by decide)))]
  exact congrArg Instr.saddImm (iword_encI _ _ f)
theorem Laws.RoundTrip.ssubImm (f : IWord) : Laws.RoundTrip.Statement (.ssubImm f) := by
  intro w hw h
  cases h
  rw [decodeWord_encI _ _ _ (encI_ne_zero _ _ _ (.inr (by decide)))]
  exact congrArg Instr.ssubImm (iword_encI _ _ f)
theorem Laws.RoundTrip.smulImm (f : IWord) : Laws.RoundTrip.Statement (.smulImm f) := by
  intro w hw h
  cases h
  rw [decodeWord_encI _ _ _ (encI_ne_zero _ _ _ (.inr (by decide)))]
  exact congrArg Instr.smulImm (iword_encI _ _ f)
theorem Laws.RoundTrip.sandImm (f : IWord) : Laws.RoundTrip.Statement (.sandImm f) := by
  intro w hw h
  cases h
  rw [decodeWord_encI _ _ _ (encI_ne_zero _ _ _ (.inr (by decide)))]
  exact congrArg Instr.sandImm (iword_encI _ _ f)
theorem Laws.RoundTrip.sorImm (f : IWord) : Laws.RoundTrip.Statement (.sorImm f) := by
  intro w hw h
  cases h
  rw [decodeWord_encI _ _ _ (encI_ne_zero _ _ _ (.inr (by decide)))]
  exact congrArg Instr.sorImm (iword_encI _ _ f)
theorem Laws.RoundTrip.sxorImm (f : IWord) : Laws.RoundTrip.Statement (.sxorImm f) := by
  intro w hw h
  cases h
  rw [decodeWord_encI _ _ _ (encI_ne_zero _ _ _ (.inr (by decide)))]
  exact congrArg Instr.sxorImm (iword_encI _ _ f)
theorem Laws.RoundTrip.sshlImm (f : IWord) : Laws.RoundTrip.Statement (.sshlImm f) := by
  intro w hw h
  cases h
  rw [decodeWord_encI _ _ _ (encI_ne_zero _ _ _ (.inr (by decide)))]
  exact congrArg Instr.sshlImm (iword_encI _ _ f)
theorem Laws.RoundTrip.sshrImm (f : IWord) : Laws.RoundTrip.Statement (.sshrImm f) := by
  intro w hw h
  cases h
  rw [decodeWord_encI _ _ _ (encI_ne_zero _ _ _ (.inr (by decide)))]
  exact congrArg Instr.sshrImm (iword_encI _ _ f)
theorem Laws.RoundTrip.ssarImm (f : IWord) : Laws.RoundTrip.Statement (.ssarImm f) := by
  intro w hw h
  cases h
  rw [decodeWord_encI _ _ _ (encI_ne_zero _ _ _ (.inr (by decide)))]
  exact congrArg Instr.ssarImm (iword_encI _ _ f)
theorem Laws.RoundTrip.sminImm (f : IWord) : Laws.RoundTrip.Statement (.sminImm f) := by
  intro w hw h
  cases h
  rw [decodeWord_encI _ _ _ (encI_ne_zero _ _ _ (.inr (by decide)))]
  exact congrArg Instr.sminImm (iword_encI _ _ f)
theorem Laws.RoundTrip.smaxImm (f : IWord) : Laws.RoundTrip.Statement (.smaxImm f) := by
  intro w hw h
  cases h
  rw [decodeWord_encI _ _ _ (encI_ne_zero _ _ _ (.inr (by decide)))]
  exact congrArg Instr.smaxImm (iword_encI _ _ f)
theorem Laws.RoundTrip.scmpImm (f : IWord) : Laws.RoundTrip.Statement (.scmpImm f) := by
  intro w hw h
  cases h
  rw [decodeWord_encI _ _ _ (encI_ne_zero _ _ _ (.inr (by decide)))]
  exact congrArg Instr.scmpImm (iword_encI _ _ f)
theorem Laws.RoundTrip.sli (f : IWord) : Laws.RoundTrip.Statement (.sli f) := by
  intro w hw h
  cases h
  rw [decodeWord_encI _ _ _ (encI_ne_zero _ _ _ (.inr (by decide)))]
  exact congrArg Instr.sli (iword_encI _ _ f)
theorem Laws.RoundTrip.slih (f : IWord) : Laws.RoundTrip.Statement (.slih f) := by
  intro w hw h
  cases h
  rw [decodeWord_encI _ _ _ (encI_ne_zero _ _ _ (.inr (by decide)))]
  exact congrArg Instr.slih (iword_encI _ _ f)
theorem Laws.RoundTrip.aaddi (f : IWord) : Laws.RoundTrip.Statement (.aaddi f) := by
  intro w hw h
  cases h
  rw [decodeWord_encI _ _ _ (encI_ne_zero _ _ _ (.inr (by decide)))]
  exact congrArg Instr.aaddi (iword_encI _ _ f)
theorem Laws.RoundTrip.vadd (f : RWord) : Laws.RoundTrip.Statement (.vadd f) := by
  intro w hw h
  cases h
  rw [decodeWord_encR _ _ _ (encR_ne_zero _ _ _ (.inl (by decide)))]
  exact congrArg Instr.vadd (rword_encR _ _ f)
theorem Laws.RoundTrip.vsub (f : RWord) : Laws.RoundTrip.Statement (.vsub f) := by
  intro w hw h
  cases h
  rw [decodeWord_encR _ _ _ (encR_ne_zero _ _ _ (.inl (by decide)))]
  exact congrArg Instr.vsub (rword_encR _ _ f)
theorem Laws.RoundTrip.vmul (f : RWord) : Laws.RoundTrip.Statement (.vmul f) := by
  intro w hw h
  cases h
  rw [decodeWord_encR _ _ _ (encR_ne_zero _ _ _ (.inl (by decide)))]
  exact congrArg Instr.vmul (rword_encR _ _ f)
theorem Laws.RoundTrip.vmulh (f : RWord) : Laws.RoundTrip.Statement (.vmulh f) := by
  intro w hw h
  cases h
  rw [decodeWord_encR _ _ _ (encR_ne_zero _ _ _ (.inl (by decide)))]
  exact congrArg Instr.vmulh (rword_encR _ _ f)
theorem Laws.RoundTrip.vmad (f : RWord) : Laws.RoundTrip.Statement (.vmad f) := by
  intro w hw h
  cases h
  rw [decodeWord_encR _ _ _ (encR_ne_zero _ _ _ (.inl (by decide)))]
  exact congrArg Instr.vmad (rword_encR _ _ f)
theorem Laws.RoundTrip.vand (f : RWord) : Laws.RoundTrip.Statement (.vand f) := by
  intro w hw h
  cases h
  rw [decodeWord_encR _ _ _ (encR_ne_zero _ _ _ (.inl (by decide)))]
  exact congrArg Instr.vand (rword_encR _ _ f)
theorem Laws.RoundTrip.vor (f : RWord) : Laws.RoundTrip.Statement (.vor f) := by
  intro w hw h
  cases h
  rw [decodeWord_encR _ _ _ (encR_ne_zero _ _ _ (.inl (by decide)))]
  exact congrArg Instr.vor (rword_encR _ _ f)
theorem Laws.RoundTrip.vxor (f : RWord) : Laws.RoundTrip.Statement (.vxor f) := by
  intro w hw h
  cases h
  rw [decodeWord_encR _ _ _ (encR_ne_zero _ _ _ (.inl (by decide)))]
  exact congrArg Instr.vxor (rword_encR _ _ f)
theorem Laws.RoundTrip.vnot (f : RWord) : Laws.RoundTrip.Statement (.vnot f) := by
  intro w hw h
  cases h
  rw [decodeWord_encR _ _ _ (encR_ne_zero _ _ _ (.inl (by decide)))]
  exact congrArg Instr.vnot (rword_encR _ _ f)
theorem Laws.RoundTrip.vshl (f : RWord) : Laws.RoundTrip.Statement (.vshl f) := by
  intro w hw h
  cases h
  rw [decodeWord_encR _ _ _ (encR_ne_zero _ _ _ (.inl (by decide)))]
  exact congrArg Instr.vshl (rword_encR _ _ f)
theorem Laws.RoundTrip.vshr (f : RWord) : Laws.RoundTrip.Statement (.vshr f) := by
  intro w hw h
  cases h
  rw [decodeWord_encR _ _ _ (encR_ne_zero _ _ _ (.inl (by decide)))]
  exact congrArg Instr.vshr (rword_encR _ _ f)
theorem Laws.RoundTrip.vsar (f : RWord) : Laws.RoundTrip.Statement (.vsar f) := by
  intro w hw h
  cases h
  rw [decodeWord_encR _ _ _ (encR_ne_zero _ _ _ (.inl (by decide)))]
  exact congrArg Instr.vsar (rword_encR _ _ f)
theorem Laws.RoundTrip.vmin (f : RWord) : Laws.RoundTrip.Statement (.vmin f) := by
  intro w hw h
  cases h
  rw [decodeWord_encR _ _ _ (encR_ne_zero _ _ _ (.inl (by decide)))]
  exact congrArg Instr.vmin (rword_encR _ _ f)
theorem Laws.RoundTrip.vmax (f : RWord) : Laws.RoundTrip.Statement (.vmax f) := by
  intro w hw h
  cases h
  rw [decodeWord_encR _ _ _ (encR_ne_zero _ _ _ (.inl (by decide)))]
  exact congrArg Instr.vmax (rword_encR _ _ f)
theorem Laws.RoundTrip.vabs (f : RWord) : Laws.RoundTrip.Statement (.vabs f) := by
  intro w hw h
  cases h
  rw [decodeWord_encR _ _ _ (encR_ne_zero _ _ _ (.inl (by decide)))]
  exact congrArg Instr.vabs (rword_encR _ _ f)
theorem Laws.RoundTrip.vneg (f : RWord) : Laws.RoundTrip.Statement (.vneg f) := by
  intro w hw h
  cases h
  rw [decodeWord_encR _ _ _ (encR_ne_zero _ _ _ (.inl (by decide)))]
  exact congrArg Instr.vneg (rword_encR _ _ f)
theorem Laws.RoundTrip.vcmp (f : RWord) : Laws.RoundTrip.Statement (.vcmp f) := by
  intro w hw h
  cases h
  rw [decodeWord_encR _ _ _ (encR_ne_zero _ _ _ (.inl (by decide)))]
  exact congrArg Instr.vcmp (rword_encR _ _ f)
theorem Laws.RoundTrip.vsel (f : RWord) : Laws.RoundTrip.Statement (.vsel f) := by
  intro w hw h
  cases h
  rw [decodeWord_encR _ _ _ (encR_ne_zero _ _ _ (.inl (by decide)))]
  exact congrArg Instr.vsel (rword_encR _ _ f)
theorem Laws.RoundTrip.vmov (f : RWord) : Laws.RoundTrip.Statement (.vmov f) := by
  intro w hw h
  cases h
  rw [decodeWord_encR _ _ _ (encR_ne_zero _ _ _ (.inl (by decide)))]
  exact congrArg Instr.vmov (rword_encR _ _ f)
theorem Laws.RoundTrip.vbfe (f : RWord) : Laws.RoundTrip.Statement (.vbfe f) := by
  intro w hw h
  cases h
  rw [decodeWord_encR _ _ _ (encR_ne_zero _ _ _ (.inl (by decide)))]
  exact congrArg Instr.vbfe (rword_encR _ _ f)
theorem Laws.RoundTrip.vbfi (f : RWord) : Laws.RoundTrip.Statement (.vbfi f) := by
  intro w hw h
  cases h
  rw [decodeWord_encR _ _ _ (encR_ne_zero _ _ _ (.inl (by decide)))]
  exact congrArg Instr.vbfi (rword_encR _ _ f)
theorem Laws.RoundTrip.vpopc (f : RWord) : Laws.RoundTrip.Statement (.vpopc f) := by
  intro w hw h
  cases h
  rw [decodeWord_encR _ _ _ (encR_ne_zero _ _ _ (.inl (by decide)))]
  exact congrArg Instr.vpopc (rword_encR _ _ f)
theorem Laws.RoundTrip.vclz (f : RWord) : Laws.RoundTrip.Statement (.vclz f) := by
  intro w hw h
  cases h
  rw [decodeWord_encR _ _ _ (encR_ne_zero _ _ _ (.inl (by decide)))]
  exact congrArg Instr.vclz (rword_encR _ _ f)
theorem Laws.RoundTrip.vlane (f : RWord) : Laws.RoundTrip.Statement (.vlane f) := by
  intro w hw h
  cases h
  rw [decodeWord_encR _ _ _ (encR_ne_zero _ _ _ (.inl (by decide)))]
  exact congrArg Instr.vlane (rword_encR _ _ f)
theorem Laws.RoundTrip.vaddImm (f : IWord) : Laws.RoundTrip.Statement (.vaddImm f) := by
  intro w hw h
  cases h
  rw [decodeWord_encI _ _ _ (encI_ne_zero _ _ _ (.inl (by decide)))]
  exact congrArg Instr.vaddImm (iword_encI _ _ f)
theorem Laws.RoundTrip.vsubImm (f : IWord) : Laws.RoundTrip.Statement (.vsubImm f) := by
  intro w hw h
  cases h
  rw [decodeWord_encI _ _ _ (encI_ne_zero _ _ _ (.inl (by decide)))]
  exact congrArg Instr.vsubImm (iword_encI _ _ f)
theorem Laws.RoundTrip.vmulImm (f : IWord) : Laws.RoundTrip.Statement (.vmulImm f) := by
  intro w hw h
  cases h
  rw [decodeWord_encI _ _ _ (encI_ne_zero _ _ _ (.inl (by decide)))]
  exact congrArg Instr.vmulImm (iword_encI _ _ f)
theorem Laws.RoundTrip.vandImm (f : IWord) : Laws.RoundTrip.Statement (.vandImm f) := by
  intro w hw h
  cases h
  rw [decodeWord_encI _ _ _ (encI_ne_zero _ _ _ (.inl (by decide)))]
  exact congrArg Instr.vandImm (iword_encI _ _ f)
theorem Laws.RoundTrip.vorImm (f : IWord) : Laws.RoundTrip.Statement (.vorImm f) := by
  intro w hw h
  cases h
  rw [decodeWord_encI _ _ _ (encI_ne_zero _ _ _ (.inl (by decide)))]
  exact congrArg Instr.vorImm (iword_encI _ _ f)
theorem Laws.RoundTrip.vxorImm (f : IWord) : Laws.RoundTrip.Statement (.vxorImm f) := by
  intro w hw h
  cases h
  rw [decodeWord_encI _ _ _ (encI_ne_zero _ _ _ (.inl (by decide)))]
  exact congrArg Instr.vxorImm (iword_encI _ _ f)
theorem Laws.RoundTrip.vshlImm (f : IWord) : Laws.RoundTrip.Statement (.vshlImm f) := by
  intro w hw h
  cases h
  rw [decodeWord_encI _ _ _ (encI_ne_zero _ _ _ (.inl (by decide)))]
  exact congrArg Instr.vshlImm (iword_encI _ _ f)
theorem Laws.RoundTrip.vshrImm (f : IWord) : Laws.RoundTrip.Statement (.vshrImm f) := by
  intro w hw h
  cases h
  rw [decodeWord_encI _ _ _ (encI_ne_zero _ _ _ (.inl (by decide)))]
  exact congrArg Instr.vshrImm (iword_encI _ _ f)
theorem Laws.RoundTrip.vsarImm (f : IWord) : Laws.RoundTrip.Statement (.vsarImm f) := by
  intro w hw h
  cases h
  rw [decodeWord_encI _ _ _ (encI_ne_zero _ _ _ (.inl (by decide)))]
  exact congrArg Instr.vsarImm (iword_encI _ _ f)
theorem Laws.RoundTrip.vminImm (f : IWord) : Laws.RoundTrip.Statement (.vminImm f) := by
  intro w hw h
  cases h
  rw [decodeWord_encI _ _ _ (encI_ne_zero _ _ _ (.inl (by decide)))]
  exact congrArg Instr.vminImm (iword_encI _ _ f)
theorem Laws.RoundTrip.vmaxImm (f : IWord) : Laws.RoundTrip.Statement (.vmaxImm f) := by
  intro w hw h
  cases h
  rw [decodeWord_encI _ _ _ (encI_ne_zero _ _ _ (.inl (by decide)))]
  exact congrArg Instr.vmaxImm (iword_encI _ _ f)
theorem Laws.RoundTrip.vcmpImm (f : IWord) : Laws.RoundTrip.Statement (.vcmpImm f) := by
  intro w hw h
  cases h
  rw [decodeWord_encI _ _ _ (encI_ne_zero _ _ _ (.inl (by decide)))]
  exact congrArg Instr.vcmpImm (iword_encI _ _ f)
theorem Laws.RoundTrip.vmovImm (f : IWord) : Laws.RoundTrip.Statement (.vmovImm f) := by
  intro w hw h
  cases h
  rw [decodeWord_encI _ _ _ (encI_ne_zero _ _ _ (.inl (by decide)))]
  exact congrArg Instr.vmovImm (iword_encI _ _ f)
theorem Laws.RoundTrip.fadd (f : RWord) : Laws.RoundTrip.Statement (.fadd f) := by
  intro w hw h
  cases h
  rw [decodeWord_encR _ _ _ (encR_ne_zero _ _ _ (.inl (by decide)))]
  exact congrArg Instr.fadd (rword_encR _ _ f)
theorem Laws.RoundTrip.fsub (f : RWord) : Laws.RoundTrip.Statement (.fsub f) := by
  intro w hw h
  cases h
  rw [decodeWord_encR _ _ _ (encR_ne_zero _ _ _ (.inl (by decide)))]
  exact congrArg Instr.fsub (rword_encR _ _ f)
theorem Laws.RoundTrip.fmul (f : RWord) : Laws.RoundTrip.Statement (.fmul f) := by
  intro w hw h
  cases h
  rw [decodeWord_encR _ _ _ (encR_ne_zero _ _ _ (.inl (by decide)))]
  exact congrArg Instr.fmul (rword_encR _ _ f)
theorem Laws.RoundTrip.ffma (f : RWord) : Laws.RoundTrip.Statement (.ffma f) := by
  intro w hw h
  cases h
  rw [decodeWord_encR _ _ _ (encR_ne_zero _ _ _ (.inl (by decide)))]
  exact congrArg Instr.ffma (rword_encR _ _ f)
theorem Laws.RoundTrip.fmin (f : RWord) : Laws.RoundTrip.Statement (.fmin f) := by
  intro w hw h
  cases h
  rw [decodeWord_encR _ _ _ (encR_ne_zero _ _ _ (.inl (by decide)))]
  exact congrArg Instr.fmin (rword_encR _ _ f)
theorem Laws.RoundTrip.fmax (f : RWord) : Laws.RoundTrip.Statement (.fmax f) := by
  intro w hw h
  cases h
  rw [decodeWord_encR _ _ _ (encR_ne_zero _ _ _ (.inl (by decide)))]
  exact congrArg Instr.fmax (rword_encR _ _ f)
theorem Laws.RoundTrip.fabs (f : RWord) : Laws.RoundTrip.Statement (.fabs f) := by
  intro w hw h
  cases h
  rw [decodeWord_encR _ _ _ (encR_ne_zero _ _ _ (.inl (by decide)))]
  exact congrArg Instr.fabs (rword_encR _ _ f)
theorem Laws.RoundTrip.fneg (f : RWord) : Laws.RoundTrip.Statement (.fneg f) := by
  intro w hw h
  cases h
  rw [decodeWord_encR _ _ _ (encR_ne_zero _ _ _ (.inl (by decide)))]
  exact congrArg Instr.fneg (rword_encR _ _ f)
theorem Laws.RoundTrip.fcmp (f : RWord) : Laws.RoundTrip.Statement (.fcmp f) := by
  intro w hw h
  cases h
  rw [decodeWord_encR _ _ _ (encR_ne_zero _ _ _ (.inl (by decide)))]
  exact congrArg Instr.fcmp (rword_encR _ _ f)
theorem Laws.RoundTrip.frcp (f : RWord) : Laws.RoundTrip.Statement (.frcp f) := by
  intro w hw h
  cases h
  rw [decodeWord_encR _ _ _ (encR_ne_zero _ _ _ (.inl (by decide)))]
  exact congrArg Instr.frcp (rword_encR _ _ f)
theorem Laws.RoundTrip.frsq (f : RWord) : Laws.RoundTrip.Statement (.frsq f) := by
  intro w hw h
  cases h
  rw [decodeWord_encR _ _ _ (encR_ne_zero _ _ _ (.inl (by decide)))]
  exact congrArg Instr.frsq (rword_encR _ _ f)
theorem Laws.RoundTrip.fsqrt (f : RWord) : Laws.RoundTrip.Statement (.fsqrt f) := by
  intro w hw h
  cases h
  rw [decodeWord_encR _ _ _ (encR_ne_zero _ _ _ (.inl (by decide)))]
  exact congrArg Instr.fsqrt (rword_encR _ _ f)
theorem Laws.RoundTrip.fdiv (f : RWord) : Laws.RoundTrip.Statement (.fdiv f) := by
  intro w hw h
  cases h
  rw [decodeWord_encR _ _ _ (encR_ne_zero _ _ _ (.inl (by decide)))]
  exact congrArg Instr.fdiv (rword_encR _ _ f)
theorem Laws.RoundTrip.fexp2 (f : RWord) : Laws.RoundTrip.Statement (.fexp2 f) := by
  intro w hw h
  cases h
  rw [decodeWord_encR _ _ _ (encR_ne_zero _ _ _ (.inl (by decide)))]
  exact congrArg Instr.fexp2 (rword_encR _ _ f)
theorem Laws.RoundTrip.flog2 (f : RWord) : Laws.RoundTrip.Statement (.flog2 f) := by
  intro w hw h
  cases h
  rw [decodeWord_encR _ _ _ (encR_ne_zero _ _ _ (.inl (by decide)))]
  exact congrArg Instr.flog2 (rword_encR _ _ f)
theorem Laws.RoundTrip.fsin (f : RWord) : Laws.RoundTrip.Statement (.fsin f) := by
  intro w hw h
  cases h
  rw [decodeWord_encR _ _ _ (encR_ne_zero _ _ _ (.inl (by decide)))]
  exact congrArg Instr.fsin (rword_encR _ _ f)
theorem Laws.RoundTrip.fcos (f : RWord) : Laws.RoundTrip.Statement (.fcos f) := by
  intro w hw h
  cases h
  rw [decodeWord_encR _ _ _ (encR_ne_zero _ _ _ (.inl (by decide)))]
  exact congrArg Instr.fcos (rword_encR _ _ f)
theorem Laws.RoundTrip.frnd (f : RWord) : Laws.RoundTrip.Statement (.frnd f) := by
  intro w hw h
  cases h
  rw [decodeWord_encR _ _ _ (encR_ne_zero _ _ _ (.inl (by decide)))]
  exact congrArg Instr.frnd (rword_encR _ _ f)
theorem Laws.RoundTrip.hadd2 (f : RWord) : Laws.RoundTrip.Statement (.hadd2 f) := by
  intro w hw h
  cases h
  rw [decodeWord_encR _ _ _ (encR_ne_zero _ _ _ (.inl (by decide)))]
  exact congrArg Instr.hadd2 (rword_encR _ _ f)
theorem Laws.RoundTrip.hmul2 (f : RWord) : Laws.RoundTrip.Statement (.hmul2 f) := by
  intro w hw h
  cases h
  rw [decodeWord_encR _ _ _ (encR_ne_zero _ _ _ (.inl (by decide)))]
  exact congrArg Instr.hmul2 (rword_encR _ _ f)
theorem Laws.RoundTrip.hfma2 (f : RWord) : Laws.RoundTrip.Statement (.hfma2 f) := by
  intro w hw h
  cases h
  rw [decodeWord_encR _ _ _ (encR_ne_zero _ _ _ (.inl (by decide)))]
  exact congrArg Instr.hfma2 (rword_encR _ _ f)
theorem Laws.RoundTrip.vdot4 (f : RWord) : Laws.RoundTrip.Statement (.vdot4 f) := by
  intro w hw h
  cases h
  rw [decodeWord_encR _ _ _ (encR_ne_zero _ _ _ (.inl (by decide)))]
  exact congrArg Instr.vdot4 (rword_encR _ _ f)
theorem Laws.RoundTrip.vdot8 (f : RWord) : Laws.RoundTrip.Statement (.vdot8 f) := by
  intro w hw h
  cases h
  rw [decodeWord_encR _ _ _ (encR_ne_zero _ _ _ (.inl (by decide)))]
  exact congrArg Instr.vdot8 (rword_encR _ _ f)
theorem Laws.RoundTrip.faddImm (f : IWord) : Laws.RoundTrip.Statement (.faddImm f) := by
  intro w hw h
  cases h
  rw [decodeWord_encI _ _ _ (encI_ne_zero _ _ _ (.inl (by decide)))]
  exact congrArg Instr.faddImm (iword_encI _ _ f)
theorem Laws.RoundTrip.fsubImm (f : IWord) : Laws.RoundTrip.Statement (.fsubImm f) := by
  intro w hw h
  cases h
  rw [decodeWord_encI _ _ _ (encI_ne_zero _ _ _ (.inl (by decide)))]
  exact congrArg Instr.fsubImm (iword_encI _ _ f)
theorem Laws.RoundTrip.fmulImm (f : IWord) : Laws.RoundTrip.Statement (.fmulImm f) := by
  intro w hw h
  cases h
  rw [decodeWord_encI _ _ _ (encI_ne_zero _ _ _ (.inl (by decide)))]
  exact congrArg Instr.fmulImm (iword_encI _ _ f)
theorem Laws.RoundTrip.fminImm (f : IWord) : Laws.RoundTrip.Statement (.fminImm f) := by
  intro w hw h
  cases h
  rw [decodeWord_encI _ _ _ (encI_ne_zero _ _ _ (.inl (by decide)))]
  exact congrArg Instr.fminImm (iword_encI _ _ f)
theorem Laws.RoundTrip.fmaxImm (f : IWord) : Laws.RoundTrip.Statement (.fmaxImm f) := by
  intro w hw h
  cases h
  rw [decodeWord_encI _ _ _ (encI_ne_zero _ _ _ (.inl (by decide)))]
  exact congrArg Instr.fmaxImm (iword_encI _ _ f)
theorem Laws.RoundTrip.fcmpImm (f : IWord) : Laws.RoundTrip.Statement (.fcmpImm f) := by
  intro w hw h
  cases h
  rw [decodeWord_encI _ _ _ (encI_ne_zero _ _ _ (.inl (by decide)))]
  exact congrArg Instr.fcmpImm (iword_encI _ _ f)
theorem Laws.RoundTrip.cvt (f : RWord) : Laws.RoundTrip.Statement (.cvt f) := by
  intro w hw h
  cases h
  rw [decodeWord_encR _ _ _ (encR_ne_zero _ _ _ (.inl (by decide)))]
  exact congrArg Instr.cvt (rword_encR _ _ f)
theorem Laws.RoundTrip.cvts (f : RWord) : Laws.RoundTrip.Statement (.cvts f) := by
  intro w hw h
  cases h
  rw [decodeWord_encR _ _ _ (encR_ne_zero _ _ _ (.inl (by decide)))]
  exact congrArg Instr.cvts (rword_encR _ _ f)
theorem Laws.RoundTrip.cvtp (f : RWord) : Laws.RoundTrip.Statement (.cvtp f) := by
  intro w hw h
  cases h
  rw [decodeWord_encR _ _ _ (encR_ne_zero _ _ _ (.inl (by decide)))]
  exact congrArg Instr.cvtp (rword_encR _ _ f)
theorem Laws.RoundTrip.vshfl (f : RWord) : Laws.RoundTrip.Statement (.vshfl f) := by
  intro w hw h
  cases h
  rw [decodeWord_encR _ _ _ (encR_ne_zero _ _ _ (.inl (by decide)))]
  exact congrArg Instr.vshfl (rword_encR _ _ f)
theorem Laws.RoundTrip.vbcast (f : RWord) : Laws.RoundTrip.Statement (.vbcast f) := by
  intro w hw h
  cases h
  rw [decodeWord_encR _ _ _ (encR_ne_zero _ _ _ (.inl (by decide)))]
  exact congrArg Instr.vbcast (rword_encR _ _ f)
theorem Laws.RoundTrip.vred (f : RWord) : Laws.RoundTrip.Statement (.vred f) := by
  intro w hw h
  cases h
  rw [decodeWord_encR _ _ _ (encR_ne_zero _ _ _ (.inl (by decide)))]
  exact congrArg Instr.vred (rword_encR _ _ f)
theorem Laws.RoundTrip.vscan (f : RWord) : Laws.RoundTrip.Statement (.vscan f) := by
  intro w hw h
  cases h
  rw [decodeWord_encR _ _ _ (encR_ne_zero _ _ _ (.inl (by decide)))]
  exact congrArg Instr.vscan (rword_encR _ _ f)
theorem Laws.RoundTrip.vvote (f : RWord) : Laws.RoundTrip.Statement (.vvote f) := by
  intro w hw h
  cases h
  rw [decodeWord_encR _ _ _ (encR_ne_zero _ _ _ (.inl (by decide)))]
  exact congrArg Instr.vvote (rword_encR _ _ f)
theorem Laws.RoundTrip.br (f : IWord) : Laws.RoundTrip.Statement (.br f) := by
  intro w hw h
  cases h
  rw [decodeWord_encI _ _ _ (encI_ne_zero _ _ _ (.inl (by decide)))]
  exact congrArg Instr.br (iword_encI _ _ f)
theorem Laws.RoundTrip.brk (f : IWord) : Laws.RoundTrip.Statement (.brk f) := by
  intro w hw h
  cases h
  rw [decodeWord_encI _ _ _ (encI_ne_zero _ _ _ (.inl (by decide)))]
  exact congrArg Instr.brk (iword_encI _ _ f)
theorem Laws.RoundTrip.brx (f : RWord) : Laws.RoundTrip.Statement (.brx f) := by
  intro w hw h
  cases h
  rw [decodeWord_encR _ _ _ (encR_ne_zero _ _ _ (.inl (by decide)))]
  exact congrArg Instr.brx (rword_encR _ _ f)
theorem Laws.RoundTrip.call (f : IWord) : Laws.RoundTrip.Statement (.call f) := by
  intro w hw h
  cases h
  rw [decodeWord_encI _ _ _ (encI_ne_zero _ _ _ (.inl (by decide)))]
  exact congrArg Instr.call (iword_encI _ _ f)
theorem Laws.RoundTrip.ret (f : RWord) : Laws.RoundTrip.Statement (.ret f) := by
  intro w hw h
  cases h
  rw [decodeWord_encR _ _ _ (encR_ne_zero _ _ _ (.inl (by decide)))]
  exact congrArg Instr.ret (rword_encR _ _ f)
theorem Laws.RoundTrip.yield (f : RWord) : Laws.RoundTrip.Statement (.yield f) := by
  intro w hw h
  cases h
  rw [decodeWord_encR _ _ _ (encR_ne_zero _ _ _ (.inl (by decide)))]
  exact congrArg Instr.yield (rword_encR _ _ f)
theorem Laws.RoundTrip.join (f : RWord) : Laws.RoundTrip.Statement (.join f) := by
  intro w hw h
  cases h
  rw [decodeWord_encR _ _ _ (encR_ne_zero _ _ _ (.inl (by decide)))]
  exact congrArg Instr.join (rword_encR _ _ f)
theorem Laws.RoundTrip.prio (f : RWord) : Laws.RoundTrip.Statement (.prio f) := by
  intro w hw h
  cases h
  rw [decodeWord_encR _ _ _ (encR_ne_zero _ _ _ (.inl (by decide)))]
  exact congrArg Instr.prio (rword_encR _ _ f)
theorem Laws.RoundTrip.exit (f : RWord) : Laws.RoundTrip.Statement (.exit f) := by
  intro w hw h
  cases h
  rw [decodeWord_encR _ _ _ (encR_ne_zero _ _ _ (.inl (by decide)))]
  exact congrArg Instr.exit (rword_encR _ _ f)
theorem Laws.RoundTrip.nop (f : RWord) : Laws.RoundTrip.Statement (.nop f) := by
  intro w hw h
  cases h
  rw [decodeWord_encR _ _ _ (encR_ne_zero _ _ _ (.inl (by decide)))]
  exact congrArg Instr.nop (rword_encR _ _ f)
theorem Laws.RoundTrip.spinw (f : RWord) : Laws.RoundTrip.Statement (.spinw f) := by
  intro w hw h
  cases h
  rw [decodeWord_encR _ _ _ (encR_ne_zero _ _ _ (.inl (by decide)))]
  exact congrArg Instr.spinw (rword_encR _ _ f)
theorem Laws.RoundTrip.trap (f : RWord) : Laws.RoundTrip.Statement (.trap f) := by
  intro w hw h
  cases h
  rw [decodeWord_encR _ _ _ (encR_ne_zero _ _ _ (.inl (by decide)))]
  exact congrArg Instr.trap (rword_encR _ _ f)
theorem Laws.RoundTrip.tret (f : RWord) : Laws.RoundTrip.Statement (.tret f) := by
  intro w hw h
  cases h
  rw [decodeWord_encR _ _ _ (encR_ne_zero _ _ _ (.inl (by decide)))]
  exact congrArg Instr.tret (rword_encR _ _ f)
theorem Laws.RoundTrip.sysr (f : RWord) : Laws.RoundTrip.Statement (.sysr f) := by
  intro w hw h
  cases h
  rw [decodeWord_encR _ _ _ (encR_ne_zero _ _ _ (.inl (by decide)))]
  exact congrArg Instr.sysr (rword_encR _ _ f)
theorem Laws.RoundTrip.sysw (f : RWord) : Laws.RoundTrip.Statement (.sysw f) := by
  intro w hw h
  cases h
  rw [decodeWord_encR _ _ _ (encR_ne_zero _ _ _ (.inl (by decide)))]
  have hv : (Instr.sysw f).variantOk = true := by
    simp only [Instr.wellFormed, Bool.and_eq_true] at hw
    exact hw.1.2
  show decodeClass5 3 (encR 5 0x03 f) = _
  simp [Instr.variantOk] at hv
  simp [decodeClass5, hv]
theorem Laws.RoundTrip.syswFpmode (f : RWord) : Laws.RoundTrip.Statement (.syswFpmode f) := by
  intro w hw h
  cases h
  rw [decodeWord_encR _ _ _ (encR_ne_zero _ _ _ (.inl (by decide)))]
  have hv : (Instr.syswFpmode f).variantOk = true := by
    simp only [Instr.wellFormed, Bool.and_eq_true] at hw
    exact hw.1.2
  show decodeClass5 3 (encR 5 0x03 f) = _
  simp [Instr.variantOk] at hv
  simp [decodeClass5, hv]
theorem Laws.RoundTrip.syswAgelim (f : RWord) : Laws.RoundTrip.Statement (.syswAgelim f) := by
  intro w hw h
  cases h
  rw [decodeWord_encR _ _ _ (encR_ne_zero _ _ _ (.inl (by decide)))]
  have hv : (Instr.syswAgelim f).variantOk = true := by
    simp only [Instr.wellFormed, Bool.and_eq_true] at hw
    exact hw.1.2
  show decodeClass5 3 (encR 5 0x03 f) = _
  simp [Instr.variantOk] at hv
  simp [decodeClass5, hv]
theorem Laws.RoundTrip.syswVtcmp (f : RWord) : Laws.RoundTrip.Statement (.syswVtcmp f) := by
  intro w hw h
  cases h
  rw [decodeWord_encR _ _ _ (encR_ne_zero _ _ _ (.inl (by decide)))]
  have hv : (Instr.syswVtcmp f).variantOk = true := by
    simp only [Instr.wellFormed, Bool.and_eq_true] at hw
    exact hw.1.2
  show decodeClass5 3 (encR 5 0x03 f) = _
  simp [Instr.variantOk] at hv
  simp [decodeClass5, hv]
theorem Laws.RoundTrip.syswDeadline (f : RWord) : Laws.RoundTrip.Statement (.syswDeadline f) := by
  intro w hw h
  cases h
  rw [decodeWord_encR _ _ _ (encR_ne_zero _ _ _ (.inl (by decide)))]
  have hv : (Instr.syswDeadline f).variantOk = true := by
    simp only [Instr.wellFormed, Bool.and_eq_true] at hw
    exact hw.1.2
  show decodeClass5 3 (encR 5 0x03 f) = _
  simp [Instr.variantOk] at hv
  simp [decodeClass5, hv]
theorem Laws.RoundTrip.syswPushq (f : RWord) : Laws.RoundTrip.Statement (.syswPushq f) := by
  intro w hw h
  cases h
  rw [decodeWord_encR _ _ _ (encR_ne_zero _ _ _ (.inl (by decide)))]
  have hv : (Instr.syswPushq f).variantOk = true := by
    simp only [Instr.wellFormed, Bool.and_eq_true] at hw
    exact hw.1.2
  show decodeClass5 3 (encR 5 0x03 f) = _
  simp [Instr.variantOk] at hv
  simp [decodeClass5, hv]
theorem Laws.RoundTrip.cyc (f : RWord) : Laws.RoundTrip.Statement (.cyc f) := by
  intro w hw h
  cases h
  rw [decodeWord_encR _ _ _ (encR_ne_zero _ _ _ (.inl (by decide)))]
  have hv : (Instr.cyc f).variantOk = true := by
    simp only [Instr.wellFormed, Bool.and_eq_true] at hw
    exact hw.1.2
  show decodeClass5 4 (encR 5 0x04 f) = _
  simp [Instr.variantOk] at hv
  simp [decodeClass5, hv]
theorem Laws.RoundTrip.cycVt (f : RWord) : Laws.RoundTrip.Statement (.cycVt f) := by
  intro w hw h
  cases h
  rw [decodeWord_encR _ _ _ (encR_ne_zero _ _ _ (.inl (by decide)))]
  have hv : (Instr.cycVt f).variantOk = true := by
    simp only [Instr.wellFormed, Bool.and_eq_true] at hw
    exact hw.1.2
  show decodeClass5 4 (encR 5 0x04 f) = _
  simp [Instr.variantOk] at hv
  simp [decodeClass5, hv]
theorem Laws.RoundTrip.tarm (f : RWord) : Laws.RoundTrip.Statement (.tarm f) := by
  intro w hw h
  cases h
  rw [decodeWord_encR _ _ _ (encR_ne_zero _ _ _ (.inl (by decide)))]
  have hv : (Instr.tarm f).variantOk = true := by
    simp only [Instr.wellFormed, Bool.and_eq_true] at hw
    exact hw.1.2
  show decodeClass5 5 (encR 5 0x05 f) = _
  simp [Instr.variantOk] at hv
  simp [decodeClass5, hv]
theorem Laws.RoundTrip.tarmDl (f : RWord) : Laws.RoundTrip.Statement (.tarmDl f) := by
  intro w hw h
  cases h
  rw [decodeWord_encR _ _ _ (encR_ne_zero _ _ _ (.inl (by decide)))]
  have hv : (Instr.tarmDl f).variantOk = true := by
    simp only [Instr.wellFormed, Bool.and_eq_true] at hw
    exact hw.1.2
  show decodeClass5 5 (encR 5 0x05 f) = _
  simp [Instr.variantOk] at hv
  simp [decodeClass5, hv]
theorem Laws.RoundTrip.pmonRd (f : RWord) : Laws.RoundTrip.Statement (.pmonRd f) := by
  intro w hw h
  cases h
  rw [decodeWord_encR _ _ _ (encR_ne_zero _ _ _ (.inl (by decide)))]
  have hv : (Instr.pmonRd f).variantOk = true := by
    simp only [Instr.wellFormed, Bool.and_eq_true] at hw
    exact hw.1.2
  show decodeClass5 6 (encR 5 0x06 f) = _
  simp [Instr.variantOk] at hv
  simp [decodeClass5, hv]
theorem Laws.RoundTrip.pmonSel (f : RWord) : Laws.RoundTrip.Statement (.pmonSel f) := by
  intro w hw h
  cases h
  rw [decodeWord_encR _ _ _ (encR_ne_zero _ _ _ (.inl (by decide)))]
  have hv : (Instr.pmonSel f).variantOk = true := by
    simp only [Instr.wellFormed, Bool.and_eq_true] at hw
    exact hw.1.2
  show decodeClass5 6 (encR 5 0x06 f) = _
  simp [Instr.variantOk] at hv
  simp [decodeClass5, hv]
theorem Laws.RoundTrip.pmonClr (f : RWord) : Laws.RoundTrip.Statement (.pmonClr f) := by
  intro w hw h
  cases h
  rw [decodeWord_encR _ _ _ (encR_ne_zero _ _ _ (.inl (by decide)))]
  have hv : (Instr.pmonClr f).variantOk = true := by
    simp only [Instr.wellFormed, Bool.and_eq_true] at hw
    exact hw.1.2
  show decodeClass5 6 (encR 5 0x06 f) = _
  simp [Instr.variantOk] at hv
  simp [decodeClass5, hv]
theorem Laws.RoundTrip.bkpt (f : RWord) : Laws.RoundTrip.Statement (.bkpt f) := by
  intro w hw h
  cases h
  rw [decodeWord_encR _ _ _ (encR_ne_zero _ _ _ (.inl (by decide)))]
  exact congrArg Instr.bkpt (rword_encR _ _ f)
theorem Laws.RoundTrip.cwb (f : RWord) : Laws.RoundTrip.Statement (.cwb f) := by
  intro w hw h
  cases h
  rw [decodeWord_encR _ _ _ (encR_ne_zero _ _ _ (.inl (by decide)))]
  exact congrArg Instr.cwb (rword_encR _ _ f)
theorem Laws.RoundTrip.cinvL1 (f : RWord) : Laws.RoundTrip.Statement (.cinvL1 f) := by
  intro w hw h
  cases h
  rw [decodeWord_encR _ _ _ (encR_ne_zero _ _ _ (.inl (by decide)))]
  have hv : (Instr.cinvL1 f).variantOk = true := by
    simp only [Instr.wellFormed, Bool.and_eq_true] at hw
    exact hw.1.2
  show decodeClass5 9 (encR 5 0x09 f) = _
  simp [Instr.variantOk] at hv
  simp [decodeClass5, hv]
theorem Laws.RoundTrip.cinvL2 (f : RWord) : Laws.RoundTrip.Statement (.cinvL2 f) := by
  intro w hw h
  cases h
  rw [decodeWord_encR _ _ _ (encR_ne_zero _ _ _ (.inl (by decide)))]
  have hv : (Instr.cinvL2 f).variantOk = true := by
    simp only [Instr.wellFormed, Bool.and_eq_true] at hw
    exact hw.1.2
  show decodeClass5 9 (encR 5 0x09 f) = _
  simp [Instr.variantOk] at hv
  simp [decodeClass5, hv]
theorem Laws.RoundTrip.tlbiVa (f : RWord) : Laws.RoundTrip.Statement (.tlbiVa f) := by
  intro w hw h
  cases h
  rw [decodeWord_encR _ _ _ (encR_ne_zero _ _ _ (.inl (by decide)))]
  have hv : (Instr.tlbiVa f).variantOk = true := by
    simp only [Instr.wellFormed, Bool.and_eq_true] at hw
    exact hw.1.2
  show decodeClass5 10 (encR 5 0x0A f) = _
  simp [Instr.variantOk] at hv
  simp [decodeClass5, hv]
theorem Laws.RoundTrip.tlbiAsid (f : RWord) : Laws.RoundTrip.Statement (.tlbiAsid f) := by
  intro w hw h
  cases h
  rw [decodeWord_encR _ _ _ (encR_ne_zero _ _ _ (.inl (by decide)))]
  have hv : (Instr.tlbiAsid f).variantOk = true := by
    simp only [Instr.wellFormed, Bool.and_eq_true] at hw
    exact hw.1.2
  show decodeClass5 10 (encR 5 0x0A f) = _
  simp [Instr.variantOk] at hv
  simp [decodeClass5, hv]
theorem Laws.RoundTrip.tlbiAll (f : RWord) : Laws.RoundTrip.Statement (.tlbiAll f) := by
  intro w hw h
  cases h
  rw [decodeWord_encR _ _ _ (encR_ne_zero _ _ _ (.inl (by decide)))]
  have hv : (Instr.tlbiAll f).variantOk = true := by
    simp only [Instr.wellFormed, Bool.and_eq_true] at hw
    exact hw.1.2
  show decodeClass5 10 (encR 5 0x0A f) = _
  simp [Instr.variantOk] at hv
  simp [decodeClass5, hv]
theorem Laws.RoundTrip.wake (f : RWord) : Laws.RoundTrip.Statement (.wake f) := by
  intro w hw h
  cases h
  rw [decodeWord_encR _ _ _ (encR_ne_zero _ _ _ (.inl (by decide)))]
  exact congrArg Instr.wake (rword_encR _ _ f)
theorem Laws.RoundTrip.pgate (f : RWord) : Laws.RoundTrip.Statement (.pgate f) := by
  intro w hw h
  cases h
  rw [decodeWord_encR _ _ _ (encR_ne_zero _ _ _ (.inl (by decide)))]
  exact congrArg Instr.pgate (rword_encR _ _ f)
theorem Laws.RoundTrip.mode (f : RWord) : Laws.RoundTrip.Statement (.mode f) := by
  intro w hw h
  cases h
  rw [decodeWord_encR _ _ _ (encR_ne_zero _ _ _ (.inl (by decide)))]
  have hv : (Instr.mode f).variantOk = true := by
    simp only [Instr.wellFormed, Bool.and_eq_true] at hw
    exact hw.1.2
  show decodeClass5 13 (encR 5 0x0D f) = _
  simp [Instr.variantOk] at hv
  simp [decodeClass5, hv]
theorem Laws.RoundTrip.modeRd (f : RWord) : Laws.RoundTrip.Statement (.modeRd f) := by
  intro w hw h
  cases h
  rw [decodeWord_encR _ _ _ (encR_ne_zero _ _ _ (.inl (by decide)))]
  have hv : (Instr.modeRd f).variantOk = true := by
    simp only [Instr.wellFormed, Bool.and_eq_true] at hw
    exact hw.1.2
  show decodeClass5 13 (encR 5 0x0D f) = _
  simp [Instr.variantOk] at hv
  simp [decodeClass5, hv]
theorem Laws.RoundTrip.ld (f : RWord) : Laws.RoundTrip.Statement (.ld f) := by
  intro w hw h
  cases h
  rw [decodeWord_encR _ _ _ (encR_ne_zero _ _ _ (.inl (by decide)))]
  exact congrArg Instr.ld (rword_encR _ _ f)
theorem Laws.RoundTrip.ldRep (f : RWord) : Laws.RoundTrip.Statement (.ldRep f) := by
  intro w hw h
  cases h
  rw [decodeWord_encR _ _ _ (encR_ne_zero _ _ _ (.inl (by decide)))]
  exact congrArg Instr.ldRep (rword_encR _ _ f)
theorem Laws.RoundTrip.ldu (f : RWord) : Laws.RoundTrip.Statement (.ldu f) := by
  intro w hw h
  cases h
  rw [decodeWord_encR _ _ _ (encR_ne_zero _ _ _ (.inl (by decide)))]
  exact congrArg Instr.ldu (rword_encR _ _ f)
theorem Laws.RoundTrip.lduRep (f : RWord) : Laws.RoundTrip.Statement (.lduRep f) := by
  intro w hw h
  cases h
  rw [decodeWord_encR _ _ _ (encR_ne_zero _ _ _ (.inl (by decide)))]
  exact congrArg Instr.lduRep (rword_encR _ _ f)
theorem Laws.RoundTrip.lda (f : RWord) : Laws.RoundTrip.Statement (.lda f) := by
  intro w hw h
  cases h
  rw [decodeWord_encR _ _ _ (encR_ne_zero _ _ _ (.inl (by decide)))]
  exact congrArg Instr.lda (rword_encR _ _ f)
theorem Laws.RoundTrip.ldl (f : RWord) : Laws.RoundTrip.Statement (.ldl f) := by
  intro w hw h
  cases h
  rw [decodeWord_encR _ _ _ (encR_ne_zero _ _ _ (.inl (by decide)))]
  exact congrArg Instr.ldl (rword_encR _ _ f)
theorem Laws.RoundTrip.ldt (f : RWord) : Laws.RoundTrip.Statement (.ldt f) := by
  intro w hw h
  cases h
  rw [decodeWord_encR _ _ _ (encR_ne_zero _ _ _ (.inl (by decide)))]
  exact congrArg Instr.ldt (rword_encR _ _ f)
theorem Laws.RoundTrip.ldv (f : RWord) : Laws.RoundTrip.Statement (.ldv f) := by
  intro w hw h
  cases h
  rw [decodeWord_encR _ _ _ (encR_ne_zero _ _ _ (.inl (by decide)))]
  exact congrArg Instr.ldv (rword_encR _ _ f)
theorem Laws.RoundTrip.pref (f : RWord) : Laws.RoundTrip.Statement (.pref f) := by
  intro w hw h
  cases h
  rw [decodeWord_encR _ _ _ (encR_ne_zero _ _ _ (.inl (by decide)))]
  exact congrArg Instr.pref (rword_encR _ _ f)
theorem Laws.RoundTrip.st (f : RWord) : Laws.RoundTrip.Statement (.st f) := by
  intro w hw h
  cases h
  rw [decodeWord_encR _ _ _ (encR_ne_zero _ _ _ (.inl (by decide)))]
  exact congrArg Instr.st (rword_encR _ _ f)
theorem Laws.RoundTrip.stu (f : RWord) : Laws.RoundTrip.Statement (.stu f) := by
  intro w hw h
  cases h
  rw [decodeWord_encR _ _ _ (encR_ne_zero _ _ _ (.inl (by decide)))]
  exact congrArg Instr.stu (rword_encR _ _ f)
theorem Laws.RoundTrip.strl (f : RWord) : Laws.RoundTrip.Statement (.strl f) := by
  intro w hw h
  cases h
  rw [decodeWord_encR _ _ _ (encR_ne_zero _ _ _ (.inl (by decide)))]
  exact congrArg Instr.strl (rword_encR _ _ f)
theorem Laws.RoundTrip.stl (f : RWord) : Laws.RoundTrip.Statement (.stl f) := by
  intro w hw h
  cases h
  rw [decodeWord_encR _ _ _ (encR_ne_zero _ _ _ (.inl (by decide)))]
  exact congrArg Instr.stl (rword_encR _ _ f)
theorem Laws.RoundTrip.stv (f : RWord) : Laws.RoundTrip.Statement (.stv f) := by
  intro w hw h
  cases h
  rw [decodeWord_encR _ _ _ (encR_ne_zero _ _ _ (.inl (by decide)))]
  exact congrArg Instr.stv (rword_encR _ _ f)
theorem Laws.RoundTrip.pour (f : RWord) : Laws.RoundTrip.Statement (.pour f) := by
  intro w hw h
  cases h
  rw [decodeWord_encR _ _ _ (encR_ne_zero _ _ _ (.inl (by decide)))]
  exact congrArg Instr.pour (rword_encR _ _ f)
theorem Laws.RoundTrip.atom (f : RWord) : Laws.RoundTrip.Statement (.atom f) := by
  intro w hw h
  cases h
  rw [decodeWord_encR _ _ _ (encR_ne_zero _ _ _ (.inl (by decide)))]
  exact congrArg Instr.atom (rword_encR _ _ f)
theorem Laws.RoundTrip.atomn (f : RWord) : Laws.RoundTrip.Statement (.atomn f) := by
  intro w hw h
  cases h
  rw [decodeWord_encR _ _ _ (encR_ne_zero _ _ _ (.inl (by decide)))]
  exact congrArg Instr.atomn (rword_encR _ _ f)
theorem Laws.RoundTrip.cas (f : RWord) : Laws.RoundTrip.Statement (.cas f) := by
  intro w hw h
  cases h
  rw [decodeWord_encR _ _ _ (encR_ne_zero _ _ _ (.inl (by decide)))]
  exact congrArg Instr.cas (rword_encR _ _ f)
theorem Laws.RoundTrip.fence (f : RWord) : Laws.RoundTrip.Statement (.fence f) := by
  intro w hw h
  cases h
  rw [decodeWord_encR _ _ _ (encR_ne_zero _ _ _ (.inl (by decide)))]
  exact congrArg Instr.fence (rword_encR _ _ f)
theorem Laws.RoundTrip.cpy (f : RWord) : Laws.RoundTrip.Statement (.cpy f) := by
  intro w hw h
  cases h
  rw [decodeWord_encR _ _ _ (encR_ne_zero _ _ _ (.inl (by decide)))]
  exact congrArg Instr.cpy (rword_encR _ _ f)
theorem Laws.RoundTrip.cpyt (f : RWord) : Laws.RoundTrip.Statement (.cpyt f) := by
  intro w hw h
  cases h
  rw [decodeWord_encR _ _ _ (encR_ne_zero _ _ _ (.inl (by decide)))]
  have hv : (Instr.cpyt f).variantOk = true := by
    simp only [Instr.wellFormed, Bool.and_eq_true] at hw
    exact hw.1.2
  show decodeClass8 1 (encR 8 0x01 f) = _
  simp [Instr.variantOk] at hv
  simp [decodeClass8, hv]
theorem Laws.RoundTrip.cpytPinit (f : RWord) : Laws.RoundTrip.Statement (.cpytPinit f) := by
  intro w hw h
  cases h
  rw [decodeWord_encR _ _ _ (encR_ne_zero _ _ _ (.inl (by decide)))]
  have hv : (Instr.cpytPinit f).variantOk = true := by
    simp only [Instr.wellFormed, Bool.and_eq_true] at hw
    exact hw.1.2
  show decodeClass8 1 (encR 8 0x01 f) = _
  simp [Instr.variantOk] at hv
  simp [decodeClass8, hv]
theorem Laws.RoundTrip.slinit (f : RWord) : Laws.RoundTrip.Statement (.slinit f) := by
  intro w hw h
  cases h
  rw [decodeWord_encR _ _ _ (encR_ne_zero _ _ _ (.inl (by decide)))]
  exact congrArg Instr.slinit (rword_encR _ _ f)
theorem Laws.RoundTrip.slarr (f : RWord) : Laws.RoundTrip.Statement (.slarr f) := by
  intro w hw h
  cases h
  rw [decodeWord_encR _ _ _ (encR_ne_zero _ _ _ (.inl (by decide)))]
  exact congrArg Instr.slarr (rword_encR _ _ f)
theorem Laws.RoundTrip.slwait (f : RWord) : Laws.RoundTrip.Statement (.slwait f) := by
  intro w hw h
  cases h
  rw [decodeWord_encR _ _ _ (encR_ne_zero _ _ _ (.inl (by decide)))]
  exact congrArg Instr.slwait (rword_encR _ _ f)
theorem Laws.RoundTrip.skim (f : RWord) : Laws.RoundTrip.Statement (.skim f) := by
  intro w hw h
  cases h
  rw [decodeWord_encR _ _ _ (encR_ne_zero _ _ _ (.inl (by decide)))]
  exact congrArg Instr.skim (rword_encR _ _ f)
theorem Laws.RoundTrip.drossRd (f : RWord) : Laws.RoundTrip.Statement (.drossRd f) := by
  intro w hw h
  cases h
  rw [decodeWord_encR _ _ _ (encR_ne_zero _ _ _ (.inl (by decide)))]
  have hv : (Instr.drossRd f).variantOk = true := by
    simp only [Instr.wellFormed, Bool.and_eq_true] at hw
    exact hw.1.2
  show decodeClass8 17 (encR 8 0x11 f) = _
  simp [Instr.variantOk] at hv
  simp [decodeClass8, hv]
theorem Laws.RoundTrip.drossClr (f : RWord) : Laws.RoundTrip.Statement (.drossClr f) := by
  intro w hw h
  cases h
  rw [decodeWord_encR _ _ _ (encR_ne_zero _ _ _ (.inl (by decide)))]
  have hv : (Instr.drossClr f).variantOk = true := by
    simp only [Instr.wellFormed, Bool.and_eq_true] at hw
    exact hw.1.2
  show decodeClass8 17 (encR 8 0x11 f) = _
  simp [Instr.variantOk] at hv
  simp [decodeClass8, hv]
theorem Laws.RoundTrip.bin (f : RWord) : Laws.RoundTrip.Statement (.bin f) := by
  intro w hw h
  cases h
  rw [decodeWord_encR _ _ _ (encR_ne_zero _ _ _ (.inl (by decide)))]
  exact congrArg Instr.bin (rword_encR _ _ f)
theorem Laws.RoundTrip.bpatch (f : RWord) : Laws.RoundTrip.Statement (.bpatch f) := by
  intro w hw h
  cases h
  rw [decodeWord_encR _ _ _ (encR_ne_zero _ _ _ (.inl (by decide)))]
  exact congrArg Instr.bpatch (rword_encR _ _ f)
theorem Laws.RoundTrip.erls (f : RWord) : Laws.RoundTrip.Statement (.erls f) := by
  intro w hw h
  cases h
  rw [decodeWord_encR _ _ _ (encR_ne_zero _ _ _ (.inl (by decide)))]
  exact congrArg Instr.erls (rword_encR _ _ f)
theorem Laws.RoundTrip.bar (f : RWord) : Laws.RoundTrip.Statement (.bar f) := by
  intro w hw h
  cases h
  rw [decodeWord_encR _ _ _ (encR_ne_zero _ _ _ (.inl (by decide)))]
  exact congrArg Instr.bar (rword_encR _ _ f)
theorem Laws.RoundTrip.phase (f : RWord) : Laws.RoundTrip.Statement (.phase f) := by
  intro w hw h
  cases h
  rw [decodeWord_encR _ _ _ (encR_ne_zero _ _ _ (.inl (by decide)))]
  exact congrArg Instr.phase (rword_encR _ _ f)
theorem Laws.RoundTrip.carryRegs (f : RWord) : Laws.RoundTrip.Statement (.carryRegs f) := by
  intro w hw h
  cases h
  rw [decodeWord_encR _ _ _ (encR_ne_zero _ _ _ (.inl (by decide)))]
  have hv : (Instr.carryRegs f).variantOk = true := by
    simp only [Instr.wellFormed, Bool.and_eq_true] at hw
    exact hw.1.2
  show decodeClass9 2 (encR 9 0x02 f) = _
  simp [Instr.variantOk] at hv
  simp [decodeClass9, hv]
theorem Laws.RoundTrip.carryLs (f : RWord) : Laws.RoundTrip.Statement (.carryLs f) := by
  intro w hw h
  cases h
  rw [decodeWord_encR _ _ _ (encR_ne_zero _ _ _ (.inl (by decide)))]
  have hv : (Instr.carryLs f).variantOk = true := by
    simp only [Instr.wellFormed, Bool.and_eq_true] at hw
    exact hw.1.2
  show decodeClass9 2 (encR 9 0x02 f) = _
  simp [Instr.variantOk] at hv
  simp [decodeClass9, hv]
theorem Laws.RoundTrip.vgive (f : RWord) : Laws.RoundTrip.Statement (.vgive f) := by
  intro w hw h
  cases h
  rw [decodeWord_encR _ _ _ (encR_ne_zero _ _ _ (.inl (by decide)))]
  exact congrArg Instr.vgive (rword_encR _ _ f)
theorem Laws.RoundTrip.vclaim (f : RWord) : Laws.RoundTrip.Statement (.vclaim f) := by
  intro w hw h
  cases h
  rw [decodeWord_encR _ _ _ (encR_ne_zero _ _ _ (.inl (by decide)))]
  exact congrArg Instr.vclaim (rword_encR _ _ f)
theorem Laws.RoundTrip.enq (f : RWord) : Laws.RoundTrip.Statement (.enq f) := by
  intro w hw h
  cases h
  rw [decodeWord_encR _ _ _ (encR_ne_zero _ _ _ (.inl (by decide)))]
  exact congrArg Instr.enq (rword_encR _ _ f)
theorem Laws.RoundTrip.launch (f : RWord) : Laws.RoundTrip.Statement (.launch f) := by
  intro w hw h
  cases h
  rw [decodeWord_encR _ _ _ (encR_ne_zero _ _ _ (.inl (by decide)))]
  exact congrArg Instr.launch (rword_encR _ _ f)
theorem Laws.RoundTrip.gcond (f : RWord) : Laws.RoundTrip.Statement (.gcond f) := by
  intro w hw h
  cases h
  rw [decodeWord_encR _ _ _ (encR_ne_zero _ _ _ (.inl (by decide)))]
  exact congrArg Instr.gcond (rword_encR _ _ f)
theorem Laws.RoundTrip.cwait (f : RWord) : Laws.RoundTrip.Statement (.cwait f) := by
  intro w hw h
  cases h
  rw [decodeWord_encR _ _ _ (encR_ne_zero _ _ _ (.inl (by decide)))]
  exact congrArg Instr.cwait (rword_encR _ _ f)
theorem Laws.RoundTrip.migr (f : RWord) : Laws.RoundTrip.Statement (.migr f) := by
  intro w hw h
  cases h
  rw [decodeWord_encR _ _ _ (encR_ne_zero _ _ _ (.inl (by decide)))]
  exact congrArg Instr.migr (rword_encR _ _ f)
theorem Laws.RoundTrip.bind (f : RWord) : Laws.RoundTrip.Statement (.bind f) := by
  intro w hw h
  cases h
  rw [decodeWord_encR _ _ _ (encR_ne_zero _ _ _ (.inl (by decide)))]
  exact congrArg Instr.bind (rword_encR _ _ f)
theorem Laws.RoundTrip.mdesc (f : RWord) : Laws.RoundTrip.Statement (.mdesc f) := by
  intro w hw h
  cases h
  rw [decodeWord_encR _ _ _ (encR_ne_zero _ _ _ (.inl (by decide)))]
  have hv : (Instr.mdesc f).variantOk = true := by
    simp only [Instr.wellFormed, Bool.and_eq_true] at hw
    exact hw.1.2
  show decodeClass10 0 (encR 10 0x00 f) = _
  simp [Instr.variantOk] at hv
  simp [decodeClass10, hv]
theorem Laws.RoundTrip.mdescGet (f : RWord) : Laws.RoundTrip.Statement (.mdescGet f) := by
  intro w hw h
  cases h
  rw [decodeWord_encR _ _ _ (encR_ne_zero _ _ _ (.inl (by decide)))]
  have hv : (Instr.mdescGet f).variantOk = true := by
    simp only [Instr.wellFormed, Bool.and_eq_true] at hw
    exact hw.1.2
  show decodeClass10 0 (encR 10 0x00 f) = _
  simp [Instr.variantOk] at hv
  simp [decodeClass10, hv]
theorem Laws.RoundTrip.mzero (f : RWord) : Laws.RoundTrip.Statement (.mzero f) := by
  intro w hw h
  cases h
  rw [decodeWord_encR _ _ _ (encR_ne_zero _ _ _ (.inl (by decide)))]
  exact congrArg Instr.mzero (rword_encR _ _ f)
theorem Laws.RoundTrip.mma (f : RWord) : Laws.RoundTrip.Statement (.mma f) := by
  intro w hw h
  cases h
  rw [decodeWord_encR _ _ _ (encR_ne_zero _ _ _ (.inl (by decide)))]
  exact congrArg Instr.mma (rword_encR _ _ f)
theorem Laws.RoundTrip.mloop (f : RWord) : Laws.RoundTrip.Statement (.mloop f) := by
  intro w hw h
  cases h
  rw [decodeWord_encR _ _ _ (encR_ne_zero _ _ _ (.inl (by decide)))]
  exact congrArg Instr.mloop (rword_encR _ _ f)
theorem Laws.RoundTrip.mpoly (f : RWord) : Laws.RoundTrip.Statement (.mpoly f) := by
  intro w hw h
  cases h
  rw [decodeWord_encR _ _ _ (encR_ne_zero _ _ _ (.inl (by decide)))]
  exact congrArg Instr.mpoly (rword_encR _ _ f)
theorem Laws.RoundTrip.miter (f : RWord) : Laws.RoundTrip.Statement (.miter f) := by
  intro w hw h
  cases h
  rw [decodeWord_encR _ _ _ (encR_ne_zero _ _ _ (.inl (by decide)))]
  exact congrArg Instr.miter (rword_encR _ _ f)
theorem Laws.RoundTrip.mldc (f : RWord) : Laws.RoundTrip.Statement (.mldc f) := by
  intro w hw h
  cases h
  rw [decodeWord_encR _ _ _ (encR_ne_zero _ _ _ (.inl (by decide)))]
  exact congrArg Instr.mldc (rword_encR _ _ f)
theorem Laws.RoundTrip.mstc (f : RWord) : Laws.RoundTrip.Statement (.mstc f) := by
  intro w hw h
  cases h
  rw [decodeWord_encR _ _ _ (encR_ne_zero _ _ _ (.inl (by decide)))]
  exact congrArg Instr.mstc (rword_encR _ _ f)
theorem Laws.RoundTrip.mmov (f : RWord) : Laws.RoundTrip.Statement (.mmov f) := by
  intro w hw h
  cases h
  rw [decodeWord_encR _ _ _ (encR_ne_zero _ _ _ (.inl (by decide)))]
  exact congrArg Instr.mmov (rword_encR _ _ f)
theorem Laws.RoundTrip.mnrm (f : RWord) : Laws.RoundTrip.Statement (.mnrm f) := by
  intro w hw h
  cases h
  rw [decodeWord_encR _ _ _ (encR_ne_zero _ _ _ (.inl (by decide)))]
  exact congrArg Instr.mnrm (rword_encR _ _ f)
theorem Laws.RoundTrip.mqldOne (f : RWord) : Laws.RoundTrip.Statement (.mqldOne f) := by
  intro w hw h
  cases h
  rw [decodeWord_encR _ _ _ (encR_ne_zero _ _ _ (.inl (by decide)))]
  have hv : (Instr.mqldOne f).variantOk = true := by
    simp only [Instr.wellFormed, Bool.and_eq_true] at hw
    exact hw.1.2
  show decodeClass10 10 (encR 10 0x0A f) = _
  simp [Instr.variantOk] at hv
  simp [decodeClass10, hv]
theorem Laws.RoundTrip.mqldLs (f : RWord) : Laws.RoundTrip.Statement (.mqldLs f) := by
  intro w hw h
  cases h
  rw [decodeWord_encR _ _ _ (encR_ne_zero _ _ _ (.inl (by decide)))]
  have hv : (Instr.mqldLs f).variantOk = true := by
    simp only [Instr.wellFormed, Bool.and_eq_true] at hw
    exact hw.1.2
  show decodeClass10 10 (encR 10 0x0A f) = _
  simp [Instr.variantOk] at hv
  simp [decodeClass10, hv]
theorem Laws.RoundTrip.mqldVt (f : RWord) : Laws.RoundTrip.Statement (.mqldVt f) := by
  intro w hw h
  cases h
  rw [decodeWord_encR _ _ _ (encR_ne_zero _ _ _ (.inl (by decide)))]
  have hv : (Instr.mqldVt f).variantOk = true := by
    simp only [Instr.wellFormed, Bool.and_eq_true] at hw
    exact hw.1.2
  show decodeClass10 10 (encR 10 0x0A f) = _
  simp [Instr.variantOk] at hv
  simp [decodeClass10, hv]
theorem Laws.RoundTrip.mstat (f : RWord) : Laws.RoundTrip.Statement (.mstat f) := by
  intro w hw h
  cases h
  rw [decodeWord_encR _ _ _ (encR_ne_zero _ _ _ (.inl (by decide)))]
  exact congrArg Instr.mstat (rword_encR _ _ f)
theorem Laws.RoundTrip.creg (f : RWord) : Laws.RoundTrip.Statement (.creg f) := by
  intro w hw h
  cases h
  rw [decodeWord_encR _ _ _ (encR_ne_zero _ _ _ (.inl (by decide)))]
  exact congrArg Instr.creg (rword_encR _ _ f)
theorem Laws.RoundTrip.cunreg (f : RWord) : Laws.RoundTrip.Statement (.cunreg f) := by
  intro w hw h
  cases h
  rw [decodeWord_encR _ _ _ (encR_ne_zero _ _ _ (.inl (by decide)))]
  exact congrArg Instr.cunreg (rword_encR _ _ f)
theorem Laws.RoundTrip.recast (f : RWord) : Laws.RoundTrip.Statement (.recast f) := by
  intro w hw h
  cases h
  rw [decodeWord_encR _ _ _ (encR_ne_zero _ _ _ (.inl (by decide)))]
  have hv : (Instr.recast f).variantOk = true := by
    simp only [Instr.wellFormed, Bool.and_eq_true] at hw
    exact hw.1.2
  show decodeClass11 2 (encR 11 0x02 f) = _
  simp [Instr.variantOk] at hv
  simp [decodeClass11, hv]
theorem Laws.RoundTrip.recastFit (f : RWord) : Laws.RoundTrip.Statement (.recastFit f) := by
  intro w hw h
  cases h
  rw [decodeWord_encR _ _ _ (encR_ne_zero _ _ _ (.inl (by decide)))]
  have hv : (Instr.recastFit f).variantOk = true := by
    simp only [Instr.wellFormed, Bool.and_eq_true] at hw
    exact hw.1.2
  show decodeClass11 2 (encR 11 0x02 f) = _
  simp [Instr.variantOk] at hv
  simp [decodeClass11, hv]
theorem Laws.RoundTrip.cgen (f : RWord) : Laws.RoundTrip.Statement (.cgen f) := by
  intro w hw h
  cases h
  rw [decodeWord_encR _ _ _ (encR_ne_zero _ _ _ (.inl (by decide)))]
  exact congrArg Instr.cgen (rword_encR _ _ f)
theorem Laws.RoundTrip.ceval (f : RWord) : Laws.RoundTrip.Statement (.ceval f) := by
  intro w hw h
  cases h
  rw [decodeWord_encR _ _ _ (encR_ne_zero _ _ _ (.inl (by decide)))]
  exact congrArg Instr.ceval (rword_encR _ _ f)
theorem Laws.RoundTrip.cflash (f : RWord) : Laws.RoundTrip.Statement (.cflash f) := by
  intro w hw h
  cases h
  rw [decodeWord_encR _ _ _ (encR_ne_zero _ _ _ (.inl (by decide)))]
  exact congrArg Instr.cflash (rword_encR _ _ f)
theorem Laws.RoundTrip.pairWord (f : PWord) : Laws.RoundTrip.Statement (.pairWord f) := by
  intro w hw h
  cases h
  have h63 : (encP f).getLsbD 63 = true := by rw [encP_bit]; rfl
  have hz : encP f ≠ 0 := by
    intro e
    rw [e] at h63
    revert h63
    decide
  have hn : encP f ≠ BitVec.allOnes 64 := by
    intro e
    have h0 : f = pword (BitVec.allOnes 64) := by rw [← e, pword_encP]
    subst h0
    revert hw
    decide
  unfold decodeWord
  simp only [hz, hn, decide_false, Bool.or_self, Bool.false_eq_true, if_false, h63, if_true, pword_encP]
theorem Laws.RoundTrip.illegalWord (x : Word) : Laws.RoundTrip.Statement (.illegalWord x) := by
  intro w hw h
  simp [Instr.wellFormed, Instr.staticCheck] at hw
theorem Laws.RoundTrip.spinwExpiry x0 x1 : Laws.RoundTrip.Statement (.spinwExpiry x0 x1) := fun _ _ h => nomatch h
theorem Laws.RoundTrip.yieldExpiry x0 x1 : Laws.RoundTrip.Statement (.yieldExpiry x0 x1) := fun _ _ h => nomatch h
theorem Laws.RoundTrip.forcedTurn x0 : Laws.RoundTrip.Statement (.forcedTurn x0) := fun _ _ h => nomatch h
theorem Laws.RoundTrip.hang x0 : Laws.RoundTrip.Statement (.hang x0) := fun _ _ h => nomatch h
theorem Laws.RoundTrip.monitorSample x0 x1 x2 : Laws.RoundTrip.Statement (.monitorSample x0 x1 x2) := fun _ _ h => nomatch h
theorem Laws.RoundTrip.trapDelivery x0 : Laws.RoundTrip.Statement (.trapDelivery x0) := fun _ _ h => nomatch h
theorem Laws.RoundTrip.vtimeTimerFire x0 : Laws.RoundTrip.Statement (.vtimeTimerFire x0) := fun _ _ h => nomatch h
theorem Laws.RoundTrip.deadlineFire x0 : Laws.RoundTrip.Statement (.deadlineFire x0) := fun _ _ h => nomatch h
theorem Laws.RoundTrip.groupSave x0 x1 x2 : Laws.RoundTrip.Statement (.groupSave x0 x1 x2) := fun _ _ h => nomatch h
theorem Laws.RoundTrip.groupRestore x0 x1 : Laws.RoundTrip.Statement (.groupRestore x0 x1) := fun _ _ h => nomatch h
theorem Laws.RoundTrip.loadReturn x0 x1 : Laws.RoundTrip.Statement (.loadReturn x0 x1) := fun _ _ h => nomatch h
theorem Laws.RoundTrip.sideLogReplay x0 x1 : Laws.RoundTrip.Statement (.sideLogReplay x0 x1) := fun _ _ h => nomatch h
theorem Laws.RoundTrip.pageFaultService x0 x1 x2 : Laws.RoundTrip.Statement (.pageFaultService x0 x1 x2) := fun _ _ h => nomatch h
theorem Laws.RoundTrip.regenerationComplete x0 x1 x2 : Laws.RoundTrip.Statement (.regenerationComplete x0 x1 x2) := fun _ _ h => nomatch h
theorem Laws.RoundTrip.victimEvict x0 x1 : Laws.RoundTrip.Statement (.victimEvict x0 x1) := fun _ _ h => nomatch h
theorem Laws.RoundTrip.atomicWindowEnd x0 x1 : Laws.RoundTrip.Statement (.atomicWindowEnd x0 x1) := fun _ _ h => nomatch h
theorem Laws.RoundTrip.homeStore x0 x1 : Laws.RoundTrip.Statement (.homeStore x0 x1) := fun _ _ h => nomatch h
theorem Laws.RoundTrip.sliceRead x0 x1 x2 : Laws.RoundTrip.Statement (.sliceRead x0 x1 x2) := fun _ _ h => nomatch h
theorem Laws.RoundTrip.pushFill x0 x1 : Laws.RoundTrip.Statement (.pushFill x0 x1) := fun _ _ h => nomatch h
theorem Laws.RoundTrip.pushAck x0 x1 : Laws.RoundTrip.Statement (.pushAck x0 x1) := fun _ _ h => nomatch h
theorem Laws.RoundTrip.rds x0 : Laws.RoundTrip.Statement (.rds x0) := fun _ _ h => nomatch h
theorem Laws.RoundTrip.rdx x0 : Laws.RoundTrip.Statement (.rdx x0) := fun _ _ h => nomatch h
theorem Laws.RoundTrip.upg x0 : Laws.RoundTrip.Statement (.upg x0) := fun _ _ h => nomatch h
theorem Laws.RoundTrip.pute x0 : Laws.RoundTrip.Statement (.pute x0) := fun _ _ h => nomatch h
theorem Laws.RoundTrip.putm x0 : Laws.RoundTrip.Statement (.putm x0) := fun _ _ h => nomatch h
theorem Laws.RoundTrip.evict x0 : Laws.RoundTrip.Statement (.evict x0) := fun _ _ h => nomatch h
theorem Laws.RoundTrip.invack x0 : Laws.RoundTrip.Statement (.invack x0) := fun _ _ h => nomatch h
theorem Laws.RoundTrip.rcldata x0 : Laws.RoundTrip.Statement (.rcldata x0) := fun _ _ h => nomatch h
theorem Laws.RoundTrip.rclack x0 : Laws.RoundTrip.Statement (.rclack x0) := fun _ _ h => nomatch h
theorem Laws.RoundTrip.data x0 : Laws.RoundTrip.Statement (.data x0) := fun _ _ h => nomatch h
theorem Laws.RoundTrip.gntx x0 : Laws.RoundTrip.Statement (.gntx x0) := fun _ _ h => nomatch h
theorem Laws.RoundTrip.inv x0 : Laws.RoundTrip.Statement (.inv x0) := fun _ _ h => nomatch h
theorem Laws.RoundTrip.rcl x0 : Laws.RoundTrip.Statement (.rcl x0) := fun _ _ h => nomatch h
theorem Laws.RoundTrip.putack x0 : Laws.RoundTrip.Statement (.putack x0) := fun _ _ h => nomatch h
theorem Laws.RoundTrip.fill x0 : Laws.RoundTrip.Statement (.fill x0) := fun _ _ h => nomatch h
theorem Laws.RoundTrip.proxyEvict x0 x1 : Laws.RoundTrip.Statement (.proxyEvict x0 x1) := fun _ _ h => nomatch h
theorem Laws.RoundTrip.copyUnitLand x0 x1 : Laws.RoundTrip.Statement (.copyUnitLand x0 x1) := fun _ _ h => nomatch h
theorem Laws.RoundTrip.engineCommandComplete x0 x1 : Laws.RoundTrip.Statement (.engineCommandComplete x0 x1) := fun _ _ h => nomatch h
theorem Laws.RoundTrip.phaseEnd x0 x1 : Laws.RoundTrip.Statement (.phaseEnd x0 x1) := fun _ _ h => nomatch h
theorem Laws.RoundTrip.dispatch x0 : Laws.RoundTrip.Statement (.dispatch x0) := fun _ _ h => nomatch h
theorem Laws.RoundTrip.weirBalance x0 : Laws.RoundTrip.Statement (.weirBalance x0) := fun _ _ h => nomatch h
theorem Laws.RoundTrip.launchComplete x0 : Laws.RoundTrip.Statement (.launchComplete x0) := fun _ _ h => nomatch h
theorem Laws.RoundTrip.launchFaultedEnd x0 : Laws.RoundTrip.Statement (.launchFaultedEnd x0) := fun _ _ h => nomatch h
theorem Laws.RoundTrip.graphLoad x0 x1 : Laws.RoundTrip.Statement (.graphLoad x0 x1) := fun _ _ h => nomatch h
theorem Laws.RoundTrip.nodeRun x0 x1 : Laws.RoundTrip.Statement (.nodeRun x0 x1) := fun _ _ h => nomatch h
theorem Laws.RoundTrip.nodeComplete x0 x1 : Laws.RoundTrip.Statement (.nodeComplete x0 x1) := fun _ _ h => nomatch h
theorem Laws.RoundTrip.queueEntryError x0 x1 x2 x3 x4 : Laws.RoundTrip.Statement (.queueEntryError x0 x1 x2 x3 x4) := fun _ _ h => nomatch h
theorem Laws.RoundTrip.matrixOpPerform x0 : Laws.RoundTrip.Statement (.matrixOpPerform x0) := fun _ _ h => nomatch h
theorem Laws.RoundTrip.castLoad x0 x1 x2 : Laws.RoundTrip.Statement (.castLoad x0 x1 x2) := fun _ _ h => nomatch h
theorem Laws.RoundTrip.castStore x0 x1 : Laws.RoundTrip.Statement (.castStore x0 x1) := fun _ _ h => nomatch h
theorem Laws.RoundTrip.regionBuildComplete x0 : Laws.RoundTrip.Statement (.regionBuildComplete x0) := fun _ _ h => nomatch h
theorem Laws.RoundTrip.regionCloseComplete x0 : Laws.RoundTrip.Statement (.regionCloseComplete x0) := fun _ _ h => nomatch h
theorem Laws.RoundTrip.recastScanDone x0 : Laws.RoundTrip.Statement (.recastScanDone x0) := fun _ _ h => nomatch h
theorem Laws.RoundTrip.evaluatorFreezeAck x0 x1 : Laws.RoundTrip.Statement (.evaluatorFreezeAck x0 x1) := fun _ _ h => nomatch h
theorem Laws.RoundTrip.msgEnqueue x0 : Laws.RoundTrip.Statement (.msgEnqueue x0) := fun _ _ h => nomatch h
theorem Laws.RoundTrip.msgRepair x0 : Laws.RoundTrip.Statement (.msgRepair x0) := fun _ _ h => nomatch h
theorem Laws.RoundTrip.msgMigrate x0 : Laws.RoundTrip.Statement (.msgMigrate x0) := fun _ _ h => nomatch h
theorem Laws.RoundTrip.msgPreempt x0 : Laws.RoundTrip.Statement (.msgPreempt x0) := fun _ _ h => nomatch h
theorem Laws.RoundTrip.msgBind x0 : Laws.RoundTrip.Statement (.msgBind x0) := fun _ _ h => nomatch h
theorem Laws.RoundTrip.msgMould x0 : Laws.RoundTrip.Statement (.msgMould x0) := fun _ _ h => nomatch h
theorem Laws.RoundTrip.msgPage x0 : Laws.RoundTrip.Statement (.msgPage x0) := fun _ _ h => nomatch h
theorem Laws.RoundTrip.msgMode x0 : Laws.RoundTrip.Statement (.msgMode x0) := fun _ _ h => nomatch h
theorem Laws.RoundTrip.msgKey x0 : Laws.RoundTrip.Statement (.msgKey x0) := fun _ _ h => nomatch h
theorem Laws.RoundTrip.msgKeyUnbind x0 : Laws.RoundTrip.Statement (.msgKeyUnbind x0) := fun _ _ h => nomatch h
theorem Laws.RoundTrip.msgAttest x0 : Laws.RoundTrip.Statement (.msgAttest x0) := fun _ _ h => nomatch h
theorem Laws.RoundTrip.msgRing x0 : Laws.RoundTrip.Statement (.msgRing x0) := fun _ _ h => nomatch h
theorem Laws.RoundTrip.msgReset x0 : Laws.RoundTrip.Statement (.msgReset x0) := fun _ _ h => nomatch h
theorem Laws.RoundTrip.coldReset : Laws.RoundTrip.Statement (.coldReset) := fun _ _ h => nomatch h
theorem Laws.RoundTrip.deviceLost : Laws.RoundTrip.Statement (.deviceLost) := fun _ _ h => nomatch h
theorem Laws.RoundTrip.gatePrepComplete x0 : Laws.RoundTrip.Statement (.gatePrepComplete x0) := fun _ _ h => nomatch h
theorem Laws.RoundTrip.gatePowerUp x0 : Laws.RoundTrip.Statement (.gatePowerUp x0) := fun _ _ h => nomatch h
theorem Laws.RoundTrip.cxlLinkFail x0 : Laws.RoundTrip.Statement (.cxlLinkFail x0) := fun _ _ h => nomatch h
theorem Laws.RoundTrip.logicalTimeTick x0 : Laws.RoundTrip.Statement (.logicalTimeTick x0) := fun _ _ h => nomatch h
theorem Laws.RoundTrip.avoshBindWrite x0 x1 x2 : Laws.RoundTrip.Statement (.avoshBindWrite x0 x1 x2) := fun _ _ h => nomatch h
theorem Laws.RoundTrip.avoshWarmReset : Laws.RoundTrip.Statement (.avoshWarmReset) := fun _ _ h => nomatch h
theorem Laws.RoundTrip.msgUnlistedOp x0 : Laws.RoundTrip.Statement (.msgUnlistedOp x0) := fun _ _ h => nomatch h

end Sys2Proof
end

