-- ==== Sys2Proof/Machine/LimgarText.lean ====
section
/-! DEFINITION. limgar's source text (R19 to R22): lines, comments, tokens, literals and names; and the names of its
diagnostics (R49, R51, R52). A source file is a list of bytes. -/

namespace Sys2Proof.Limgar

/-- limgar's error diagnostics (R49, R51, R52). -/
inductive Diag where
  | syntaxError | undefined | redefined | range | kind | sectionError | launch | expr | incl | modifier
  | chainLength | wUnchained | chainFinal | latchPos | chainWrite | chainBreak
  | pairClass | pairOperand | bankClash
  deriving DecidableEq, Repr

/-- The name under which a diagnostic is reported. -/
def Diag.name : Diag → String
  | .syntaxError => "SYNTAX" | .undefined => "UNDEFINED" | .redefined => "REDEFINED" | .range => "RANGE" | .kind => "KIND"
  | .sectionError => "SECTION" | .launch => "LAUNCH" | .expr => "EXPR" | .incl => "INCLUDE" | .modifier => "MODIFIER"
  | .chainLength => "CHAIN_LENGTH" | .wUnchained => "W_UNCHAINED" | .chainFinal => "CHAIN_FINAL" | .latchPos => "LATCH_POS"
  | .chainWrite => "CHAIN_WRITE" | .chainBreak => "CHAIN_BREAK" | .pairClass => "PAIR_CLASS" | .pairOperand => "PAIR_OPERAND"
  | .bankClash => "BANK_CLASH"

/-- A float literal: a decimal m · 10^e, or one of the words `inf` and `nan` (R21). -/
inductive FloatLit where
  | dec (m : Nat) (e : Int)
  | inf
  | nan
  deriving DecidableEq, Repr

/-- A token of a line. A number says whether it is decimal, and whether it is spelled as the
grammar quotes one: digits alone, with no zero before them (R23). -/
inductive Tok where
  /-- a name: letters, digits, `_` and `.`, as `ident` of R23; a mnemonic comes with its modifiers -/
  | word (s : String)
  /-- a directive's name, after its `.` -/
  | dir (s : String)
  | num (v : Nat) (decimal quoted : Bool)
  | flt (m : Nat) (e : Int)
  | str (bytes : List Nat)
  /-- an operator or a bracket -/
  | op (s : String)
  deriving DecidableEq, Repr

/-! ### Characters (R19) -/

def isBlank (c : Nat) : Bool := c == 9 || c == 32
/-- A character that R19 admits: a blank or a printable one. -/
def isPlain (c : Nat) : Bool := isBlank c || (decide (32 < c) && decide (c < 127))
def isDigit (c : Nat) : Bool := decide (48 ≤ c) && decide (c ≤ 57)
def isLetter (c : Nat) : Bool := (decide (65 ≤ c) && decide (c ≤ 90)) || (decide (97 ≤ c) && decide (c ≤ 122))
/-- A character of a comment: one that R19 admits, or a byte above 0x7F. -/
def isComment (c : Nat) : Bool := isPlain c || decide (128 ≤ c)
def identChar (c : Nat) : Bool := isLetter c || isDigit c || c == 95 || c == 46

def lowerCode (c : Nat) : Nat := if decide (65 ≤ c) && decide (c ≤ 90) then c + 32 else c
/-- A name's spelling by its codes. -/
def nameOf (l : List Nat) : String := String.ofList (l.map Char.ofNat)
/-- A name in lower case: what R20 does not tell apart. -/
def lower (s : String) : String := String.ofList (s.toList.map (fun c => Char.ofNat (lowerCode c.toNat)))

/-! ### Literals (R21) -/

def digitValue (c : Nat) : Nat := if isDigit c then c - 48 else lowerCode c - 87
def isHexDigit (c : Nat) : Bool := isDigit c || (decide (97 ≤ lowerCode c) && decide (lowerCode c ≤ 102))
def isBinDigit (c : Nat) : Bool := c == 48 || c == 49

/-- Digits with single underscores between two of them: their values, and the rest. -/
def takeDigits (ok : Nat → Bool) : List Nat → List Nat × List Nat
  | [] => ([], [])
  | c :: l =>
    if ok c then let r := takeDigits ok l; (digitValue c :: r.1, r.2)
    else if c == 95 then
      match l with
      | d :: _ => if ok d then takeDigits ok l else ([], c :: l)
      | [] => ([], [c])
    else ([], c :: l)

def valueOf (base : Nat) (ds : List Nat) : Nat := ds.foldl (fun n d => n * base + d) 0

/-- No letter, digit or underscore follows a number. -/
def numberEnds : List Nat → Bool
  | [] => true
  | c :: _ => !(isLetter c || isDigit c || c == 95)

/-- The exponent part of a float literal, if one stands here. -/
def takeExponent (l : List Nat) : Option (Int × List Nat) :=
  match l with
  | c :: l =>
    if lowerCode c == 101 then
      let (neg, l) := match l with
        | 43 :: r => (false, r)
        | 45 :: r => (true, r)
        | r => (false, r)
      match takeDigits isDigit (if (l.head?.map isDigit).getD false then l else []) with
      | ([], _) => none
      | (ds, r) =>
        -- no literal of 1024 characters with an exponent beyond 9999 is in any format's finite range, nor above 0
        let v : Int := min (valueOf 10 ds) 9999
        some (if neg then -v else v, r)
    else none
  | [] => none

/-- Is a text's decimal, whose digits are given, spelled with them alone and no zero before others? -/
def quotedDigits (l ds : List Nat) : Bool := (l.take ds.length).all isDigit && (ds.length == 1 || ds.head? != some 0)

/-- A number literal, which begins with a digit. DEDUCED: log 113. -/
def takeNumber (l : List Nat) : Option (Tok × List Nat) :=
  let fin (t : Tok) (r : List Nat) : Option (Tok × List Nat) := if numberEnds r then some (t, r) else none
  let based (base : Nat) (ok : Nat → Bool) (r : List Nat) : Option (Tok × List Nat) :=
    match r with
    | d :: _ => if ok d then (let x := takeDigits ok r; fin (.num (valueOf base x.1) false false) x.2) else none
    | [] => none
  match l with
  | 48 :: 120 :: r => based 16 isHexDigit r
  | 48 :: 98 :: r => based 2 isBinDigit r
  | _ =>
    match takeDigits isDigit l with
    | ([], _) => none
    | (ds, 46 :: r) =>
      match r with
      | d :: _ =>
        if isDigit d then
          let x := takeDigits isDigit r
          let m := valueOf 10 (ds ++ x.1)
          let e0 : Int := -(x.1.length : Int)
          match takeExponent x.2 with
          | some (e, r) => fin (.flt m (e0 + e)) r
          | none => fin (.flt m e0) x.2
        else fin (.num (valueOf 10 ds) true (quotedDigits l ds)) (46 :: r)
      | [] => fin (.num (valueOf 10 ds) true (quotedDigits l ds)) [46]
    | (ds, r) =>
      match takeExponent r with
      | some (e, r) => fin (.flt (valueOf 10 ds) e) r
      | none => fin (.num (valueOf 10 ds) true (quotedDigits l ds)) r

/-- The value of an escape's second character in a character literal; in a string `'` is not escaped (R21). -/
def escapeOf (inString : Bool) (c : Nat) : Option Nat :=
  if c == 110 then some 10 else if c == 116 then some 9 else if c == 34 then some 34 else if c == 92 then some 92
  else if c == 39 && !inString then some 39 else none

/-- A character literal after its opening quote. -/
def takeChar : List Nat → Option (Tok × List Nat)
  | 92 :: c :: 39 :: r => (escapeOf false c).map (fun v => (.num v false false, r))
  | c :: 39 :: r => if isPlain c && c != 39 && c != 92 then some (.num c false false, r) else none
  | _ => none

/-- A string literal after its opening quote. -/
def takeString : List Nat → Option (List Nat × List Nat)
  | [] => none
  | 34 :: r => some ([], r)
  | 92 :: l =>
    match l with
    | c :: r =>
      match escapeOf true c, takeString r with
      | some v, some x => some (v :: x.1, x.2)
      | _, _ => none
    | [] => none
  | c :: r => if isPlain c then (takeString r).map (fun x => (c :: x.1, x.2)) else none

/-! ### Tokens -/

/-- Operators of two characters, before those of one. -/
def operators2 : List String := ["||", "|>", "<<", ">>", "==", "!=", "<=", ">="]
def operators1 : List String :=
  ["(", ")", "[", "]", ",", ":", "+", "-", "*", "/", "%", "&", "^", "|", "<", ">", "~", "!", "=", "?", "$"]

def takeOperator (l : List Nat) : Option (Tok × List Nat) :=
  let two := nameOf (l.take 2)
  let one := nameOf (l.take 1)
  if operators2.contains two then some (.op two, l.drop 2)
  else if operators1.contains one then some (.op one, l.drop 1)
  else none

/-- The token at the start of a text that begins with no blank and no comment. -/
def takeToken (l : List Nat) : Option (Tok × List Nat) :=
  match l with
  | [] => none
  | c :: r =>
    if isLetter c || c == 95 then some (.word (nameOf (l.takeWhile identChar)), l.dropWhile identChar)
    else if isDigit c then takeNumber l
    else if c == 39 then takeChar r
    else if c == 34 then (takeString r).map (fun x => (.str x.1, x.2))
    else if c == 46 then
      match r with
      | d :: _ => if isLetter d || d == 95 then some (.dir (nameOf (r.takeWhile identChar)), r.dropWhile identChar) else none
      | [] => none
    else takeOperator l

/-- The tokens of a line without its end (R19, R20); `fuel` is its length. -/
def tokens (fuel : Nat) (l : List Nat) : Except Diag (List Tok) :=
  match fuel with
  | 0 => if l = [] then .ok [] else .error .syntaxError
  | n + 1 =>
    match l with
    | [] => .ok []
    | c :: r =>
      if isBlank c then tokens n r
      else if c == 59 then (if r.all isComment then .ok [] else .error .syntaxError)
      else
        match takeToken l with
        | none => .error .syntaxError
        | some (t, r) =>
          match tokens n r with
          | .ok ts => .ok (t :: ts)
          | .error d => .error d

/-- A line's tokens: at most 1024 characters (R19). DEDUCED: log 112, log 113. -/
def lexLine (l : List Nat) : Except Diag (List Tok) := if 1024 < l.length then .error .syntaxError else tokens l.length l

/-- The lines of a file: they end with LF or CR LF (R19); a last line need not end, and a CR in it is then a control character. -/
def splitLines (l : List Nat) : List (List Nat) :=
  let r := l.foldr (fun c acc =>
    if c == 10 then [] :: acc
    else match acc with
      | [] => [[c]]
      | x :: xs => (c :: x) :: xs) [[]]
  let ended := r.dropLast.map (fun x => if x.getLast? == some 13 then x.dropLast else x)
  match r.getLast? with
  | some (c :: x) => ended ++ [c :: x]
  | _ => ended

/-! ### Reserved names (R22, R42) -/

/-- The register files whose registers have names of their own (R42). -/
inductive File where
  | v | s | a | k | y | d | c | q
  deriving DecidableEq, Repr

def File.size : File → Nat
  | .v => 256 | .s => 64 | .a => 16 | .k => 16 | .y => 4 | .d => 16 | .c => 4 | .q => 16

def fileOf (c : Char) : Option File :=
  match c with
  | 'v' => some .v | 's' => some .s | 'a' => some .a | 'k' => some .k
  | 'y' => some .y | 'd' => some .d | 'c' => some .c | 'q' => some .q
  | _ => none

/-- The register that a name in lower case names. -/
def registerOf (w : String) : Option (File × Nat) :=
  match w.toList with
  | f :: ds =>
    match fileOf f with
    | none => none
    | some f =>
      let cs := ds.map Char.toNat
      let n := valueOf 10 (cs.map digitValue)
      if cs != [] && cs.all isDigit && (cs.length == 1 || cs.head? != some 48) && decide (n < f.size) then some (f, n) else none
  | [] => none

/-- The system registers' names and numbers (R190). -/
def systemRegisters : List (String × Nat) :=
  [("status", 0x00), ("role", 0x01), ("warpid", 0x02), ("groupid", 0x03), ("launchid", 0x04), ("core", 0x05), ("die", 0x06),
   ("trapcause", 0x08), ("trappc", 0x09), ("trapinfo", 0x0A), ("trapvec", 0x0B), ("tlanelo", 0x0C), ("tlanehi", 0x0D),
   ("hsave0", 0x0E), ("hsave1", 0x0F)] ++
  [("pxi", 0x10), ("cycle", 0x11), ("vtime", 0x12), ("vtcmp", 0x13), ("deadline", 0x14), ("agelim", 0x15), ("fair", 0x16),
   ("fpmode", 0x17), ("pushq", 0x18), ("pushst", 0x19), ("lease", 0x1A), ("trappxi", 0x1B)]

def systemOf (w : String) : Option Nat := (systemRegisters.find? (fun p => p.1 == w)).map Prod.snd

/-- The functions of R32. -/
inductive Fn where
  | lo | hi | vnum | voff | prio | words
  deriving DecidableEq, Repr

def fnOf (w : String) : Option Fn :=
  if w == "lo" then some .lo else if w == "hi" then some .hi else if w == "vnum" then some .vnum
  else if w == "voff" then some .voff else if w == "prio" then some .prio else if w == "words" then some .words else none

/-- A name that cannot name a symbol, in any mix of capitals (R22). -/
def reserved (name : String) : Bool :=
  let w := lower name
  (registerOf w).isSome || (systemOf w).isSome || (fnOf w).isSome
    || ["ls", "core", "cores", "cluster", "inf", "nan", "_"].contains w

end Sys2Proof.Limgar
end

