-- ==== Sys2Proof/Machine/LimgarParse.lean ====
section
/-! DEFINITION. limgar's grammar (R23): expressions with their binding (R30), operands (R42, R44, R47), instruction and pair
statements, directives, labels and clause lines, each read from the tokens of its line. -/

namespace Sys2Proof.Limgar

inductive UnOp where
  | neg | bnot | lnot
  deriving DecidableEq, Repr

inductive BinOp where
  | mul | div | rem | add | sub | shl | shr | and | xor | or | eq | ne | lt | le | gt | ge
  deriving DecidableEq, Repr

/-- An expression (R29 to R32). -/
inductive Expr where
  | num (v : Nat) (decimal : Bool)
  | name (s : String)
  | here
  /-- one in parentheses, which is no literal (R35) -/
  | paren (e : Expr)
  | un (op : UnOp) (e : Expr)
  | bin (op : BinOp) (a b : Expr)
  | call (f : Fn) (e : Expr)
  deriving DecidableEq, Repr

/-- A memory operand's index: its sign, its register or the first of its pair, and its scale (R44). -/
structure Index where
  neg : Bool
  reg : Nat
  pair : Bool
  scale : Nat
  deriving DecidableEq, Repr

/-- A memory operand: its base, an a register or `ls`, an index and a signed immediate (R44). -/
structure MemRef where
  base : Option Nat
  index : Option Index
  imm : Option (Bool × Expr)
  deriving DecidableEq, Repr

inductive Key where
  | core | cores | cluster
  deriving DecidableEq, Repr

/-- An operand as it is written (R23, R42). -/
inductive Opnd where
  | none_
  | reg (f : File) (n : Nat)
  /-- v n with v n+1, n even -/
  | pair (n : Nat)
  | sys (n : Nat)
  | mem (m : MemRef)
  | keyExpr (k : Key) (e : Expr)
  | keyReg (k : Key) (s : Nat)
  | expr (e : Expr)
  | flt (neg : Bool) (l : FloatLit)
  deriving DecidableEq, Repr

/-- An instruction as it is written, names in lower case. -/
structure InstrText where
  mn : String
  mods : List String
  ops : List Opnd
  mask : Option Nat
  deriving DecidableEq, Repr

/-- A directive's argument. -/
inductive Arg where
  | word (s : String)
  | expr (e : Expr)
  | flt (neg : Bool) (l : FloatLit)
  | str (bytes : List Nat)
  deriving DecidableEq, Repr

inductive Stmt where
  | instr (i : InstrText) (amp : Bool)
  | pair (a b : InstrText) (serial amp : Bool)
  | dir (name : String) (args : List Arg)
  deriving DecidableEq, Repr

/-! ### Expressions (R30) -/

/-- The binary operators by their level, 3 to 9, tightest first. -/
def binOpAt (lvl : Nat) (o : String) : Option BinOp :=
  match lvl with
  | 3 => if o == "*" then some .mul else if o == "/" then some .div else if o == "%" then some .rem else none
  | 4 => if o == "+" then some .add else if o == "-" then some .sub else none
  | 5 => if o == "<<" then some .shl else if o == ">>" then some .shr else none
  | 6 => if o == "&" then some .and else none
  | 7 => if o == "^" then some .xor else none
  | 8 => if o == "|" then some .or else none
  | 9 =>
    if o == "==" then some .eq else if o == "!=" then some .ne else if o == "<" then some .lt else if o == "<=" then some .le
    else if o == ">" then some .gt else if o == ">=" then some .ge else none
  | _ => none

def unOpOf (o : String) : Option UnOp :=
  if o == "-" then some .neg else if o == "~" then some .bnot else if o == "!" then some .lnot else none

/-- Reads an expression of a level: at level 2 a unary or primary one; above, operands of the level below joined from the left.
`lhs` is what has been read at this level. An `&` that ends the line marks a chain, and is no operator (R23, R48). -/
def parseExpr (fuel lvl : Nat) (lhs : Option Expr) (ts : List Tok) : Option (Expr × List Tok) :=
  match fuel with
  | 0 => none
  | n + 1 =>
    match lhs with
    | some a =>
      match ts with
      | .op o :: r =>
        if o == "&" && r == [] then some (a, ts)
        else
          match binOpAt lvl o with
          | some op =>
            match parseExpr n (lvl - 1) none r with
            | some (b, r) => parseExpr n lvl (some (.bin op a b)) r
            | none => none
          | none => some (a, ts)
      | _ => some (a, ts)
    | none =>
      if 2 < lvl then
        match parseExpr n (lvl - 1) none ts with
        | some (a, r) => parseExpr n lvl (some a) r
        | none => none
      else
        match ts with
        | .num v d _ :: r => some (.num v d, r)
        | .word w :: r =>
          match fnOf (lower w), r with
          | some f, .op o :: r2 =>
            if o == "(" then
              match parseExpr n 9 none r2 with
              | some (e, .op c :: r3) => if c == ")" then some (.call f e, r3) else none
              | _ => none
            else none
          | some _, _ => none
          | none, _ => if reserved w then none else some (.name w, r)
        | .op o :: r =>
          if o == "$" then some (.here, r)
          else if o == "(" then
            match parseExpr n 9 none r with
            | some (e, .op c :: r2) => if c == ")" then some (.paren e, r2) else none
            | _ => none
          else
            match unOpOf o with
            | some u => (parseExpr n 2 none r).map (fun x => (.un u x.1, x.2))
            | none => none
        | _ => none

/-- An expression at the start of the tokens. -/
def takeExpr (ts : List Tok) : Option (Expr × List Tok) := parseExpr (24 * ts.length + 24) 9 none ts

/-! ### Operands -/

def vregOf (w : String) : Option Nat :=
  match registerOf (lower w) with
  | some (.v, n) => some n
  | _ => none

/-- A pair: its first register even, its second the next (R42). -/
def pairOf (n : Nat) (w : String) : Option Nat := if n % 2 == 0 && vregOf w == some (n + 1) then some n else none

/-- A float literal, with its sign. -/
def takeFloat (ts : List Tok) : Option (Bool × FloatLit × List Tok) :=
  let lit (neg : Bool) : List Tok → Option (Bool × FloatLit × List Tok)
    | .flt m e :: r => some (neg, .dec m e, r)
    | .word w :: r => if lower w == "inf" then some (neg, .inf, r) else if lower w == "nan" then some (neg, .nan, r) else none
    | _ => none
  match ts with
  | .op o :: r => if o == "-" then lit true r else none
  | _ => lit false ts

/-- An index's scale, if one is written: one of the texts 1, 2, 4, 8 and 16 (R23). -/
def takeScale (ts : List Tok) : Option (Nat × List Tok) :=
  match ts with
  | .op o :: r =>
    if o == "*" then
      match r with
      | .num v _ true :: r => if [1, 2, 4, 8, 16].contains v then some (v, r) else none
      | _ => none
    else some (1, ts)
  | _ => some (1, ts)

def signOf (o : String) : Option Bool := if o == "+" then some false else if o == "-" then some true else none

/-- The end of a memory operand: a signed immediate, if any, and the bracket. The sign is that of the whole expression. -/
def takeImm (base : Option Nat) (ix : Option Index) (ts : List Tok) : Option (Opnd × List Tok) :=
  match ts with
  | .op o :: r =>
    if o == "]" then some (.mem ⟨base, ix, none⟩, r)
    else
      match signOf o, takeExpr r with
      | some neg, some (e, .op c :: r) => if c == "]" then some (.mem ⟨base, ix, some (neg, e)⟩, r) else none
      | _, _ => none
  | _ => none

/-- A memory operand after its opening bracket (R23, R44). -/
def takeMem (ts : List Tok) : Option (Opnd × List Tok) :=
  match ts with
  | .word w :: r =>
    let base : Option (Option Nat) := if lower w == "ls" then some none else
      match registerOf (lower w) with
      | some (.a, n) => some (some n)
      | _ => none
    match base with
    | none => none
    | some base =>
      match r with
      | .op o :: .word x :: r2 =>
        match signOf o, vregOf x with
        | some neg, some n =>
          let p : Option (Bool × List Tok) := match r2 with
            | .op c :: .word y :: r3 => if c == ":" then (pairOf n y).map (fun _ => (true, r3)) else some (false, r2)
            | _ => some (false, r2)
          match p with
          | none => none
          | some (pair, r2) =>
            match takeScale r2 with
            | none => none
            | some (sc, r2) => takeImm base (some ⟨neg, n, pair, sc⟩) r2
        | _, _ => takeImm base none r
      | _ => takeImm base none r
  | _ => none

def keyOf (w : String) : Option Key :=
  if w == "core" then some .core else if w == "cores" then some .cores else if w == "cluster" then some .cluster else none

/-- An operand at the start of the tokens. -/
def takeOpnd (ts : List Tok) : Option (Opnd × List Tok) :=
  match takeFloat ts with
  | some (neg, l, r) => some (.flt neg l, r)
  | none =>
    let asExpr := (takeExpr ts).map (fun x => (Opnd.expr x.1, x.2))
    match ts with
    | .op o :: r => if o == "[" then takeMem r else asExpr
    | .word w :: r =>
      let lw := lower w
      let isKey := match r with
        | .op o :: _ => o == "="
        | _ => false
      if lw == "_" then some (.none_, r)
      else if isKey then
        match keyOf lw, r.drop 1 with
        | some k, .word x :: r2 =>
          match registerOf (lower x) with
          | some (.s, n) => some (.keyReg k n, r2)
          | _ => (takeExpr (r.drop 1)).map (fun y => (.keyExpr k y.1, y.2))
        | some k, r2 => (takeExpr r2).map (fun y => (.keyExpr k y.1, y.2))
        | none, _ => none
      else
        match registerOf lw with
        | some (.v, n) =>
          match r with
          | .op c :: .word y :: r2 => if c == ":" then (pairOf n y).map (fun p => (.pair p, r2)) else some (.reg .v n, r)
          | _ => some (.reg .v n, r)
        | some (f, n) => some (.reg f n, r)
        | none =>
          match systemOf lw with
          | some n => some (.sys n, r)
          | none => asExpr
    | _ => asExpr

/-- Things separated by commas; `fuel` bounds their number. -/
def takeList {α : Type} (take : List Tok → Option (α × List Tok)) (fuel : Nat) (ts : List Tok) : Option (List α × List Tok) :=
  match fuel with
  | 0 => none
  | n + 1 =>
    match take ts with
    | none => none
    | some (x, r) =>
      match r with
      | .op o :: r2 =>
        if o == "," then (takeList take n r2).map (fun y => (x :: y.1, y.2)) else some ([x], r)
      | _ => some ([x], r)

/-! ### Statements -/

/-- A name's parts between its dots. -/
def splitDots (s : String) : List String :=
  ((s.toList.foldr (fun c acc =>
    if c == '.' then [] :: acc
    else match acc with
      | [] => [[c]]
      | x :: xs => (c :: x) :: xs) [[]])).map String.ofList

/-- A mnemonic with its modifiers (R23). -/
def headOf (w : String) : Option (String × List String) :=
  match splitDots (lower w) with
  | mn :: mods =>
    let first (s : String) : Nat := ((s.toList.head?).map Char.toNat).getD 0
    if isLetter (first mn) && mn.toList.all (fun c => isLetter c.toNat || isDigit c.toNat)
        && mods.all (fun m => isLetter (first m) || first m == 95) then some (mn, mods) else none
  | [] => none

/-- A mask at the start of the tokens, if one is written. -/
def takeMask (ts : List Tok) : Option (Option Nat × List Tok) :=
  match ts with
  | .op o :: r =>
    if o == "?" then
      match r with
      | .word w :: r2 =>
        match registerOf (lower w) with
        | some (.k, n) => some (some n, r2)
        | _ => none
      | _ => none
    else some (none, ts)
  | _ => some (none, ts)

/-- An instruction: its name, its operands, its mask; what follows. -/
def takeInstr (ts : List Tok) : Option (InstrText × List Tok) :=
  match ts with
  | .word w :: r =>
    match headOf w with
    | none => none
    | some (mn, mods) =>
      let bare := match r with
        | [] => true
        | .op o :: _ => o == "?" || o == "&" || o == "||" || o == "|>"
        | _ => false
      let ops : Option (List Opnd × List Tok) := if bare then some ([], r) else takeList takeOpnd (r.length + 1) r
      match ops with
      | none => none
      | some (ops, r) =>
        match takeMask r with
        | none => none
        | some (k, r) => some (⟨mn, mods, ops, k⟩, r)
  | _ => none

/-- An argument of a directive. -/
def takeArg (ts : List Tok) : Option (Arg × List Tok) :=
  match takeFloat ts with
  | some (neg, l, r) => some (.flt neg l, r)
  | none =>
    let asExpr := (takeExpr ts).map (fun x => (Arg.expr x.1, x.2))
    match ts with
    | .str b :: r => some (.str b, r)
    | .word w :: r =>
      match r with
      | [] => some (.word w, [])
      | .op o :: _ => if o == "," then some (.word w, r) else asExpr
      | _ => asExpr
    | _ => asExpr

/-- A statement: all the tokens of its line after the label. -/
def parseStmt (ts : List Tok) : Option Stmt :=
  match ts with
  | .dir d :: r =>
    if r == [] then some (.dir (lower d) [])
    else
      match takeList takeArg (r.length + 1) r with
      | some (args, []) => some (.dir (lower d) args)
      | _ => none
  | _ =>
    match takeInstr ts with
    | none => none
    | some (a, []) => some (.instr a false)
    | some (a, .op o :: r) =>
      if o == "&" then (if r == [] then some (.instr a true) else none)
      else if o == "||" || o == "|>" then
        match takeInstr r with
        | some (b, []) => if a.ops.length == 2 && b.ops.length == 2 then some (.pair a b (o == "|>") false) else none
        | some (b, [.op c]) =>
          if c == "&" && a.ops.length == 2 && b.ops.length == 2 then some (.pair a b (o == "|>") true) else none
        | _ => none
      else none
    | some (_, _) => none

/-- A line as it is read outside a launch: its label and its statement. -/
structure LineText where
  label : Option String := none
  stmt : Option Stmt := none
  deriving DecidableEq, Repr

def parseLine (ts : List Tok) : Option LineText :=
  let rest (label : Option String) (r : List Tok) : Option LineText :=
    if r == [] then some ⟨label, none⟩ else (parseStmt r).map (fun s => ⟨label, some s⟩)
  match ts with
  | .word w :: .op o :: r => if o == ":" then rest (some w) r else rest none ts
  | _ => rest none ts

/-! ### Clause lines (R23, R39) -/

inductive ClauseArg where
  | reg (f : File) (n : Nat)
  | expr (e : Expr)
  | fair
  | lockstep
  deriving DecidableEq, Repr

structure Clause where
  kw : String
  args : List ClauseArg
  deriving DecidableEq, Repr

def clauseWords : List String :=
  ["entry", "grid", "warps", "threads", "stages", "stagemap", "regs", "sregs", "localsize", "grant", "progress", "agelim", "carry",
   "carryls"]

/-- An argument of a clause. `fair` and `lockstep` are no reserved names (R22): they are the keywords where one stands alone in a
`progress` clause. -/
def takeClauseArg (progress : Bool) (ts : List Tok) : Option (ClauseArg × List Tok) :=
  match ts with
  | .word w :: r =>
    let alone := progress && (match r with
      | [] => true
      | t :: _ => t == .op ",")
    if alone && lower w == "fair" then some (.fair, r)
    else if alone && lower w == "lockstep" then some (.lockstep, r)
    else
      match registerOf (lower w) with
      | some (f, n) => some (.reg f n, r)
      | none => (takeExpr ts).map (fun x => (.expr x.1, x.2))
  | _ => (takeExpr ts).map (fun x => (.expr x.1, x.2))

/-- A clause line that is not blank. -/
def parseClause (ts : List Tok) : Option Clause :=
  match ts with
  | .word w :: r =>
    if clauseWords.contains (lower w) then
      if r == [] then some ⟨lower w, []⟩
      else
        match takeList (takeClauseArg (lower w == "progress")) (r.length + 1) r with
        | some (args, []) => some ⟨lower w, args⟩
        | _ => none
    else none
  | _ => none

end Sys2Proof.Limgar
end

