-- ==== Sys2Proof/Machine/LimgarExpr.lean ====
section
/-! DEFINITION. limgar's sections and symbols (R25, R27), the values and kinds of expressions (R29, R31), the functions
of R32 with their relocations (R33), and what the loader makes of a relocation (R33, R34). -/

namespace Sys2Proof.Limgar

/-- A section of an object (R25). -/
inductive Sec where
  | code | data | rodata | local_ | vault (n : Nat)
  deriving DecidableEq, Repr

/-- The kinds that are not absolute (R29). -/
inductive Kind where
  | code | data | local_ | vault
  deriving DecidableEq, Repr

def Sec.kind : Sec → Kind
  | .code => .code | .data => .data | .rodata => .data | .local_ => .local_ | .vault _ => .vault

/-- The bound that a section's location counter keeps: no offset of a statement or a label is at or above it (R25). -/
def Sec.bound : Sec → Nat
  | .code => 2 ^ 32 | .data => 2 ^ 48 | .rodata => 2 ^ 48 | .local_ => 2 ^ 20 | .vault _ => 0x1C00000

/-- The relocations of R33. -/
inductive RelocKind where
  | code | dataLo | dataHi | vaultNum | vaultOff | local_
  deriving DecidableEq, Repr

/-- The bits that a relocation's value takes (R33). -/
def RelocKind.width : RelocKind → Nat
  | .code => 32 | .dataLo => 32 | .dataHi => 48 | .vaultNum => 8 | .vaultOff => 25 | .local_ => 20

/-- What an offset counts from: a section of this object, or a symbol of another file. -/
inductive Base where
  | own (s : Sec)
  | ext (name : String)
  deriving DecidableEq, Repr

/-- The value of an expression: a number; a place, with the block in force where its symbol is defined (R28); or a value that
a relocation gives, which stands alone (R33). -/
inductive Val where
  | num (v : Int)
  | place (k : Kind) (b : Base) (off : Int) (blk : Option Nat)
  | reloc (r : RelocKind) (b : Base) (off : Int)
  deriving DecidableEq, Repr

/-- Where an expression stands: `$`, if a section is open, and the number of the block directive in force. -/
structure Ctx where
  here : Option (Sec × Nat) := none
  blk : Option Nat := none
  deriving DecidableEq, Repr

/-- What a name is defined as. -/
inductive SymDef where
  | label (s : Sec) (off : Nat) (blk : Option Nat)
  | equ (e : Expr) (c : Ctx)
  | ext
  deriving DecidableEq, Repr

/-- A symbol of another file: what assembling a use of it takes from that file (R27). -/
inductive ExtSym where
  | num (v : Int)
  | place (k : Kind) (prio : Nat)
  deriving DecidableEq, Repr

/-- The symbols of a file, its block directives, and what other files export. -/
structure Env where
  syms : List (String × SymDef) := []
  blks : List (Expr × Ctx) := []
  exts : List (String × ExtSym) := []
  deriving DecidableEq, Repr

def lookName {α : Type} (l : List (String × α)) (s : String) : Option α := (l.find? (fun p => p.1 == s)).map Prod.snd

/-- A result of an operation in 128-bit two's complement (R31). -/
def exact128 (v : Int) : Except Diag Int := if -(2 ^ 127) ≤ v ∧ v < 2 ^ 127 then .ok v else .error .expr

/-- A literal's value (R31). -/
def literal (v : Nat) (decimal : Bool) : Except Diag Int :=
  if v < 2 ^ 127 then .ok v else if !decimal && decide (v < 2 ^ 128) then .ok ((v : Int) - 2 ^ 128) else .error .range

def unary (op : UnOp) (a : Int) : Except Diag Int :=
  match op with
  | .neg => exact128 (-a)
  | .bnot => exact128 (-a - 1)
  | .lnot => .ok (if a = 0 then 1 else 0)

/-- A bitwise operation on 128-bit two's complement. -/
def bitwise (f : BitVec 128 → BitVec 128 → BitVec 128) (a b : Int) : Int := (f (BitVec.ofInt 128 a) (BitVec.ofInt 128 b)).toInt

def truth (b : Bool) : Except Diag Int := .ok (if b then 1 else 0)

/-- An operator on absolute values (R30, R31). -/
def binary (op : BinOp) (a b : Int) : Except Diag Int :=
  match op with
  | .mul => exact128 (a * b)
  | .div => if b = 0 then .error .expr else exact128 (a.tdiv b)
  | .rem => if b = 0 then .error .expr else exact128 (a.tmod b)
  | .add => exact128 (a + b)
  | .sub => exact128 (a - b)
  | .shl => if 0 ≤ b ∧ b ≤ 127 then exact128 (a * 2 ^ b.toNat) else .error .expr
  | .shr => if 0 ≤ b ∧ b ≤ 127 then exact128 (a / 2 ^ b.toNat) else .error .expr
  | .and => .ok (bitwise (· &&& ·) a b)
  | .xor => .ok (bitwise (· ^^^ ·) a b)
  | .or => .ok (bitwise (· ||| ·) a b)
  | .eq => truth (a == b)
  | .ne => truth (a != b)
  | .lt => truth (decide (a < b))
  | .le => truth (decide (a ≤ b))
  | .gt => truth (decide (b < a))
  | .ge => truth (decide (b ≤ a))

/-- How the kinds of two operands combine (R29). -/
def combine (op : BinOp) (x y : Val) : Except Diag Val :=
  match op, x, y with
  | op, .num a, .num b => (binary op a b).map .num
  | .add, .place k s a p, .num b => (exact128 (a + b)).map (fun v => .place k s v p)
  | .add, .num a, .place k s b p => (exact128 (a + b)).map (fun v => .place k s v p)
  | .sub, .place k s a p, .num b => (exact128 (a - b)).map (fun v => .place k s v p)
  | .sub, .place _ (.own s) a _, .place _ (.own t) b _ => if s = t then (exact128 (a - b)).map .num else .error .kind
  | _, _, _ => .error .kind

/-- The kind of argument that a function takes (R32). -/
def Fn.kind : Fn → Kind
  | .lo => .data | .hi => .data | .vnum => .vault | .voff => .vault | .prio => .code | .words => .code

/-- A function of a place (R32, R33); `prio` is the priority of the place's symbol. -/
def applyFn (f : Fn) (b : Base) (off : Int) (prio : Except Diag Int) : Except Diag Val :=
  match f, b with
  | .lo, _ => .ok (.reloc .dataLo b off)
  | .hi, _ => .ok (.reloc .dataHi b off)
  | .vnum, _ => .ok (.reloc .vaultNum b off)
  | .voff, .own _ => .ok (.num off)
  | .voff, .ext _ => .ok (.reloc .vaultOff b off)
  | .prio, _ => prio.map .num
  | .words, .own _ => .ok (.num off)
  | .words, .ext _ => .ok (.reloc .code b off)

/-- The value of an expression (R29 to R33). A name that leads back to itself has none. -/
def eval (env : Env) (fuel : Nat) (c : Ctx) (e : Expr) : Except Diag Val :=
  match fuel with
  | 0 => .error .undefined
  | n + 1 =>
    let blockPrio (blk : Option Nat) : Except Diag Int :=
      match blk with
      | none => .ok 0
      | some i =>
        match env.blks[i]? with
        | none => .ok 0
        | some x =>
          match eval env n x.2 x.1 with
          | .ok (.num v) => if 0 ≤ v ∧ v ≤ 255 then .ok v else .error .range
          | .ok _ => .error .kind
          | .error d => .error d
    match e with
    | .num v d => (literal v d).map .num
    | .here =>
      match c.here with
      | none => .error .sectionError
      | some (s, off) => .ok (.place s.kind (.own s) off c.blk)
    | .name s =>
      match lookName env.syms s with
      | some (.label sec off blk) => .ok (.place sec.kind (.own sec) off blk)
      | some (.equ e c) =>
        match eval env n c e with
        | .ok (.num v) => .ok (.num v)
        | .ok _ => .error .kind
        | .error d => .error d
      | some .ext =>
        match lookName env.exts s with
        | some (.num v) => .ok (.num v)
        | some (.place k _) => .ok (.place k (.ext s) 0 none)
        | none => .error .undefined
      | none => .error .undefined
    | .paren e => eval env n c e
    | .un op e =>
      match eval env n c e with
      | .ok (.num v) => (unary op v).map .num
      | .ok _ => .error .kind
      | .error d => .error d
    | .bin op a b =>
      match eval env n c a with
      | .error d => .error d
      | .ok x =>
        match eval env n c b with
        | .error d => .error d
        | .ok y => combine op x y
    | .call f e =>
      match eval env n c e with
      | .ok (.place k b off blk) =>
        if k != f.kind then .error .kind
        else
          applyFn f b off (match b with
            | .own _ => blockPrio blk
            | .ext s => match lookName env.exts s with
              | some (.place _ p) => .ok p
              | _ => .error .undefined)
      | .ok _ => .error .kind
      | .error d => .error d

/-- Enough steps for every expression of a file: a line has at most 1024 characters, and each definition is one line. -/
def Env.fuel (env : Env) : Nat := 1100 * (env.syms.length + env.blks.length + 2)

def evalIn (env : Env) (c : Ctx) (e : Expr) : Except Diag Val := eval env env.fuel c e

/-- The priority that a branch to a code expression encodes: that of its symbol (R28). -/
def prioOf (env : Env) (b : Base) (blk : Option Nat) : Except Diag Nat :=
  match b, blk with
  | .ext s, _ => match lookName env.exts s with
    | some (.place _ p) => .ok p
    | _ => .error .undefined
  | .own _, none => .ok 0
  | .own _, some i =>
    match env.blks[i]? with
    | none => .ok 0
    | some x =>
      match evalIn env x.2 x.1 with
      | .ok (.num v) => if 0 ≤ v ∧ v ≤ 255 then .ok v.toNat else .error .range
      | .ok _ => .error .kind
      | .error d => .error d

/-- An absolute value. -/
def evalNum (env : Env) (c : Ctx) (e : Expr) : Except Diag Int :=
  match evalIn env c e with
  | .ok (.num v) => .ok v
  | .ok _ => .error .kind
  | .error d => .error d

/-- An absolute value between two bounds. -/
def evalRange (env : Env) (c : Ctx) (e : Expr) (lo hi : Int) : Except Diag Int :=
  match evalNum env c e with
  | .ok v => if lo ≤ v ∧ v ≤ hi then .ok v else .error .range
  | .error d => .error d

/-- A relocation that a field needs. -/
structure Need where
  kind : RelocKind
  base : Base
  addend : Int
  deriving DecidableEq, Repr

/-- What an integer field receives: a number known now, or a relocation (R33). A code, local or absolute value of this file is
known; a data or a vault address is no integer. -/
def fieldValue (v : Val) : Except Diag (Int × Option Need) :=
  match v with
  | .num v => .ok (v, none)
  | .place .code (.own _) off _ => .ok (off, none)
  | .place .local_ (.own _) off _ => .ok (off, none)
  | .place .code b off _ => .ok (0, some ⟨.code, b, off⟩)
  | .place .local_ b off _ => .ok (0, some ⟨.local_, b, off⟩)
  | .place _ _ _ _ => .error .kind
  | .reloc r b off => .ok (0, some ⟨r, b, off⟩)

/-! ### The loader (R33, R34) -/

/-- What the loader knows when it resolves a launch's relocations: the data base, where the images of a file's `.data` and
`.rodata` lie from it, the launch's grant mask, and the places of other files' symbols from their sections' bases. -/
structure LoadEnv where
  dataBase : Nat
  dataAt : Nat
  rodataAt : Nat
  grant : BitVec 256
  exts : List (String × Nat × Nat)
  deriving Repr

/-- The vault that slot n is bound to: the n-th lowest set bit of the grant mask, from 0 (R34); none when it has no such bit. -/
def slotVault (grant : BitVec 256) (n : Nat) : Option Nat := ((List.range 256).filter (fun i => grant.getLsbD i))[n]?

/-- A relocation's value (R33); none when the load is refused (R34). An external symbol's entry gives its offset and, for a
vault symbol, its slot. DEDUCED: log 118. DESIGN CHOICE: log 122. -/
def resolve (l : LoadEnv) (r : Need) : Option Nat :=
  let place : Option (Int × Nat) := match r.base with
    | .own .data => some (l.dataAt, 0)
    | .own .rodata => some (l.rodataAt, 0)
    | .own (.vault n) => some (0, n)
    | .own _ => some (0, 0)
    | .ext s => (lookName l.exts s).map (fun x => ((x.1 : Int), x.2))
  match place with
  | none => none
  | some (o, slot) =>
    let off := o + r.addend
    let va := ((l.dataBase : Int) + off) % 2 ^ 80
    match r.kind with
    | .code => if 0 ≤ off ∧ off < 2 ^ 32 then some off.toNat else none
    | .dataLo => some (va % 2 ^ 32).toNat
    | .dataHi => some (va / 2 ^ 32).toNat
    | .vaultNum => slotVault l.grant slot
    | .vaultOff => if 0 ≤ off ∧ off < 2 ^ 25 then some off.toNat else none
    | .local_ => if 0 ≤ off ∧ off < 2 ^ 20 then some off.toNat else none

end Sys2Proof.Limgar
end

