-- ==== Sys2Proof/Machine/LimgarData.lean ====
section
/-! DEFINITION. limgar's data directives (R35 to R38): what each emits, with the conversion of float literals (R36), packing
(R37) and bit-plane blocks (R38). -/

namespace Sys2Proof.Limgar

open Sys2Proof.Machine

/-- A part of a section's image: n copies of some bytes. -/
structure Piece where
  n : Nat
  bytes : List Byte
  deriving DecidableEq, Repr

def Piece.size (p : Piece) : Nat := p.n * p.bytes.length

/-- A relocation of a statement: where its field begins from the statement's first byte, and the field's bits. -/
structure Patch where
  at_ : Nat
  width : Nat
  need : Need
  deriving DecidableEq, Repr

/-- What a statement emits. -/
structure Emit where
  pieces : List Piece := []
  patches : List Patch := []
  warn : Bool := false
  deriving DecidableEq, Repr

/-! ### Float literals (R36) -/

/-- A decimal m · 10^e as a magnitude q · 2^k, and whether it lies strictly above that; q has more bits than any format. -/
def binaryOf (m : Nat) (e : Int) : Nat × Int × Bool :=
  let num := if 0 ≤ e then m * 10 ^ e.toNat else m
  let den := if 0 ≤ e then 1 else 10 ^ (-e).toNat
  let k := if den.log2 + 100 ≤ num.log2 then 0 else den.log2 + 100 - num.log2
  (num * 2 ^ k / den, -(k : Int), num * 2 ^ k % den != 0)

/-- Does a magnitude lie above the largest finite one of a format? -/
def aboveLargest (f : Fmt) (q : Nat) (k : Int) (more : Bool) : Bool :=
  match f.read (f.largest false) with
  | .fin _ m e =>
    let d := min k e
    let a := q * 2 ^ (k - d).toNat
    let b := m * 2 ^ (e - d).toNat
    decide (b < a) || (a == b && more)
  | _ => false

/-- A literal in a format: rounded to nearest even; a wide format takes `inf` and `nan`, the quiet NaN with a zero payload. A
narrow format rejects a value beyond its largest (R36). DEDUCED: log 119. -/
def floatCode (f : Fmt) (neg : Bool) (l : FloatLit) : Except Diag Nat :=
  match l with
  | .inf => if f.special then .ok (f.infinity neg) else .error .range
  | .nan => if f.special then .ok (f.signBit neg + f.defaultNan) else .error .range
  | .dec m e =>
    let x := binaryOf m e
    if !f.special && aboveLargest f x.1 x.2.1 x.2.2 then .error .range
    else .ok (f.round rne false neg x.1 x.2.1 x.2.2).1

/-- An integer in a format. -/
def intCode (f : Fmt) (v : Int) : Except Diag Nat := floatCode f (decide (v < 0)) (.dec v.natAbs 0)

/-! ### Arguments -/

/-- An argument as an expression. -/
def Arg.expr? (a : Arg) : Option Expr :=
  match a with
  | .word s => if reserved s then none else some (.name s)
  | .expr e => some e
  | _ => none

/-- An argument of an integer directive: its value in two's complement of `bytes` bytes, or a relocation where the field is wide
enough (R35). -/
def intArg (env : Env) (c : Ctx) (bytes : Nat) (a : Arg) : Except Diag (Nat × Option Need) :=
  match a.expr? with
  | none => .error .syntaxError
  | some e =>
    match evalIn env c e with
    | .error d => .error d
    | .ok v =>
      match fieldValue v with
      | .error d => .error d
      | .ok (_, some r) => if r.kind.width ≤ 8 * bytes then .ok (0, some r) else .error .range
      | .ok (x, none) =>
        if -(2 ^ (8 * bytes - 1)) ≤ x ∧ x < 2 ^ (8 * bytes) then .ok ((x % 2 ^ (8 * bytes)).toNat, none) else .error .range

/-- An argument of a float directive: a float or an integer literal, with a `-` before it or none, as a code of its format (R35).
DESIGN CHOICE: log 126. -/
def floatArg (f : Fmt) (a : Arg) : Except Diag Nat :=
  match a with
  | .flt neg l => floatCode f neg l
  | .expr (.num v d) => (literal v d).bind (intCode f)
  | .expr (.un .neg (.num v d)) => (literal v d).bind (fun x => intCode f (-x))
  | _ => .error .syntaxError

/-- An argument of `.int8`: an integer literal, with a `-` before it or none (R35). DESIGN CHOICE: log 126. -/
def int8Arg (a : Arg) : Except Diag Int :=
  let ok (x : Int) : Except Diag Int := if -128 ≤ x ∧ x ≤ 127 then .ok x else .error .range
  match a with
  | .expr (.num v d) => (literal v d).bind ok
  | .expr (.un .neg (.num v d)) => (literal v d).bind (fun x => ok (-x))
  | _ => .error .syntaxError

/-- An absolute argument between two bounds. -/
def numArg (env : Env) (c : Ctx) (lo hi : Int) (a : Arg) : Except Diag Int :=
  match a.expr? with
  | none => .error .syntaxError
  | some e => evalRange env c e lo hi

/-- All the results, or the first error. -/
def collectOk {α : Type} : List (Except Diag α) → Except Diag (List α)
  | [] => .ok []
  | .error d :: _ => .error d
  | .ok x :: l => (collectOk l).map (fun r => x :: r)

/-! ### Directives (R35) -/

/-- The bytes of an integer directive's values. -/
def intBytes (name : String) : Option Nat :=
  if name == "d8" then some 1 else if name == "d16" then some 2 else if name == "d32" then some 4 else if name == "d64" then some 8 else none

def floatFmt (name : String) : Option Fmt :=
  if name == "f64" then some f64 else if name == "f32" then some f32 else if name == "f16" then some f16 else if name == "bf16" then some bf16
  else if name == "e4m3f" then some e4m3f else if name == "e5m2f" then some e5m2f else if name == "e3m2f" then some e3m2f
  else if name == "e2m3f" then some e2m3f else if name == "e2m1f" then some e2m1f else none

/-- Is a directive one that emits data of the section's unit 1 (R35)? -/
def isData (name : String) : Bool :=
  (intBytes name).isSome || (floatFmt name).isSome || ["int8", "s8", "bp", "ascii", "fill"].contains name

/-- How many bytes a data directive emits, as its arguments' number decides; `.fill` is not one of these. -/
def dataSize (name : String) (args : List Arg) : Nat :=
  let n := args.length
  match intBytes name, floatFmt name with
  | some b, _ => b * n
  | none, some f => (f.width * n + 7) / 8
  | none, none =>
    if name == "bp" then 128
    else if name == "ascii" then (args.map (fun a => match a with
      | .str b => b.length
      | _ => 0)).sum
    else n

/-- Values of w bits each, packed from bit 0 of the first byte (R37). -/
def packBits (w : Nat) (l : List Nat) : List Byte := bytesOfNat ((w * l.length + 7) / 8) (l.foldr (fun x acc => x + 2 ^ w * acc) 0)

/-- What a data directive emits (R35 to R38): `.ascii` takes one string, `.s8` and `.bp` any absolute expressions.
DESIGN CHOICE: log 126. -/
def emitData (env : Env) (c : Ctx) (name : String) (args : List Arg) : Except Diag Emit :=
  match intBytes name, floatFmt name with
  | some b, _ =>
    (collectOk (args.map (intArg env c b))).map (fun l =>
      { pieces := [⟨1, (l.map (fun x => bytesOfNat b x.1)).flatten⟩]
        patches := (l.zipIdx.filterMap (fun p => p.1.2.map (fun r => ⟨b * p.2, 8 * b, r⟩))) })
  | none, some f =>
    (collectOk (args.map (floatArg f))).map (fun l =>
      { pieces := [⟨1, packBits f.width l⟩], warn := f.width * l.length % 8 != 0 })
  | none, none =>
    if name == "int8" then
      (collectOk (args.map int8Arg)).map (fun l => { pieces := [⟨1, l.map (fun x => BitVec.ofInt 8 x)⟩] })
    else if name == "s8" then
      (collectOk (args.map (numArg env c (-127) 128))).map (fun l => { pieces := [⟨1, l.map (fun x => BitVec.ofInt 8 (x + 127))⟩] })
    else if name == "bp" then
      if args.length != 128 then .error .syntaxError
      else
        (collectOk (args.map (numArg env c (-128) 127))).map (fun l =>
          let q (i : Nat) : Nat := ((l[i]?.getD 0) % 256).toNat
          { pieces := [⟨1, (List.range 128).map (fun b => BitVec.ofNat 8 (planeByte q b))⟩] })
    else if name == "ascii" then
      match args with
      | [.str b] => .ok { pieces := [⟨1, b.map (BitVec.ofNat 8)⟩] }
      | _ => .error .syntaxError
    else .error .syntaxError

/-- `.fill c, w, v`: its count, width and value (R35). -/
def fillArgs (env : Env) (c : Ctx) (args : List Arg) : Except Diag (Nat × Nat × Nat) :=
  match args with
  | [n, w, v] =>
    match numArg env c 0 (2 ^ 48) n, numArg env c 1 8 w with
    | .ok n, .ok w =>
      if !([1, 2, 4, 8].contains w.toNat) then .error .range
      else
        match numArg env c (-(2 ^ (8 * w.toNat - 1))) (2 ^ (8 * w.toNat) - 1) v with
        | .ok v => .ok (n.toNat, w.toNat, (v % 2 ^ (8 * w.toNat)).toNat)
        | .error d => .error d
    | .error d, _ => .error d
    | _, .error d => .error d
  | _ => .error .syntaxError

end Sys2Proof.Limgar
end

