-- ==== Sys2Proof/Machine/LimgarOps.lean ====
section
/-! DEFINITION. The instructions as limgar writes them: for each mnemonic its forms, with the operands in their written order,
the modifiers that each form takes, and the fields that they fill (R42 to R47, and the syntax in each class chapter); the
encoding of an instruction and of a pair slot. -/

namespace Sys2Proof.Limgar

open Sys2Proof.Machine

/-- A field of an instruction word. -/
inductive Fld where
  | dst | a | b | c
  deriving DecidableEq, Repr

/-- How an operand is written, and so what it puts into its field. -/
inductive OpKind where
  /-- a register of one file: its operand code, or its number in a file without codes (R58, R59) -/
  | reg (f : File)
  /-- a v or an s register -/
  | vors
  /-- an s register, a latch or a constant (R111) -/
  | uni
  /-- a v register or pair, an s register, a latch or a constant (R133) -/
  | src
  /-- an s register or a constant of at least 0 (R325) -/
  | len
  | sys
  /-- a number for bits of mod: its largest value -/
  | num (max : Nat)
  /-- a branch target (R173) -/
  | target
  /-- the 32-bit immediate of a form that has no other (R55) -/
  | imm
  /-- a memory operand with scale, sign and immediate (R228, layout A): in the local store; with an index -/
  | mem (ls index : Bool)
  /-- a memory operand whose index is scaled by the access size (R229, layouts P and M) -/
  | memN
  /-- a push destination (R47, R242) -/
  | push
  deriving DecidableEq, Repr

/-- An operand of a form: its field, how it is written, whether it is written and read, and how many registers it names, by
the form's mod bits. -/
structure OpSpec where
  fld : Fld
  k : OpKind
  wr : Bool := false
  rd : Bool := true
  cnt : Nat → Nat := fun _ => 1

/-- A category of modifiers: their names and the bits of mod that each sets (R46). -/
abbrev Category := List (String × Nat)

/-- A form of a mnemonic: its class and op, the modifiers that select it, the bits of mod and of the fields that it sets itself,
its categories, its operands, the op of its immediate form (R43), and whether it takes a mask. -/
structure Form where
  cls : Nat
  op : Nat
  ops : List OpSpec := []
  cats : List Category := []
  need : List String := []
  base : Nat := 0
  dstBits : Nat := 0
  aBits : Nat := 0
  bBits : Nat := 0
  imm : Option Nat := none
  isFloat : Bool := false
  mask : Bool := false
  layoutI : Bool := false
  /-- the register file of its first operand, where that tells it from another form (R241) -/
  first : Option File := none
  /-- registers that it writes beside its operands -/
  also : List Nat := []

/-! ### Categories (R56 and the class chapters) -/

def cat (sh : Nat) (names : List String) : Category := names.zipIdx.map (fun p => (p.1, p.2 * 2 ^ sh))

def itypes : List String := ["i32", "n32", "i16", "n16", "i8", "n8", "i64", "n64"]
def cRnd : Category := cat 0 ["rn", "rz", "ru", "rd", "rs"]
def scopes : List String := ["wp", "gp", "cl", "di", "dv", "sy"]
def cScope7 : Category := cat 7 scopes
def conds : List String := ["eq", "ne", "lt", "le", "gt", "ge"]
def fconds : List String := conds ++ ["un", "or"]
def cvtTypes : List String := ["i32", "n32", "i64", "n64", "f64", "f32", "bf16", "f16"]
def cFrom : Category := cat 6 ["from_i32", "from_n32", "from_i64", "from_n64", "from_f64", "from_f32", "from_bf16", "from_f16"]
def vtypes : Category := cat 3 ["f32", "f64", "bf16", "f16"]
def nfmts : Category := cat 3 ["e4m3f", "e5m2f", "e3m2f", "e2m3f", "e2m1f", "int8"]
def rtypes : List String := ["i32", "n32", "i64", "n64", "f32", "f64", "bf16", "f16"]

/-! ### Operands -/

def rg (fld : Fld) (f : File) : OpSpec := { fld := fld, k := .reg f }
/-- A destination register. -/
def wrg (fld : Fld) (f : File) : OpSpec := { fld := fld, k := .reg f, wr := true, rd := false }
def uniAt (fld : Fld) : OpSpec := { fld := fld, k := .uni }

/-- 1 or 2 registers, by whether the type is 64 bits wide. -/
def pairIf (wide : Nat → Bool) (m : Nat) : Nat := if wide m then 2 else 1
def vAt (fld : Fld) (wide : Nat → Bool) : OpSpec := { fld := fld, k := .reg .v, cnt := pairIf wide }
def wvAt (fld : Fld) (wide : Nat → Bool) : OpSpec := { vAt fld wide with wr := true, rd := false }
def srcAt (fld : Fld) (wide : Nat → Bool) : OpSpec := { fld := fld, k := .src, cnt := pairIf wide }
/-- A destination that is read too. -/
def rwAt (o : OpSpec) : OpSpec := { o with wr := true, rd := true }

def never (_ : Nat) : Bool := false
def always (_ : Nat) : Bool := true
/-- The bits [hi:lo] of mod. -/
def bits (hi lo m : Nat) : Nat := m / 2 ^ lo % 2 ^ (hi + 1 - lo)

/-! ### Class 0 (R114 to R127) -/

def s3 (op : Nat) (imm : Option Nat) : Form :=
  { cls := 0, op := op, ops := [wrg .dst .s, uniAt .a, uniAt .b], cats := [cat 0 itypes], imm := imm }
def s2 (op : Nat) : Form := { cls := 0, op := op, ops := [wrg .dst .s, uniAt .a], cats := [cat 0 itypes] }
def sf (op : Nat) (ops : List OpSpec) : Form :=
  { cls := 0, op := op, ops := wrg .dst .s :: uniAt .a :: ops, cats := [cat 3 ["f64", "f32", "bf16", "f16"], cRnd], isFloat := true }
def k3 (op : Nat) : Form := { cls := 0, op := op, ops := [wrg .dst .k, rg .a .k, rg .b .k] }
def k2 (op : Nat) : Form := { cls := 0, op := op, ops := [wrg .dst .k, rg .a .k] }

def table0 : List (String × List Form) :=
  [("sadd", [s3 0x00 (some 0x40)]), ("ssub", [s3 0x01 (some 0x41)]), ("smul", [s3 0x02 (some 0x42)]), ("smulh", [s3 0x03 none]),
   ("sdiv", [s3 0x04 none]), ("srem", [s3 0x05 none]), ("sand", [s3 0x06 (some 0x46)]), ("sor", [s3 0x07 (some 0x47)]),
   ("sxor", [s3 0x08 (some 0x48)]), ("sshl", [s3 0x09 (some 0x49)]), ("sshr", [s3 0x0A (some 0x4A)]), ("ssar", [s3 0x0B (some 0x4B)]),
   ("smin", [s3 0x0C (some 0x4C)]), ("smax", [s3 0x0D (some 0x4D)])] ++
  [("scmp", [{ s3 0x0E (some 0x4E) with cats := [cat 0 itypes, cat 3 conds] }]),
   ("ssel", [{ cls := 0, op := 0x0F, ops := [wrg .dst .s, uniAt .a, uniAt .b, uniAt .c] }]),
   ("smov", [s2 0x10]), ("spopc", [s2 0x11]), ("sclz", [s2 0x12]),
   ("sbfe", [{ s2 0x13 with ops := [wrg .dst .s, uniAt .a, uniAt .b, uniAt .c] }]),
   ("sbfi", [{ s2 0x14 with ops := [rwAt (rg .dst .s), uniAt .a, uniAt .b, uniAt .c] }]),
   ("sfadd", [sf 0x18 [uniAt .b]]), ("sfmul", [sf 0x19 [uniAt .b]]), ("sffma", [sf 0x1A [uniAt .b, uniAt .c]]),
   ("sfcmp", [{ sf 0x1B [uniAt .b] with cats := [cat 3 ["f64", "f32", "bf16", "f16"], cat 5 fconds] }])] ++
  [("scvt", [{ cls := 0, op := 0x1C, ops := [wrg .dst .s, uniAt .a], cats := [cat 3 cvtTypes, cFrom, cRnd] }]),
   ("aadd", [{ cls := 0, op := 0x20, ops := [wrg .dst .a, rg .a .a, uniAt .b] }]),
   ("amov", [{ cls := 0, op := 0x21, ops := [wrg .dst .a, rg .a .a] }]),
   ("ajoin", [{ cls := 0, op := 0x22, ops := [wrg .dst .a, uniAt .a, uniAt .b] }]),
   ("asplit", [{ cls := 0, op := 0x23, ops := [wrg .dst .s, rg .a .a], cats := [cat 0 ["lo", "hi"]] }]),
   ("acmp", [{ cls := 0, op := 0x24, ops := [wrg .dst .s, rg .a .a, rg .b .a], cats := [cat 3 conds] }]),
   ("aaddi", [{ cls := 0, op := 0x60, ops := [wrg .dst .a, rg .a .a, { fld := .b, k := .imm }], layoutI := true }]),
   ("sli", [{ cls := 0, op := 0x50, ops := [wrg .dst .s, { fld := .b, k := .imm }], layoutI := true }]),
   ("slih", [{ cls := 0, op := 0x51, ops := [rwAt (rg .dst .s), { fld := .b, k := .imm }], layoutI := true }])] ++
  [("kand", [k3 0x30]), ("kor", [k3 0x31]), ("kxor", [k3 0x32]), ("kandn", [k3 0x33]), ("knot", [k2 0x34]), ("kmov", [k2 0x35]),
   ("kpopc", [{ k2 0x36 with ops := [wrg .dst .s, rg .a .k] }]), ("kfirst", [{ k2 0x37 with ops := [wrg .dst .s, rg .a .k] }]),
   ("kset", [{ cls := 0, op := 0x38, ops := [wrg .dst .k, uniAt .a, uniAt .b] }]),
   ("kget", [{ cls := 0, op := 0x39, ops := [wrg .dst .s, rg .a .k], cats := [cat 0 ["lo", "hi"]] }])]

/-! ### Class 1 (R136, R137) -/

def wI (m : Nat) : Bool := decide (6 ≤ bits 2 0 m)
def cSat : Category := [("sat", 0x80)]
def v3 (op : Nat) (imm : Bool) : Form :=
  { cls := 1, op := op, ops := [wvAt .dst wI, srcAt .a wI, srcAt .b wI], cats := [cat 0 itypes], mask := true
    imm := if imm then some (op + 0x40) else none }
def v2 (op : Nat) : Form := { v3 op false with ops := [wvAt .dst wI, srcAt .a wI] }
def v4 (op : Nat) : Form := { v3 op false with ops := [wvAt .dst wI, srcAt .a wI, srcAt .b wI, srcAt .c wI] }

def table1 : List (String × List Form) :=
  [("vadd", [{ v3 0x00 true with cats := [cat 0 itypes, cSat] }]), ("vsub", [{ v3 0x01 true with cats := [cat 0 itypes, cSat] }]),
   ("vmul", [v3 0x02 true]), ("vmulh", [v3 0x03 false]), ("vmad", [v4 0x04]), ("vand", [v3 0x05 true]), ("vor", [v3 0x06 true]),
   ("vxor", [v3 0x07 true]), ("vnot", [v2 0x08]), ("vshl", [v3 0x09 true]), ("vshr", [v3 0x0A true]), ("vsar", [v3 0x0B true]),
   ("vmin", [v3 0x0C true]), ("vmax", [v3 0x0D true])] ++
  [("vabs", [{ v2 0x0E with cats := [cat 0 itypes, cSat] }]), ("vneg", [{ v2 0x0F with cats := [cat 0 itypes, cSat] }]),
   ("vcmp", [{ v3 0x10 true with ops := [wrg .dst .k, srcAt .a wI, srcAt .b wI], cats := [cat 0 itypes, cat 3 conds] }]),
   ("vsel", [{ v3 0x11 false with ops := [wvAt .dst never, srcAt .a never, srcAt .b never, rg .c .k], cats := [] }]),
   ("vmov", [{ v2 0x12 with imm := some 0x52 }]), ("vbfe", [v4 0x13]),
   ("vbfi", [{ v4 0x14 with ops := [rwAt (vAt .dst wI), srcAt .a wI, srcAt .b wI, srcAt .c wI] }]), ("vpopc", [v2 0x15]), ("vclz", [v2 0x16]),
   ("vlane", [{ v2 0x17 with ops := [wvAt .dst never, srcAt .a never], cats := [] }])]

/-! ### Class 2 (R139 to R145) -/

def wF (m : Nat) : Bool := bits 4 3 m == 1
def f3 (op : Nat) (imm : Bool) : Form :=
  { cls := 2, op := op, ops := [wvAt .dst wF, srcAt .a wF, srcAt .b wF], cats := [vtypes, cRnd], mask := true, isFloat := true
    imm := if imm then some (op + 0x40) else none }
def f2 (op : Nat) : Form := { f3 op false with ops := [wvAt .dst wF, srcAt .a wF] }
def h3 (op : Nat) (ops : List OpSpec) : Form :=
  { cls := 2, op := op, ops := wvAt .dst never :: srcAt .a never :: srcAt .b never :: ops, cats := [cat 3 ["f16", "bf16"], cRnd]
    mask := true, isFloat := true }

def table2 : List (String × List Form) :=
  [("fadd", [f3 0x00 true]), ("fsub", [f3 0x01 true]), ("fmul", [f3 0x02 true]),
   ("ffma", [{ f3 0x03 false with ops := [wvAt .dst wF, srcAt .a wF, srcAt .b wF, srcAt .c wF] }]),
   ("fmin", [{ f3 0x04 true with cats := [vtypes] }]), ("fmax", [{ f3 0x05 true with cats := [vtypes] }]),
   ("fabs", [{ f2 0x06 with cats := [vtypes] }]), ("fneg", [{ f2 0x07 with cats := [vtypes] }]),
   ("fcmp", [{ f3 0x08 true with ops := [wrg .dst .k, srcAt .a wF, srcAt .b wF], cats := [vtypes, cat 5 fconds] }])] ++
  [("frcp", [f2 0x09]), ("frsq", [f2 0x0A]), ("fsqrt", [f2 0x0B]), ("fdiv", [f3 0x0C false]), ("fexp2", [f2 0x0D]), ("flog2", [f2 0x0E]),
   ("fsin", [f2 0x0F]), ("fcos", [f2 0x10]), ("frnd", [f2 0x11]), ("hadd2", [h3 0x18 []]), ("hmul2", [h3 0x19 []]),
   ("hfma2", [h3 0x1A [srcAt .c never]]),
   ("vdot4", [{ h3 0x1B [srcAt .c never] with
      cats := [cat 3 ["a_int8", "a_e4m3f", "a_e5m2f"], cat 5 ["b_int8", "b_e4m3f", "b_e5m2f"], cRnd], isFloat := false }]),
   ("vdot8", [{ h3 0x1C [srcAt .c never] with cats := [cRnd], isFloat := false }])]

/-! ### Class 3 (R146 to R156) -/

/-- A conversion type code of 64 bits (R146), and a reduction type code (R151). -/
def wTo (m : Nat) : Bool := wideC (bits 5 3 m)
def wFrom (m : Nat) : Bool := wideC (bits 8 6 m)
def wR (m : Nat) : Bool := wideR (bits 5 3 m)
def blockAt (o : OpSpec) : OpSpec := { o with cnt := fun m => cvtpBlock (bits 5 3 m) }
def x3 (op : Nat) (ops : List OpSpec) (cats : List Category) : Form := { cls := 3, op := op, ops := ops, cats := cats, mask := true }

def table3 : List (String × List Form) :=
  [("cvt", [x3 0x00 [wvAt .dst wTo, srcAt .a wFrom] [cat 3 cvtTypes, cFrom, cRnd]]),
   ("cvts", [{ x3 0x01 [wvAt .dst always, srcAt .a never, srcAt .b never] [cat 6 ["f32", "f64"], nfmts] with need := ["from"], base := 0x80 },
      x3 0x01 [wvAt .dst never, srcAt .a (fun m => bits 6 6 m == 1), srcAt .b never] [[("to", 0)], cat 6 ["f32", "f64"], nfmts, cRnd]]),
   ("cvtp", [{ x3 0x02 [wvAt .dst never, vAt .a never] [[("p8", 0), ("p2", 2), ("p3", 3), ("p4", 4), ("p5", 5), ("p6", 6), ("p7", 7)]] with
        need := ["bp", "unpack"], base := 0xB0 },
      { x3 0x02 [wvAt .dst never, vAt .a never] [[("pack", 0)]] with need := ["bp"], base := 0x30 },
      { x3 0x02 [blockAt (wvAt .dst never), vAt .a never] [nfmts] with need := ["unpack"], base := 0x80 },
      x3 0x02 [wvAt .dst never, blockAt (vAt .a never)] [[("pack", 0)], nfmts, cRnd],
      { x3 0x02 [wvAt .dst never, blockAt (vAt .a never), srcAt .b never] [[("pack", 0)], nfmts, cRnd] with base := 0x40 }])] ++
  [("vshfl", [x3 0x08 [wvAt .dst never, vAt .a never, srcAt .b never]
      [cat 0 ["idx", "up", "down", "xor"], cat 2 ["w128", "w64", "w32", "w16", "w8", "w4", "w2"]]]),
   ("vbcast", [x3 0x09 [wvAt .dst never, vAt .a never, uniAt .b] []]),
   ("vred", [x3 0x0A [{ fld := .dst, k := .vors, wr := true, rd := false, cnt := pairIf wR }, srcAt .a wR]
      [cat 6 ["add", "min", "max", "and", "or", "xor"], cat 3 rtypes, cRnd]]),
   ("vscan", [x3 0x0B [wvAt .dst wR, srcAt .a wR] [cat 6 ["add", "min", "max", "and", "or", "xor"], cat 3 rtypes, cRnd]]),
   ("vvote", [{ x3 0x0C [wrg .dst .k, srcAt .a never] [] with need := ["ballot"], base := 3 },
      x3 0x0C [wrg .dst .s, srcAt .a never] [cat 0 ["all", "any", "uni"]]])]

/-! ### Class 4 (R173 to R185) -/

def tgt : OpSpec := { fld := .b, k := .target }

def table4 : List (String × List Form) :=
  [("br", [{ cls := 4, op := 0x00, ops := [tgt, uniAt .dst], need := ["nz"], layoutI := true },
      { cls := 4, op := 0x00, ops := [tgt, uniAt .dst], need := ["z"], aBits := 0x100, layoutI := true },
      { cls := 4, op := 0x00, ops := [tgt], dstBits := 0x1C1, layoutI := true }]),
   ("brk", [{ cls := 4, op := 0x01, ops := [tgt, rg .dst .k], need := ["not"], aBits := 0x100, layoutI := true },
      { cls := 4, op := 0x01, ops := [tgt, rg .dst .k], layoutI := true }]),
   ("brx", [{ cls := 4, op := 0x02, ops := [{ fld := .a, k := .vors, cnt := pairIf always }], mask := true }]),
   ("call", [{ cls := 4, op := 0x03, ops := [tgt, wvAt .dst always], layoutI := true }]),
   ("ret", [{ cls := 4, op := 0x04, ops := [vAt .a always], mask := true }])] ++
  [("yield", [{ cls := 4, op := 0x05 }]), ("join", [{ cls := 4, op := 0x06, ops := [rg .a .k] }]),
   ("prio", [{ cls := 4, op := 0x07, ops := [uniAt .a] }]), ("exit", [{ cls := 4, op := 0x08, cats := [cat 0 scopes], mask := true }]),
   ("nop", [{ cls := 4, op := 0x09 }]), ("spinw", [{ cls := 4, op := 0x0A, ops := [uniAt .a] }])]

/-! ### Class 5 (R200 to R215) -/

def duties : Category := cat 0 ["bind", "weir", "refit", "regen", "cast", "qrep", "pfault"]

def table5 : List (String × List Form) :=
  [("trap", [{ cls := 5, op := 0x00, ops := [uniAt .a] }]), ("tret", [{ cls := 5, op := 0x01 }]),
   ("sysr", [{ cls := 5, op := 0x02, ops := [wrg .dst .s, { fld := .a, k := .sys }] }]),
   ("sysw", [{ cls := 5, op := 0x03, ops := [{ fld := .dst, k := .sys, wr := true, rd := false }, uniAt .a] }]),
   ("cyc", [{ cls := 5, op := 0x04, ops := [wrg .dst .s], cats := [[("vt", 1)]] }]),
   ("tarm", [{ cls := 5, op := 0x05, ops := [uniAt .a], cats := [[("dl", 1)]] }]),
   ("pmon", [{ cls := 5, op := 0x06, ops := [uniAt .a, uniAt .b], need := ["sel"], base := 1 },
      { cls := 5, op := 0x06, ops := [uniAt .a], need := ["clr"], base := 2 },
      { cls := 5, op := 0x06, ops := [wrg .dst .s, uniAt .a, uniAt .b], cats := [[("rd", 0)]] }])] ++
  [("bkpt", [{ cls := 5, op := 0x07, ops := [uniAt .a] }]), ("cwb", [{ cls := 5, op := 0x08, ops := [rg .a .a, rg .b .s] }]),
   ("cinv", [{ cls := 5, op := 0x09, ops := [rg .a .a, rg .b .s], cats := [cat 0 ["l1", "l2"]] }]),
   ("tlbi", [{ cls := 5, op := 0x0A, ops := [rg .b .s], cats := [cat 0 scopes], need := ["asid"], base := 0x08 },
      { cls := 5, op := 0x0A, ops := [], cats := [cat 0 scopes], need := ["all"], base := 0x10 },
      { cls := 5, op := 0x0A, ops := [rg .a .a, rg .b .s], cats := [cat 0 scopes, [("va", 0)]] }]),
   ("wake", [{ cls := 5, op := 0x0B, ops := [uniAt .a] }]), ("pgate", [{ cls := 5, op := 0x0C, ops := [wrg .dst .s, uniAt .a] }]),
   ("mode", [{ cls := 5, op := 0x0D, ops := [wrg .dst .s], cats := [duties], need := ["rd"], base := 8 },
      { cls := 5, op := 0x0D, ops := [wrg .dst .s, uniAt .a], cats := [duties] }])]

/-! ### Classes 6 and 7 (R228 to R251) -/

def wM (m : Nat) : Bool := decide (6 ≤ bits 6 4 m)
def memAt (ls index : Bool) : OpSpec := { fld := .a, k := .mem ls index }
def memForm (cls op : Nat) (o : OpSpec) (m : OpSpec) : Form := { cls := cls, op := op, ops := [o, m], cats := [cat 4 itypes], mask := true }
/-- LDT's registers (R238). -/
def ldtCount (m : Nat) : Nat := (ldtSize (bits 6 4 m)).getD 1
def wAt (m : Nat) : Bool := decide (2 ≤ bits 6 5 m)
def atypes : Category := cat 5 ["i32", "n32", "i64", "n64"]
def cOrd : Category := [("acq", 1), ("rel", 2), ("ar", 3)]
def aops : Category := cat 2 ["add", "min", "max", "and", "or", "xor", "exch"]
def memNAt : OpSpec := { fld := .a, k := .memN }

def table6 : List (String × List Form) :=
  [("ld", [{ memForm 6 0x01 (wvAt .dst wM) (memAt false true) with need := ["rep"] }, memForm 6 0x00 (wvAt .dst wM) (memAt false true)]),
   ("ldu", [{ memForm 6 0x03 (wrg .dst .s) (memAt false false) with need := ["rep"] }, memForm 6 0x02 (wrg .dst .s) (memAt false false)]),
   ("lda", [{ memForm 6 0x04 (wrg .dst .s) (memAt false false) with cats := [cat 4 itypes, cScope7], first := some .s },
     { memForm 6 0x04 { fld := .dst, k := .vors, wr := true, rd := false, cnt := pairIf wM } (memAt false true) with
      cats := [cat 4 itypes, cScope7] }]),
   ("ldl", [memForm 6 0x05 (wvAt .dst wM) (memAt true true)]),
   ("ldt", [memForm 6 0x06 { fld := .dst, k := .reg .v, wr := true, rd := false, cnt := ldtCount } (memAt false true)]),
   ("ldv", [memForm 6 0x07 (wvAt .dst wM) (memAt false true)]),
   ("pref", [{ cls := 6, op := 0x08, ops := [memAt false true], cats := [cat 4 ["l1", "l2"]], mask := true }])]

def atomForm (op : Nat) (ops : List OpSpec) (cats : List Category) : Form :=
  { cls := 7, op := op, ops := ops, cats := atypes :: cScope7 :: cats, mask := true }
/-- `.fadd`, whose type is written `.f32` (R247). -/
def fadd (op : Nat) (ops : List OpSpec) (ord : Category) : Form :=
  { cls := 7, op := op, ops := ops, cats := [[("f32", 0)], ord, cScope7], need := ["fadd"], base := 0x1C, mask := true, isFloat := true }

def table7 : List (String × List Form) :=
  [("st", [memForm 7 0x00 (vAt .dst wM) (memAt false true)]), ("stu", [memForm 7 0x01 (rg .dst .s) (memAt false false)]),
   ("strl", [{ memForm 7 0x02 (rg .dst .s) (memAt false false) with cats := [cat 4 itypes, cScope7], first := some .s },
     { memForm 7 0x02 (vAt .dst wM) (memAt false true) with cats := [cat 4 itypes, cScope7] }]),
   ("stl", [memForm 7 0x03 (vAt .dst wM) (memAt true true)]), ("stv", [memForm 7 0x04 (vAt .dst wM) (memAt false true)]),
   ("pour", [{ memForm 7 0x05 (vAt .dst wM) memNAt with
      ops := [vAt .dst wM, memNAt, { fld := .c, k := .push }], cats := [cat 4 itypes, cScope7, [("rel", 8)]] }])] ++
  [("atom", [fadd 0x06 [wvAt .dst never, memNAt, srcAt .c never] cOrd, atomForm 0x06 [wvAt .dst wAt, memNAt, srcAt .c wAt] [aops, cOrd]]),
   ("atomn", [fadd 0x07 [memNAt, srcAt .c never] [("rel", 2)], atomForm 0x07 [memNAt, srcAt .c wAt] [aops, [("rel", 2)]]]),
   ("cas", [atomForm 0x08 [rwAt (vAt .dst wAt), memNAt, srcAt .c wAt] [cOrd]]), ("fence", [{ cls := 7, op := 0x09, cats := [cScope7] }])]

/-! ### Class 8 (R317) -/

def engine (op : Nat) (ops : List OpSpec) : Form := { cls := 8, op := op, ops := ops, cats := [cScope7] }
/-- CPY's two sides: an a register in virtual memory, else an s register (R317). -/
def cpyForm (dsp ssp : String) (need : List String) (base : Nat) : Form :=
  { engine 0x00 [wrg .dst .s, rg .a (if dsp == "dva" then .a else .s), rg .b (if ssp == "sva" then .a else .s), { fld := .c, k := .len }] with
    cats := [cScope7, [("hold", 4)]] ++ (if dsp == "dva" then [[("dva", 0)]] else []) ++ (if ssp == "sva" then [[("sva", 0)]] else [])
    need := need, base := base }

def table8 : List (String × List Form) :=
  [("cpy", [cpyForm "dls" "sls" ["dls", "sls"] 0x28, cpyForm "dls" "svt" ["dls", "svt"] 0x30, cpyForm "dvt" "sls" ["dvt", "sls"] 0x48,
      cpyForm "dvt" "svt" ["dvt", "svt"] 0x50, cpyForm "dls" "sva" ["dls"] 0x20, cpyForm "dvt" "sva" ["dvt"] 0x40,
      cpyForm "dva" "sls" ["sls"] 0x08, cpyForm "dva" "svt" ["svt"] 0x10, cpyForm "dva" "sva" [] 0]),
   ("cpyt", [{ engine 0x01 [wrg .dst .s, rg .a .s, rg .b .s] with need := ["pinit"], base := 0x18 },
      { engine 0x01 [wrg .dst .s, rg .a .d, rg .b .d, rg .c .s] with
        cats := [cScope7, cat 3 ["rr", "vsrc", "vdst"], [("c6d", 0x40)], [("c6s", 0x20)]] }])] ++
  [("slinit", [{ cls := 8, op := 0x08, ops := [uniAt .a, rg .b .s, rg .c .s] }]),
   ("slarr", [{ cls := 8, op := 0x09, ops := [uniAt .a, uniAt .b] }, { cls := 8, op := 0x09, ops := [uniAt .a], bBits := 0x1C0 }]),
   ("slwait", [{ cls := 8, op := 0x0A, ops := [uniAt .a, uniAt .b] }]),
   ("skim", [engine 0x10 [wrg .dst .s, rg .a .s, rg .b .s, rg .c .s]]),
   ("dross", [{ engine 0x11 [wrg .dst .s, uniAt .a] with need := ["clr"], base := 1 },
      { engine 0x11 [wrg .dst .s, uniAt .a, rg .b .s] with cats := [cScope7, [("rd", 0)]] }]),
   ("bin", [engine 0x18 [wrg .dst .s, rg .a .s, rg .b .s, rg .c .s]]),
   ("bpatch", [{ cls := 8, op := 0x19, ops := [rg .a .s, rg .b .s, uniAt .c] }]), ("erls", [{ cls := 8, op := 0x1A }])]

/-! ### Class 9 (R362) -/

def table9 : List (String × List Form) :=
  [("bar", [{ cls := 9, op := 0x00, ops := [uniAt .a, uniAt .b] }]), ("phase", [{ cls := 9, op := 0x01 }]),
   ("carry", [{ cls := 9, op := 0x02, ops := [rg .a .s], need := ["ls"], base := 1 },
      { cls := 9, op := 0x02, ops := [rg .a .s, rg .b .s, rg .c .s], cats := [[("regs", 0)]] }]),
   ("vgive", [{ cls := 9, op := 0x03, ops := [uniAt .a] }]), ("vclaim", [{ cls := 9, op := 0x04, ops := [uniAt .a] }]),
   ("enq", [{ cls := 9, op := 0x08, ops := [wrg .dst .s, uniAt .a, rg .b .a], cats := [cScope7] }])] ++
  [("launch", [{ cls := 9, op := 0x09, ops := [wrg .dst .s, uniAt .a, rg .b .a], cats := [cScope7, [("hold", 4)]] }]),
   ("gcond", [{ cls := 9, op := 0x0A, ops := [uniAt .a, uniAt .b] }]),
   ("cwait", [{ cls := 9, op := 0x0B, ops := [rg .a .a, uniAt .b], cats := [cScope7] }]),
   ("migr", [{ cls := 9, op := 0x0C, ops := [wrg .dst .s, uniAt .a] }]),
   ("bind", [{ cls := 9, op := 0x0D, ops := [wrg .dst .s, uniAt .a, uniAt .b] }])]

/-! ### Classes 10 and 11 (R391, R437) -/

/-- Register numbers of the chain checks: each file from its own base. -/
def regBase : File → Nat
  | .v => 0 | .s => 0x100 | .a => 0x200 | .k => 0x300 | .y => 0x400 | .d => 0x500 | .c => 0x600 | .q => 0x700

def allQ : List Nat := (List.range 16).map (fun i => regBase .q + i)
def mma (op : Nat) (z : Bool) (ops : List OpSpec) : Form :=
  { cls := 10, op := op, ops := (if z then wrg .dst .c else rwAt (rg .dst .c)) :: rg .a .d :: rg .b .d :: ops
    need := if z then ["z"] else [], base := if z then 1 else 0 }
def mpoly (x3 : Bool) : Form :=
  { cls := 10, op := 0x04, ops := [rwAt (rg .dst .c), rg .a .c, uniAt .b, { fld := .c, k := .num 15 }]
    need := if x3 then ["f32x3"] else [], base := if x3 then 16 else 0 }
def miter (x3 : Bool) : Form :=
  { cls := 10, op := 0x05, ops := [rwAt (rg .dst .c), uniAt .a, { fld := .c, k := .num 255 }], cats := [[("step", 0x100)], [("ctrap", 0x200)]]
    need := if x3 then ["f32x3"] else [], bBits := if x3 then 1 else 0 }

def table10 : List (String × List Form) :=
  [("mdesc", [{ cls := 10, op := 0x00, ops := [wrg .dst .s, rg .a .d], cats := [cat 1 ["lo", "hi"]], need := ["get"], base := 1 },
      { cls := 10, op := 0x00, ops := [wrg .dst .d, rg .a .s, rg .b .s], cats := [[("set", 0)]] }]),
   ("mzero", [{ cls := 10, op := 0x01, ops := [wrg .dst .c] }]), ("mma", [mma 0x02 true [], mma 0x02 false []]),
   ("mloop", [mma 0x03 true [uniAt .c], mma 0x03 false [uniAt .c]]), ("mpoly", [mpoly true, mpoly false]),
   ("miter", [miter true, miter false])] ++
  [("mldc", [{ cls := 10, op := 0x06, ops := [wrg .dst .c, rg .a .d] }]),
   ("mstc", [{ cls := 10, op := 0x07, ops := [rg .dst .d, rg .a .c], cats := [cRnd] }]),
   ("mmov", [{ cls := 10, op := 0x08, ops := [wrg .dst .c, rg .a .c], cats := [[("t", 1)]] },
      { cls := 10, op := 0x08, ops := [wrg .dst .c, rg .a .c, rg .b .q], cats := [[("t", 1)]], base := 2 }]),
   ("mnrm", [{ cls := 10, op := 0x09, ops := [wrg .dst .s, rg .a .c, uniAt .b], cats := [cat 0 ["fro", "fid", "max"]] }]),
   ("mqld", [{ cls := 10, op := 0x0A, ops := [uniAt .a], need := ["ls"], base := 1, also := allQ },
      { cls := 10, op := 0x0A, ops := [uniAt .a], need := ["vt"], base := 2, also := allQ },
      { cls := 10, op := 0x0A, ops := [wrg .dst .q, uniAt .a], cats := [[("one", 0)]] }]),
   ("mstat", [{ cls := 10, op := 0x0B, ops := [wrg .dst .s, rg .a .q], need := ["q"], base := 5 },
      { cls := 10, op := 0x0B, ops := [wrg .dst .s, rg .a .c], cats := [cat 0 ["r", "rp", "it", "flg", "pois"]] }])]

def table11 : List (String × List Form) :=
  [("creg", [{ cls := 11, op := 0x00, ops := [wrg .dst .s, uniAt .a, rg .b .a], cats := [cScope7] }]),
   ("cunreg", [{ cls := 11, op := 0x01, ops := [wrg .dst .s, uniAt .a], cats := [cScope7] }]),
   ("recast", [{ cls := 11, op := 0x02, ops := [wrg .dst .s, uniAt .a], cats := [cScope7], need := ["fit"], base := 1 },
      { cls := 11, op := 0x02, ops := [wrg .dst .s, uniAt .a, rg .b .a], cats := [cScope7] }]),
   ("cgen", [{ cls := 11, op := 0x03, ops := [wrg .dst .s, uniAt .a], cats := [cScope7, [("acq", 1)]] }]),
   ("ceval", [{ cls := 11, op := 0x04, ops := [wvAt .dst never, uniAt .a, vAt .b always], mask := true }]),
   ("cflash", [{ cls := 11, op := 0x05, ops := [wrg .dst .s, uniAt .a] }])]

/-- The forms of a mnemonic in lower case. -/
def formsOf (mn : String) : List Form :=
  ([table0, table1, table2, table3, table4, table5, table6, table7, table8, table9, table10, table11].findSome?
    (fun t => lookName t mn)).getD []

/-! ### Choosing a form, and its modifiers (R46) -/

/-- The forms whose selecting modifiers are all written, the most selective ones. -/
def chosen (fs : List Form) (mods : List String) : List Form :=
  let ok := fs.filter (fun f => f.need.all (fun n => mods.contains n))
  let best := ok.foldl (fun b f => max b f.need.length) 0
  ok.filter (fun f => f.need.length == best)

/-- The bits of mod that the written modifiers set; each belongs to one category, and each category is written once. -/
def modBits (f : Form) (mods : List String) : Except Diag Nat :=
  let rest := mods.filter (fun m => !f.need.contains m)
  if f.need.any (fun n => mods.count n != 1) then .error .modifier
  else if rest.any (fun m => !(f.cats.any (fun c => (lookName c m).isSome))) then .error .modifier
  else if f.cats.any (fun c => decide (1 < (rest.filter (fun m => (lookName c m).isSome)).length)) then .error .modifier
  else .ok (rest.foldl (fun n m => n + (f.cats.findSome? (fun c => lookName c m)).getD 0) f.base)

/-! ### Encoding operands (R42 to R47) -/

/-- What has been encoded of a word: its fields, the mod bits, w, the immediate with its relocation, the registers read and
written by the numbers of `regBase`, and the latches read. -/
structure Enc where
  dst : Nat := 0
  a : Nat := 0
  b : Nat := 0
  c : Nat := 0
  m : Nat := 0
  w : Bool := false
  imm : Option Nat := none
  immBits : Nat := 0
  need : Option Need := none
  reads : List Nat := []
  writes : List Nat := []
  latches : List Nat := []
  deriving DecidableEq, Repr

def Enc.put (x : Enc) (f : Fld) (n : Nat) : Enc :=
  match f with
  | .dst => { x with dst := n }
  | .a => { x with a := n }
  | .b => { x with b := n }
  | .c => { x with c := n }

/-- A register's operand code (R58), or its number in a file without codes (R59). -/
def regCode (f : File) (n : Nat) : Nat :=
  match f with
  | .v => n | .s => 0x100 + n | .y => 0x140 + n | .a => 0x144 + n
  | _ => n

/-- An operand's registers noted as read or written. -/
def Enc.note (x : Enc) (o : OpSpec) (f : File) (n m : Nat) : Enc :=
  if f = .y then { x with latches := n :: x.latches }
  else
    let rs := (List.range (if f = .v then o.cnt m else 1)).map (fun i => regBase f + n + i)
    { x with reads := if o.rd then rs ++ x.reads else x.reads, writes := if o.wr then rs ++ x.writes else x.writes }

def Enc.putReg (x : Enc) (o : OpSpec) (f : File) (n m : Nat) : Enc := (x.put o.fld (regCode f n)).note o f n m

/-- The access size of a form's type bits: layouts A and P by itype, layout M by atype. -/
def accessSize (f : Form) (m : Nat) : Nat :=
  if f.cls == 7 && decide (6 ≤ f.op) then (if wAt m then 8 else 4)
  else let t := bits 6 4 m; if t < 2 then 4 else if t < 4 then 2 else if t < 6 then 1 else 8

/-- The immediate of a layout I word: an integer of 32 bits, signed or not; for a float form the FP32 code (R55). -/
def immOf (f : Form) (v : Val) : Except Diag (Nat × Option Need) :=
  match fieldValue v with
  | .error d => .error d
  | .ok (_, some r) => if f.isFloat then .error .kind else if r.kind.width ≤ 32 then .ok (0, some r) else .error .range
  | .ok (x, none) =>
    if f.isFloat then (intCode f32 x).map (fun c => (c, none))
    else if -(2 ^ 31) ≤ x ∧ x < 2 ^ 32 then .ok ((x % 2 ^ 32).toNat, none) else .error .range

/-- May this operand take the word's immediate: the form has an immediate op, it is the last operand, every modifier is at its
default, and no mask but k0 is written (R43, R55)? DEDUCED: log 116. -/
def immAllowed (f : Form) (last : Bool) (m : Nat) (mask : Option Nat) : Bool :=
  f.imm.isSome && last && m == 0 && mask.getD 0 == 0

/-- An operand that may be a constant: an inline constant where its value allows, else the immediate (R43). -/
def encConst (env : Env) (c : Ctx) (f : Form) (o : OpSpec) (lo : Int) (immOk : Bool) (e : Expr) (x : Enc) : Except Diag Enc :=
  match evalIn env c e with
  | .error d => .error d
  | .ok v =>
    match fieldValue v with
    | .error d => .error d
    | .ok (n, r) =>
      if r.isNone && decide (lo ≤ n) && decide (n ≤ 63) then .ok (x.put o.fld (n + 0x1C0).toNat)
      else if immOk then (immOf f v).map (fun p => { x with imm := f.imm, immBits := p.1, need := p.2 })
      else .error .range

/-- The index, the sign and the immediate of a memory operand (R228, R229). -/
def encMem (env : Env) (c : Ctx) (ls index : Bool) (o : OpSpec) (r : MemRef) (x : Enc) : Except Diag Enc :=
  if r.base.isNone != ls || (r.index.isSome && !index) then .error .syntaxError
  else
    let x := match r.base with
      | some n => x.putReg o .a n 0
      | none => x
    let sc (n : Nat) : Nat := n.log2
    let x := match r.index with
      | some i =>
        { x with
          b := i.reg, c := if i.pair then 0x100 else 0, m := x.m + 2 * sc i.scale + (if i.neg then 1 else 0)
          reads := (if i.pair then [i.reg, i.reg + 1] else [i.reg]) ++ x.reads }
      | none => { x with b := 0x1C0 }
    match r.imm with
    | none => .ok x
    | some (neg, e) =>
      match evalIn env c e with
      | .error d => .error d
      | .ok v =>
        match fieldValue v with
        | .error d => .error d
        | .ok (_, some _) => .error .range
        | .ok (n, none) =>
          let n := if neg then -n else n
          if -128 ≤ n ∧ n ≤ 127 then .ok { x with c := x.c + (n % 256).toNat } else .error .range

/-- A memory operand of layouts P and M: no immediate, and a scale equal to the access size. DEDUCED: log 117. -/
def encMemN (f : Form) (o : OpSpec) (r : MemRef) (m : Nat) (x : Enc) : Except Diag Enc :=
  match r.base, r.imm with
  | some n, none =>
    let x := x.putReg o .a n 0
    match r.index with
    | none => .ok { x with b := 0x1C0 }
    | some i =>
      if i.neg || i.pair || i.scale != accessSize f m then .error .syntaxError
      else .ok { x with b := i.reg, reads := i.reg :: x.reads }
  | _, _ => .error .syntaxError

/-- One operand into its field; `m` is the mod of the written modifiers, `last` tells whether it is the last one. -/
def encOpnd (env : Env) (c : Ctx) (f : Form) (m : Nat) (mask : Option Nat) (last : Bool) (o : OpSpec) (w : Opnd) (x : Enc) : Except Diag Enc :=
  let bad : Except Diag Enc := .error .syntaxError
  match w with
  | .none_ =>
    if o.wr && o.fld == .dst then
      match o.k with
      | .sys => bad
      | _ => .ok { x with w := true, dst := 0 }
    else bad
  | .reg fl n =>
    match o.k with
    | .reg g => if fl = g then .ok (x.putReg o fl n m) else bad
    | .vors => if fl = .v ∨ fl = .s then .ok (x.putReg o fl n m) else bad
    | .uni => if fl = .s ∨ fl = .y then .ok (x.putReg o fl n m) else bad
    | .src => if fl = .v ∨ fl = .s ∨ fl = .y then .ok (x.putReg o fl n m) else bad
    | .len => if fl = .s then .ok (x.putReg o fl n m) else bad
    | _ => bad
  | .pair n =>
    match o.k with
    | .reg .v => if o.cnt m == 2 then .ok (x.putReg o .v n m) else bad
    | .vors => if o.cnt m == 2 then .ok (x.putReg o .v n m) else bad
    | .src => if o.cnt m == 2 then .ok (x.putReg o .v n m) else bad
    | _ => bad
  | .sys n =>
    match o.k with
    | .sys =>
      let x := x.put o.fld n
      .ok { x with reads := if o.rd then (0x800 + n) :: x.reads else x.reads, writes := if o.wr then (0x800 + n) :: x.writes else x.writes }
    | _ => bad
  | .mem r =>
    match o.k with
    | .mem ls index => encMem env c ls index o r x
    | .memN => encMemN f o r m x
    | _ => bad
  | .keyExpr k e =>
    match o.k, k with
    | .push, .core => (evalRange env c e 0 255).map (fun v => { x with c := v.toNat })
    | .push, .cluster => (evalRange env c e 0 63).map (fun v => { x with c := v.toNat, m := x.m + 4 })
    | _, _ => bad
  | .keyReg k n =>
    match o.k, k with
    | .push, .cores => .ok { x with c := n, m := x.m + 2, reads := (regBase .s + n) :: x.reads }
    | _, _ => bad
  | .expr e =>
    match o.k with
    | .uni => encConst env c f o (-64) (immAllowed f last m mask) e x
    | .src => encConst env c f o (-64) (immAllowed f last m mask) e x
    | .len => encConst env c f o (-64) false e x
    | .num hi => (evalRange env c e 0 hi).map (fun v => { x with m := x.m + v.toNat })
    | .imm =>
      match evalIn env c e with
      | .error d => .error d
      | .ok v => (immOf f v).map (fun p => { x with imm := some f.op, immBits := p.1, need := p.2 })
    | .target =>
      match evalIn env c e with
      | .error d => .error d
      | .ok (.place .code b off blk) =>
        match prioOf env b blk, fieldValue (.place .code b off blk) with
        | .ok p, .ok (v, r) =>
          if 0 ≤ v ∧ v < 2 ^ 32 then .ok { x with a := x.a + p, imm := some f.op, immBits := v.toNat, need := r } else .error .range
        | .error d, _ => .error d
        | _, .error d => .error d
      | .ok _ => .error .kind
    | _ => bad
  | .flt neg l =>
    match o.k with
    | .uni => if f.isFloat then .error .range else bad
    | .src =>
      if !f.isFloat then bad
      else if immAllowed f last m mask then (floatCode f32 neg l).map (fun v => { x with imm := f.imm, immBits := v })
      else .error .range
    | _ => bad

/-- The operands in turn. -/
def encOpnds (env : Env) (c : Ctx) (f : Form) (m : Nat) (mask : Option Nat) : List OpSpec → List Opnd → Enc → Except Diag Enc
  | o :: os, w :: ws, x =>
    match encOpnd env c f m mask (os.isEmpty) o w x with
    | .ok x => encOpnds env c f m mask os ws x
    | .error d => .error d
  | [], [], x => .ok x
  | _, _, _ => .error .syntaxError

/-- What limgar knows of an encoded instruction: its word, the relocation of its imm32, and what the chain checks ask. -/
structure Coded where
  word : Word
  need : Option Need
  cls : Nat
  op : Nat
  w : Bool
  reads : List Nat
  writes : List Nat
  latches : List Nat
  deriving DecidableEq, Repr

/-- Whether the first written operand is of the file that the form asks for. -/
def Form.firstOk (f : Form) (ops : List Opnd) : Bool :=
  match f.first, ops with
  | none, _ => true
  | some want, .reg have_ _ :: _ => want == have_
  | some _, _ => false

/-- The form and the mod bits of a written instruction. DEDUCED: log 114. -/
def formOf (i : InstrText) : Except Diag (Form × Nat) :=
  match chosen (formsOf i.mn) i.mods with
  | [] => .error .syntaxError
  | f :: fs =>
    match modBits f i.mods with
    | .error d => .error d
    | .ok _ =>
      match (f :: fs).find? (fun g => g.ops.length == i.ops.length && g.firstOk i.ops) with
      | none => .error .syntaxError
      | some g => (modBits g i.mods).map (fun m => (g, m))

/-- The word of an instruction (R42 to R48). DEDUCED: log 115. -/
def encodeText (env : Env) (c : Ctx) (i : InstrText) (amp : Bool) : Except Diag Coded :=
  match formOf i with
  | .error d => .error d
  | .ok (f, m) =>
    if f.layoutI && i.mask.isSome then .error .syntaxError
    else
      let start : Enc := { dst := f.dstBits, a := f.aBits, b := f.bBits, m := m, writes := f.also }
      match encOpnds env c f m i.mask f.ops i.ops start with
      | .error d => .error d
      | .ok x =>
        let k := i.mask.getD 0
        let word := match x.imm with
          | some op => encI f.cls op
              { dst := BitVec.ofNat 9 x.dst, w := x.w, h := amp, a := BitVec.ofNat 9 x.a, imm := BitVec.ofNat 32 x.immBits }
          | none => encR f.cls f.op
              { dst := BitVec.ofNat 9 x.dst, w := x.w, h := amp, a := BitVec.ofNat 9 x.a, b := BitVec.ofNat 9 x.b, c := BitVec.ofNat 9 x.c,
                k := BitVec.ofNat 4 k, m := BitVec.ofNat 10 x.m }
        .ok { word := word, need := x.need, cls := f.cls, op := f.op, w := x.w
              reads := (if i.mask.isSome then [regBase .k + k] else []) ++ x.reads, writes := x.writes, latches := x.latches }

/-! ### Pair slots (R50, R51, R67 to R69) -/

/-- The pair class of a form (R68), and its pair op; none outside the four classes. -/
def pairClass (f : Form) : Option (Nat × Nat) :=
  if f.cls == 0 then (if 0x30 ≤ f.op ∧ f.op ≤ 0x3F then some (3, f.op - 0x30) else some (0, f.op))
  else if f.cls == 1 || f.cls == 2 then some (f.cls, f.op)
  else none

/-- A slot's operand code (R69); a latch reads as `first` allows (R50). -/
def slotOpnd (cls : Nat) (isDst y0 : Bool) (w : Opnd) : Except Diag Nat :=
  match w with
  | .reg .y n => if !isDst && y0 && n == 0 then .ok 0x90 else .error .latchPos
  | .reg .k n => if cls == 3 && decide (n < 8) then .ok n else .error .pairOperand
  | .reg .v n => if (cls == 1 || cls == 2) && decide (n < 128) then .ok n else .error .pairOperand
  | .reg .s n => if (cls == 0 || (!isDst && (cls == 1 || cls == 2))) && decide (n < 16) then .ok (0x80 + n) else .error .pairOperand
  | _ => .error .pairOperand

/-- A slot (R50, R51): its class is eligible, its operands and its mask fit, and its modifiers fit the flags. An operation of the
four classes that no slot takes is PAIR_CLASS. DESIGN CHOICE: log 126. -/
def encodeSlot (i : InstrText) (y0 : Bool) : Except Diag Slot :=
  match chosen (formsOf i.mn) i.mods with
  | [] => .error .syntaxError
  | f :: _ =>
    match pairClass f with
    | none => .error .pairClass
    | some (cls, op) =>
      let s : Slot := { cls := BitVec.ofNat 3 cls, op := BitVec.ofNat 6 op, dst := 0, src := 0, k := 0, flags := 0 }
      if decide (64 ≤ op) || !slotEligible s then .error .pairClass
      else
        match modBits f i.mods with
        | .error d => .error d
        | .ok m =>
          if 8 ≤ m ∨ 8 ≤ i.mask.getD 0 then .error .pairOperand
          else
            match i.ops with
            | [d, a] =>
              match slotOpnd cls true y0 d, slotOpnd cls false y0 a with
              | .ok d, .ok a =>
                .ok { s with dst := BitVec.ofNat 8 d, src := BitVec.ofNat 8 a, k := BitVec.ofNat 3 (i.mask.getD 0), flags := BitVec.ofNat 3 m }
              | .error d, _ => .error d
              | _, .error d => .error d
            | _ => .error .syntaxError

/-- A pair word (R50, R51). -/
def encodePair (a b : InstrText) (serial : Bool) : Except Diag Word :=
  match encodeSlot a false, encodeSlot b serial with
  | .ok x, .ok y =>
    if (slotBanks x).any (fun n => (slotBanks y).contains n) then .error .bankClash else .ok (encP { sa := x, serial := serial, sb := y })
  | .error d, _ => .error d
  | _, .error d => .error d

end Sys2Proof.Limgar
end

