-- ==== Sys2Proof/Machine/Limgar.lean ====
section
/-! DEFINITION. The limgar assembler: included files, sections and location counters, symbols, chains and pair words, launch
descriptors, and the object with its images, relocations, launch table and diagnostics (R19 to R52). -/

namespace Sys2Proof.Limgar

open Sys2Proof.Machine

/-- A source file: its name and its bytes. -/
abbrev Source := List Nat × List Nat

/-- A line of the assembled text: the file and the line's number in it, and its tokens, or why it has none. -/
structure SrcLine where
  file : List Nat
  no : Nat
  toks : Except Diag (List Tok)

/-- A diagnostic and its line. -/
structure Report where
  file : List Nat
  no : Nat
  diag : Diag
  deriving DecidableEq, Repr

/-! ### Included files (R27) -/

/-- The name in an `.include` line, after its label if it has one. -/
def includeName (ts : List Tok) : Option (List Nat) :=
  let rest := match ts with
    | .word _ :: .op o :: r => if o == ":" then r else ts
    | _ => ts
  match rest with
  | [.dir d, .str b] => if lower d == "include" then some b else none
  | _ => none

/-- The lines of a file with those of the files that it includes in place; `depth` more levels may nest. The `.include` line itself
stays before them. -/
def expand (files : List Source) (depth : Nat) (name : List Nat) : Option (List SrcLine) :=
  match depth with
  | 0 => none
  | n + 1 =>
    match files.find? (fun f => f.1 == name) with
    | none => none
    | some f =>
      some ((splitLines f.2).zipIdx.flatMap (fun p =>
        let l : SrcLine := { file := name, no := p.2 + 1, toks := lexLine p.1 }
        match l.toks with
        | .ok ts =>
          match includeName ts with
          | none => [l]
          | some inner =>
            match expand files n inner with
            | some ls => l :: ls
            | none => [{ l with toks := .error .incl }]
        | .error _ => [l]))

/-! ### The first pass: locations and symbols -/

/-- A statement in its place. -/
structure Item where
  file : List Nat
  no : Nat
  sec : Sec
  ctx : Ctx
  stmt : Stmt
  size : Nat
  deriving DecidableEq, Repr

/-- A launch descriptor (R39): its line, its name, its clauses with where each stands. -/
structure LaunchText where
  file : List Nat
  no : Nat
  name : String
  ctx : Ctx
  clauses : List Clause
  deriving DecidableEq, Repr

/-- What the chain checks see of a line (R49): a label, a statement. -/
structure ChainLine where
  file : List Nat
  no : Nat
  label : Bool
  stmt : Option Stmt
  ctx : Ctx
  deriving DecidableEq, Repr

/-- The state of the first pass. -/
structure Pass where
  cur : Option Sec := none
  offs : List (Sec × Nat) := []
  blk : Option Nat := none
  env : Env := {}
  globals : List String := []
  items : List Item := []
  launches : List LaunchText := []
  open_ : Option LaunchText := none
  lines : List ChainLine := []
  reports : List Report := []
  deriving DecidableEq, Repr

def Pass.off (p : Pass) (s : Sec) : Nat := ((p.offs.find? (fun x => x.1 == s)).map Prod.snd).getD 0

def Pass.ctx (p : Pass) : Ctx := { here := p.cur.map (fun s => (s, p.off s)), blk := p.blk }

def Pass.report (p : Pass) (l : SrcLine) (d : Diag) : Pass := { p with reports := { file := l.file, no := l.no, diag := d } :: p.reports }

/-- A symbol defined or declared: once, and under no reserved name (R22, R27); a second `.extern` of a name is one too many.
DESIGN CHOICE: log 126. -/
def Pass.define (p : Pass) (l : SrcLine) (name : String) (d : SymDef) : Pass :=
  if reserved name || (lookName p.env.syms name).isSome then p.report l .redefined
  else { p with env := { p.env with syms := (name, d) :: p.env.syms } }

/-- A statement emitted: `size` units of its section, which has to keep its bound (R25). -/
def Pass.emit (p : Pass) (l : SrcLine) (sec : Sec) (stmt : Stmt) (size : Nat) : Pass :=
  let o := p.off sec
  let p := if sec.bound < o + size then p.report l .range else p
  { p with
    offs := (sec, o + size) :: p.offs.filter (fun x => x.1 != sec)
    items := { file := l.file, no := l.no, sec := sec, ctx := { here := some (sec, o), blk := p.blk }, stmt := stmt, size := size } :: p.items }

/-- Does a section accept a directive that emits (R25)? -/
def sectionTakes (sec : Sec) (d : String) : Bool :=
  match sec with
  | .code => d == "align" || d == "block" || d == "d64"
  | .local_ => d == "space" || d == "align"
  | _ => isData d || d == "space" || d == "align"

/-- The gap of `.align n`: n is a power of two outside `.code` (R26). -/
def alignGap (sec : Sec) (off : Nat) (n : Int) : Except Diag Nat :=
  let k := n.toNat
  if n ≤ 0 ∨ (sec ≠ .code ∧ 2 ^ k.log2 ≠ k) then .error .range else .ok ((k - off % k) % k)

/-- The symbols for operands that fix a location: those that an earlier line defines, and none that is merely declared (R27). -/
def Env.fixed (env : Env) : Env := { env with exts := [] }

/-- The size of a directive that emits, in its section's unit; `before` holds the symbols of the earlier lines (R27). -/
def directiveSize (before : Env) (p : Pass) (sec : Sec) (d : String) (args : List Arg) : Except Diag Nat :=
  if d == "align" then
    match args with
    | [a] =>
      match numArg before.fixed p.ctx (-(2 ^ 127)) (2 ^ 127) a with
      | .ok n => alignGap sec (p.off sec) n
      | .error e => .error e
    | _ => .error .syntaxError
  else if d == "space" then
    match args with
    | [a] => (numArg before.fixed p.ctx 0 (2 ^ 48) a).map Int.toNat
    | _ => .error .syntaxError
  else if d == "fill" then (fillArgs before.fixed p.ctx args).map (fun x => x.1 * x.2.1)
  else if sec = .code then .ok args.length
  else .ok (dataSize d args)

/-- The name that an argument spells. -/
def Arg.name? (a : Arg) : Option String :=
  match a with
  | .word s => some s
  | .flt false .inf => some "inf"
  | .flt false .nan => some "nan"
  | _ => none

/-- A directive (R25 to R28). -/
def Pass.directive (before : Env) (p : Pass) (l : SrcLine) (d : String) (args : List Arg) : Pass :=
  let go (s : Sec) : Pass := { p with cur := some s }
  let sectionName (s : Sec) : Pass := if args == [] then go s else p.report l .syntaxError
  if d == "code" then sectionName .code
  else if d == "data" then sectionName .data
  else if d == "rodata" then sectionName .rodata
  else if d == "local" then sectionName .local_
  else if d == "vault" then
    match args with
    | [a] =>
      match numArg before.fixed p.ctx 0 255 a with
      | .ok n => go (.vault n.toNat)
      | .error e => p.report l e
    | _ => p.report l .syntaxError
  else if d == "equ" then
    match args with
    | [n, v] =>
      match n.name?, v.expr? with
      | some n, some e =>
        match e, p.cur with
        | _, _ => p.define l n (.equ e p.ctx)
      | _, _ => p.report l .syntaxError
    | _ => p.report l .syntaxError
  else if d == "global" then
    match args.map Arg.name? with
    | [some n] => { p with globals := n :: p.globals }
    | _ => p.report l .syntaxError
  else if d == "extern" then
    match args.map Arg.name? with
    | [some n] => p.define l n .ext
    | _ => p.report l .syntaxError
  else if d == "include" then (match args with
    | [.str _] => p
    | _ => p.report l .syntaxError)
  else if !(isData d || ["space", "align", "block"].contains d) then p.report l .syntaxError
  else
    match p.cur with
    | none => p.report l .sectionError
    | some sec =>
      if !sectionTakes sec d then p.report l .sectionError
      else if d == "block" then
        match args with
        | [a] =>
          match a.expr? with
          | some e => { p with blk := some p.env.blks.length, env := { p.env with blks := p.env.blks ++ [(e, p.ctx)] } }
          | none => p.report l .syntaxError
        | _ => p.report l .syntaxError
      else
        match directiveSize before p sec d args with
        | .ok n => p.emit l sec (.dir d args) n
        | .error e => p.report l e

/-- A line outside a launch: its label, then its statement (R24). The label of a section directive's own line belongs to the section
that was open before it. DESIGN CHOICE: log 126. -/
def Pass.line (p : Pass) (l : SrcLine) (t : LineText) : Pass :=
  let before := p.env
  let p := { p with lines := { file := l.file, no := l.no, label := t.label.isSome, stmt := t.stmt, ctx := p.ctx } :: p.lines }
  let p := match t.label with
    | none => p
    | some n =>
      match p.cur with
      | none => p.report l .sectionError
      | some s =>
        let q := p.define l n (.label s (p.off s) (if s = .code then p.blk else none))
        if s.bound ≤ p.off s then q.report l .range else q
  match t.stmt with
  | none => p
  | some (.dir d args) => p.directive before l d args
  | some s =>
    match p.cur with
    | some .code => p.emit l .code s 1
    | _ => p.report l .sectionError

/-- A line of the text: in a launch a clause, a blank line or its end; else a line, or the start of a launch (R23, R39). -/
def Pass.step (p : Pass) (l : SrcLine) : Pass :=
  match l.toks with
  | .error d => p.report l d
  | .ok ts =>
    match p.open_ with
    | some x =>
      if ts == [] then p
      else if ts.length == 1 && (match ts with
          | .dir d :: _ => lower d == "endlaunch"
          | _ => false) then { p with open_ := none, launches := x :: p.launches }
      else
        match parseClause ts with
        | some c => { p with open_ := some { x with clauses := x.clauses ++ [c] } }
        | none => p.report l .syntaxError
    | none =>
      match ts with
      | [.dir d, .word n] =>
        if lower d == "launch" then { p with open_ := some { file := l.file, no := l.no, name := n, ctx := p.ctx, clauses := [] } }
        else match parseLine ts with
          | some t => p.line l t
          | none => p.report l .syntaxError
      | _ =>
        match parseLine ts with
        | some t => p.line l t
        | none => p.report l .syntaxError

/-- The first pass over a text. -/
def firstPass (exts : List (String × ExtSym)) (ls : List SrcLine) : Pass :=
  let p := ls.foldl Pass.step { env := { exts := exts } }
  match p.open_ with
  | some x => { p with open_ := none, reports := { file := x.file, no := x.no, diag := .syntaxError } :: p.reports }
  | none => p

/-! ### Chains (R48, R49) -/

/-- A chain under way: what its members have read, and how many they are. -/
structure ChainState where
  n : Nat := 0
  open_ : Bool := false
  reads : List Nat := []
  last : Option (List Nat × Nat) := none
  deriving DecidableEq, Repr

/-- May an instruction stand before the last position of a chain (R49)? -/
def innerOk (cls op : Nat) : Bool :=
  if cls == 5 then op == 2 || op == 4 else !(cls == 4 || decide (7 ≤ cls ∧ cls ≤ 11))

/-- One line for the chain checks: the state after it, and its diagnostics. DEDUCED: log 121. -/
def chainLine (env : Env) (s : ChainState) (l : ChainLine) : ChainState × List Diag :=
  let broken : List Diag := if s.open_ then [.chainBreak] else []
  match l.stmt with
  | none => if l.label && s.open_ then ({}, broken) else (s, [])
  | some (.dir _ _) => ({}, broken)
  | some (.pair _ _ _ amp) => ({}, if s.open_ || amp then [.chainBreak] else [])
  | some (.instr i amp) =>
    let s0 : ChainState := if s.open_ && !l.label then s else {}
    let d0 : List Diag := if l.label then broken else []
    match encodeText env l.ctx i amp with
    | .error _ => ({ s0 with n := s0.n + 1, open_ := amp, last := some (l.file, l.no) }, d0)
    | .ok x =>
      let reads := x.reads ++ s0.reads
      let d1 := if s0.n == 8 then [Diag.chainLength] else []
      let d2 := if x.w && !amp then [Diag.wUnchained] else []
      let d3 := if amp && !innerOk x.cls x.op then [Diag.chainFinal] else []
      let d4 := if x.latches.any (fun n => decide (s0.n ≤ n)) then [Diag.latchPos] else []
      let d5 := if (decide (0 < s0.n) || amp) && x.writes.any (fun r => reads.contains r) then [Diag.chainWrite] else []
      ({ n := s0.n + 1, open_ := amp, reads := reads, last := some (l.file, l.no) }, d0 ++ d1 ++ d2 ++ d3 ++ d4 ++ d5)

/-- The diagnostics of the chain checks; a chain that the text leaves open is broken. -/
def chainReports (env : Env) (ls : List ChainLine) : List Report :=
  let r := ls.foldl (fun (acc : ChainState × List Report) l =>
    let x := chainLine env acc.1 l
    (x.1, acc.2 ++ x.2.map (fun d => { file := l.file, no := l.no, diag := d }))) (({} : ChainState), [])
  match r.1.open_, r.1.last with
  | true, some (f, n) => r.2 ++ [{ file := f, no := n, diag := .chainBreak }]
  | _, _ => r.2

/-! ### The second pass -/

/-- What an item emits, its relocations, and a warning (R35 to R38, R48, R50). `$` is the statement's start in each of its values.
DESIGN CHOICE: log 126. -/
def emitItem (env : Env) (it : Item) : Except Diag Emit :=
  let word (w : Word) (r : Option Need) : Emit :=
    { pieces := [⟨1, bytesOfWord w⟩], patches := match r with
        | some r => [⟨0, 32, r⟩]
        | none => [] }
  match it.stmt with
  | .instr i amp => (encodeText env it.ctx i amp).map (fun x => word x.word x.need)
  | .pair a b serial _ => (encodePair a b serial).map (fun w => word w none)
  | .dir d args =>
    if d == "align" then
      .ok { pieces := [⟨it.size, if it.sec = .code then bytesOfWord 0x2090000000000000 else [0]⟩] }
    else if d == "space" then .ok { pieces := [⟨it.size, [0]⟩] }
    else if d == "fill" then (fillArgs env it.ctx args).map (fun x => { pieces := [⟨x.1, bytesOfNat x.2.1 x.2.2⟩] })
    else emitData env it.ctx d args

/-- A section's image: its parts in order (R25). -/
structure Image where
  sec : Sec
  pieces : List Piece
  deriving DecidableEq, Repr

/-- A relocation of an object: its section, the byte at which its field begins, the field's bits. -/
structure Reloc where
  sec : Sec
  byte : Nat
  width : Nat
  need : Need
  deriving DecidableEq, Repr

/-- What an object exports under a name (R27): a number, or a place of one of its sections with the priority of its block. -/
inductive Export where
  | num (v : Int)
  | place (s : Sec) (off : Int) (prio : Nat)
  deriving DecidableEq, Repr

/-- An object (R33, R39). -/
structure Object where
  images : List Image
  relocs : List Reloc
  launches : List (String × List Byte)
  exports : List (String × Export)
  deriving DecidableEq, Repr

/-- What assembling gives: the diagnostics, and an object when there are none (R52). -/
structure Result where
  reports : List Report
  /-- the lines of the warnings of R37, which stop no object -/
  warnings : List (List Nat × Nat) := []
  object : Option Object
  deriving DecidableEq, Repr

/-! ### Launch descriptors (R39 to R41) -/

/-- The last clause of a keyword. -/
def clauseArgs (l : LaunchText) (kw : String) : Option (List ClauseArg) := ((l.clauses.filter (fun c => c.kw == kw)).getLast?).map Clause.args

/-- A clause of one number between two bounds. -/
def clauseNum (env : Env) (l : LaunchText) (kw : String) (lo hi dflt : Int) : Except Diag Int :=
  match clauseArgs l kw with
  | none => .ok dflt
  | some [.expr e] => evalRange env l.ctx e lo hi
  | some _ => .error .syntaxError

/-- A clause of several numbers between two bounds. -/
def clauseNums (env : Env) (l : LaunchText) (lo hi : Int) (args : List ClauseArg) : Except Diag (List Int) :=
  collectOk (args.map (fun a => match a with
    | .expr e => evalRange env l.ctx e lo hi
    | _ => .error .syntaxError))

/-- A number that has to be a multiple of another. -/
def multiple (n : Int) (x : Except Diag Int) : Except Diag Int :=
  match x with
  | .ok v => if v % n = 0 then .ok v else .error .range
  | .error d => .error d

/-- The entry: a code label that the file defines (R39, R41), with its priority. DESIGN CHOICE: log 120. -/
def launchEntry (env : Env) (l : LaunchText) : Except Diag (Nat × Nat) :=
  match clauseArgs l "entry" with
  | none => .error .launch
  | some [.expr (.name n)] =>
    match evalIn env l.ctx (.name n) with
    | .error d => .error d
    | .ok (.place .code (.own s) off blk) =>
      match prioOf env (.own s) blk with
      | .ok p => if 0 ≤ off ∧ off < 2 ^ 32 then .ok (off.toNat, p) else .error .range
      | .error d => .error d
    | .ok _ => .error .launch
  | some _ => .error .launch

/-- The launch table entry of a descriptor: a packet whose bytes from 0x48 on are 0 (R39, R349). DEDUCED: log 120. -/
def launchBytes (env : Env) (l : LaunchText) : Except Diag (List Byte) := do
  let entry ← launchEntry env l
  let grid ← match clauseArgs l "grid" with
    | none => .ok [1, 1, 1]
    | some args => if args = [] ∨ 3 < args.length then .error .syntaxError else (clauseNums env l 1 (2 ^ 127) args).map (fun g => (g ++ [1, 1]).take 3)
  let warps ← clauseNum env l "warps" 1 16 1
  let threads ← clauseNum env l "threads" 1 128 128
  let stages ← clauseNum env l "stages" 1 8 1
  let map ← match clauseArgs l "stagemap" with
    | none => .ok [warps]
    | some args => clauseNums env l 1 (2 ^ 127) args
  let regs ← multiple 8 (clauseNum env l "regs" 8 256 64)
  let sregs ← clauseNum env l "sregs" 8 64 64
  let ls ← multiple 128 (clauseNum env l "localsize" 0 (2 ^ 20) 0)
  let grant ← clauseNum env l "grant" 0 256 0
  let agelim ← clauseNum env l "agelim" 1 (2 ^ 16) 4096
  let fair ← match clauseArgs l "progress" with
    | none => .ok true
    | some [.fair] => .ok true
    | some [.lockstep] => .ok false
    | some _ => .error .syntaxError
  let carry := (clauseArgs l "carry").getD []
  let carryV := carry.filterMap (fun a => match a with
    | .reg .v n => some n
    | _ => none)
  let carryS := carry.filterMap (fun a => match a with
    | .reg .s n => some n
    | _ => none)
  let cls ← match clauseArgs l "carryls" with
    | none => .ok [0, 0]
    | some [o, n] => do
      let o ← multiple 128 (clauseNums env l 0 (2 ^ 32 - 1) [o] |>.map (fun x => x.headD 0))
      let n ← multiple 128 (clauseNums env l 0 65536 [n] |>.map (fun x => x.headD 0))
      pure [o, n]
    | some _ => .error .syntaxError
  if carryV.length + carryS.length ≠ carry.length then .error .syntaxError
  else if 16 < carryV.length ∨ 8 < carryS.length then .error .range
  else if map.length ≠ stages.toNat ∨ map.sum ≠ warps ∨ 2 ^ 32 < grid.foldl (· * ·) 1 then .error .launch
  else if 1024 < warps * regs ∨ carryV.any (fun n => decide (regs ≤ n)) ∨ carryS.any (fun n => decide (sregs ≤ n)) then .error .launch
  else if ls < cls.sum then .error .launch
  else
    let b (n : Nat) (v : Int) : List Byte := bytesOfNat n v.toNat
    let mask := carryS.foldl (fun (m : BitVec 64) n => m ||| BitVec.ofNat 64 (2 ^ n)) 0
    let head := b 4 entry.1 ++ b 1 entry.2 ++ b 1 warps ++ b 1 threads ++ b 1 stages ++ ((map.map (b 1)).flatten ++ List.replicate 8 0).take 8
      ++ (grid.map (fun g => b 4 (g - 1))).flatten ++ b 2 regs ++ b 1 sregs ++ b 1 (if fair then 1 else 0) ++ b 4 ls ++ b 2 (agelim - 1) ++ b 2 grant
      ++ (carryV.map (fun n => BitVec.ofNat 8 n) ++ List.replicate 16 0xFF).take 16 ++ b 8 mask.toNat ++ (cls.map (b 4)).flatten
    .ok (head ++ List.replicate (256 - head.length) 0)

/-! ### The whole file -/

/-- The value under which a symbol is exported (R27). -/
def exportOf (env : Env) (name : String) : Except Diag Export :=
  match evalIn env {} (.name name) with
  | .ok (.num v) => .ok (.num v)
  | .ok (.place _ (.own s) off blk) => (prioOf env (.own s) blk).map (fun p => .place s off p)
  | .ok _ => .error .kind
  | .error d => .error d

/-- Assembles a file, with the files that it may include and the symbols that other files export (R19 to R52). DEDUCED: log 111. -/
def assemble (files : List Source) (name : List Nat) (exts : List (String × ExtSym)) : Result :=
  match expand files 17 name with
  | none => { reports := [{ file := name, no := 0, diag := .incl }], object := none }
  | some ls =>
    let p := firstPass exts ls
    let env := p.env
    let items := p.items.reverse
    let out := items.map (fun it => (it, emitItem env it))
    let bad (it : Item) (d : Diag) : Report := { file := it.file, no := it.no, diag := d }
    let r1 := out.filterMap (fun x => match x.2 with
      | .error d => some (bad x.1 d)
      | .ok _ => none)
    let equs := env.syms.reverse.filterMap (fun s => match s.2 with
      | .equ e c => (match evalNum env c e with
        | .error d => some ({ file := name, no := 0, diag := d } : Report)
        | .ok _ => none)
      | _ => none)
    let blks := env.blks.zipIdx.filterMap (fun b => match prioOf env (.own .code) (some b.2) with
      | .error d => some ({ file := name, no := 0, diag := d } : Report)
      | .ok _ => none)
    let r2 := chainReports env p.lines.reverse
    let launches := p.launches.reverse.map (fun l => (l, launchBytes env l))
    let r3 := launches.filterMap (fun x => match x.2 with
      | .error d => some ({ file := x.1.file, no := x.1.no, diag := d } : Report)
      | .ok _ => none)
    let exports := p.globals.reverse.map (fun n => (n, exportOf env n))
    let r4 := exports.filterMap (fun x => match x.2 with
      | .error d => some ({ file := name, no := 0, diag := d } : Report)
      | .ok _ => none)
    let emitted := out.filterMap (fun x => match x.2 with
      | .ok e => some (x.1, e)
      | .error _ => none)
    let warnings := (emitted.filter (fun x => x.2.warn)).map (fun x => (x.1.file, x.1.no))
    let reports := p.reports.reverse ++ r1 ++ r2 ++ r3 ++ equs ++ blks ++ r4
    if reports != [] then { reports := reports, warnings := warnings, object := none }
    else
      let secs := (items.map Item.sec).dedup
      let unit (s : Sec) : Nat := if s = .code then 8 else 1
      let images := (secs.filter (fun s => s != .local_)).map (fun s =>
        { sec := s, pieces := (emitted.filter (fun x => x.1.sec == s)).flatMap (fun x => x.2.pieces) : Image })
      let relocs := emitted.flatMap (fun x => x.2.patches.map (fun q =>
        { sec := x.1.sec, byte := (match x.1.ctx.here with
            | some (_, o) => o * unit x.1.sec
            | none => 0) + q.at_, width := q.width, need := q.need : Reloc }))
      { reports := []
        warnings := warnings
        object := some
          { images := images, relocs := relocs
            launches := launches.filterMap (fun x => match x.2 with
              | .ok b => some (x.1.name, b)
              | .error _ => none)
            exports := exports.filterMap (fun x => match x.2 with
              | .ok v => some (x.1, v)
              | .error _ => none) } }

/-- The bytes of an image. -/
def Image.bytes (i : Image) : List Byte := i.pieces.flatMap (fun p => (List.replicate p.n p.bytes).flatten)

/-- The words of an object's code. -/
def Object.code (o : Object) : List Word :=
  (o.images.filter (fun i => i.sec == .code)).flatMap (fun i => (chunks 8 i.bytes.length i.bytes).map wordOfBytes)

/-! ### Linking (R27) -/

/-- An export as the files that use it see it. -/
def Export.sym (x : Export) : ExtSym :=
  match x with
  | .num v => .num v
  | .place s _ p => .place s.kind p

/-- The symbols that an object exports, for the files that declare them with `.extern`. -/
def Object.symbols (o : Object) : List (String × ExtSym) := o.exports.map (fun x => (x.1, x.2.sym))

/-- Where the loader has put an object's sections, each from the base of its kind. -/
structure Placed where
  code : Nat := 0
  data : Nat := 0
  rodata : Nat := 0
  local_ : Nat := 0
  deriving DecidableEq, Repr

def Placed.at_ (p : Placed) (s : Sec) : Nat :=
  match s with
  | .code => p.code | .data => p.data | .rodata => p.rodata | .local_ => p.local_ | .vault _ => 0

/-- The places of an object's exports, as the loader of another file takes them: the offset from the base of the kind, and a vault
symbol's slot. -/
def Object.places (o : Object) (p : Placed) : List (String × Nat × Nat) :=
  o.exports.filterMap (fun x => match x.2 with
    | .num _ => none
    | .place s off _ => some (x.1, ((p.at_ s : Int) + off).toNat, match s with
      | .vault n => n
      | _ => 0))

/-! ### Loading (R25, R33, R34) -/

/-- A relocation's value written into its field of an image. -/
def patchBytes (l : List Byte) (byte width v : Nat) : List Byte :=
  l.take byte ++ bytesOfNat (width / 8) (v % 2 ^ width) ++ l.drop (byte + width / 8)

/-- The images as the loader places them: every relocation resolved, or none when the load is refused (R33, R34). The slots that
the launch uses are bound by its grant mask. -/
def load (o : Object) (l : LoadEnv) : Option (List (Sec × List Byte)) :=
  let slots := o.images.filterMap (fun i => match i.sec with
    | .vault n => some n
    | _ => none)
  if slots.any (fun n => (slotVault l.grant n).isNone) then none
  else
    (o.images.map (fun i => (i.sec, i.bytes))).foldr (fun x acc =>
      match acc with
      | none => none
      | some acc =>
        let r := (o.relocs.filter (fun r => r.sec == x.1)).foldl (fun (b : Option (List Byte)) r =>
          match b, resolve l r.need with
          | some b, some v => some (patchBytes b r.byte r.width v)
          | _, _ => none) (some x.2)
        r.map (fun b => (x.1, b) :: acc)) (some [])

/-- The vault images of a load, each with the vault address that it is written to: its slot's vault, from its first byte on (R34). -/
def vaultImages (l : LoadEnv) (images : List (Sec × List Byte)) : List (Nat × List Byte) :=
  images.filterMap (fun x => match x.1 with
    | .vault n => (slotVault l.grant n).map (fun v => (v * 2 ^ 25, x.2))
    | _ => none)

/-- The loader's writes of the vault images, before the launch is released; none when the load is refused (R34). -/
def loadVaults (s : State) (o : Object) (l : LoadEnv) : Option State :=
  (load o l).map (fun images => (vaultImages l images).foldl (fun s x =>
    { s with vault := Memory.storeBytes s.vault x.1 x.2, vaultBad := clearWhole s.vaultBad x.1 x.2.length }) s)

/-- The entry of a page that may only be read (R25, R224). -/
def readOnlyPte (frame : Nat) : Word := BitVec.ofNat 64 (frame / 2 ^ 16 * 2 ^ 16 + 7)

/-- An image placed at a VA of an address space, on pages of 64 KiB whose frames are given in turn: its bytes stand in the frames, and
each page's entry is the one that `pte` makes of its frame. -/
def mapImage (s : State) (root asid va : Nat) (pte : Nat → Word) (bytes : List Byte) (frames : List Nat) : State :=
  frames.zipIdx.foldl (fun s f =>
    let page := va / 2 ^ 16 + f.2
    let from_ := page * 2 ^ 16 - va
    let at_ := f.1 + (va + from_) % 2 ^ 16
    let part := (bytes.drop from_).take (2 ^ 16 - (va + from_) % 2 ^ 16)
    writePte (sysPut s at_ part asid 0 none) root (page * 2 ^ 16) asid (pte f.1)) s

/-- The loader's work for `.rodata`: it maps the image read-only (R25). None when the load is refused. -/
def loadRodata (s : State) (root asid : Nat) (o : Object) (l : LoadEnv) (frames : List Nat) : Option State :=
  (load o l).map (fun images => (images.filter (fun x => x.1 == .rodata)).foldl (fun s x =>
    mapImage s root asid (l.dataBase + l.rodataAt) readOnlyPte x.2 frames) s)

/-- The loader's write of the grant mask into a launch packet (R34, R349). -/
def grantPacket (b : List Byte) (grant : BitVec 256) : List Byte := b.take 0x48 ++ bytesOfNat 32 grant.toNat ++ b.drop 0x68

end Sys2Proof.Limgar
end

