-- ==== Sys2Proof/Tests/Slice0.lean ====
section
/-! SUPPORT. Tests: ill-formed words and the check that refuses each; words of the spec's encoding examples; results of its worked
examples; and, for each statement, a state that meets its hypotheses. -/

namespace Sys2Proof.Tests

open Sys2Proof Machine Claims

set_option Elab.async false

/-! ### WellFormed refuses each kind of ill-formed term -/

/-- A word of the register layout with no modifier. -/
def rw4 (dst a b c : BitVec 9) : RWord := ⟨dst, false, false, a, b, c, 0, 0⟩

/-- R57: a field that the form does not use holds a nonzero value. -/
theorem test_wf_unused_field : (Instr.sadd (rw4 0x103 0x103 0x104 1)).wellFormed = false := by decide
/-- R57: a reserved modifier bit is set (R81's example, NOP with bit 0). -/
theorem test_wf_reserved_mod : (Instr.nop ⟨0, false, false, 0, 0, 0, 0, 1⟩).wellFormed = false := by decide
/-- R57: w = 1 with a destination code. -/
theorem test_wf_latch_only_dst : (Instr.vadd ⟨3, true, false, 3, 0x1BF, 0, 0, 0⟩).wellFormed = false := by decide
/-- R58: a reserved operand code. -/
theorem test_wf_reserved_code : (Instr.vadd (rw4 3 3 0x154 0)).wellFormed = false := by decide
/-- R59: a vector register where an s register must stand. -/
theorem test_wf_place : (Instr.sadd (rw4 0x003 0x103 0x104 0)).wellFormed = false := by decide
/-- R60: an odd register for a 64-bit operand. -/
theorem test_wf_pair_alignment : (Instr.ffma ⟨4, false, false, 5, 8, 10, 0, 8⟩).wellFormed = false := by decide
/-- R122: an unordered comparison of addresses (R124). -/
theorem test_wf_modifier : (Instr.acmp ⟨0x103, false, false, 0x144, 0x145, 0, 0, 6 <<< 3⟩).wellFormed = false := by decide
/-- R81: no word is an instruction of class 12. -/
theorem test_wf_illegal : (Instr.illegalWord 0x6000000000000000).wellFormed = false := by decide
/-- R71: a pair whose slots write and read one bank too often. -/
theorem test_wf_pair : (Instr.pairWord (pword 0x900081C010018140)).wellFormed = false
    ∧ (Instr.pairWord (pword 0x900081C010014140)).wellFormed = true := by decide
/-- R190: SYSW of FPMODE is no SYSW of another register. -/
theorem test_wf_variant : (Instr.sysw (rw4 0x017 0x104 0 0)).wellFormed = false
    ∧ (Instr.syswFpmode (rw4 0x009 0x104 0 0)).wellFormed = false := by decide
/-- An event names a warp that the module has. -/
theorem test_wf_range : (Instr.trapDelivery 8191).wellFormed = true ∧ (Instr.trapDelivery 8192).wellFormed = false := by decide

/-! ### Words of the spec's encoding examples -/

/-- R67, R71. -/
theorem test_decode_pair : decodeWord 0x900081C010010240 = .pairWord ⟨⟨1, 0, 2, 7, 0, 0⟩, false, ⟨1, 0, 4, 9, 0, 0⟩⟩ := by decide
/-- Class 0 (R127's table). -/
theorem test_decode_class0 : decodeWord 0x0008190382000006 = .sadd ⟨0x103, false, false, 0x103, 0x104, 0, 0, 6⟩
    ∧ decodeWord 0x0508280000001234 = .sli ⟨0x105, false, false, 0, 0x1234⟩
    ∧ decodeWord 0x0368100900000000 = .kpopc (rw4 0x102 9 0 0) := by decide
/-- Class 1 (R54, R55, R138). -/
theorem test_decode_class1 : decodeWord 0x0C00180300000064 = .vaddImm ⟨3, false, false, 3, 0x64⟩
    ∧ decodeWord 0x09001805E0000010 = .vcmp ⟨3, false, false, 5, 0x1C0, 0, 0, 0x10⟩
    ∧ decodeWord 0x097009C000000000 = .vlane (rw4 1 0x1C0 0 0) := by decide
/-- Class 2 (R145's example). -/
theorem test_decode_class2 : decodeWord 0x1030200604028008 = .ffma ⟨4, false, false, 6, 8, 10, 0, 8⟩ := by decide
/-- Class 3, written out from R54, R76 and R146: `cvtp.pack.e4m3f.rn v20, v8, s3`: op 2, sc in bit 6. -/
theorem test_decode_class3 : decodeWord (0#1 ++ 0b0011#4 ++ 0b0000010#7 ++ 0b000010100#9 ++ 0#1 ++ 0#1 ++ 0b000001000#9
      ++ 0b100000011#9 ++ 0#9 ++ 0#4 ++ 0b0001000000#10)
    = .cvtp ⟨20, false, false, 8, 0x103, 0, 0, 0x40⟩ := by decide
/-- Class 4 (R185's table and NOP). -/
theorem test_decode_class4 : decodeWord 0x2010080200000006 = .brk ⟨1, false, false, 2, 6⟩
    ∧ decodeWord 0x200E080100000007 = .br ⟨0x1C1, false, false, 1, 7⟩
    ∧ decodeWord 0x2080000000000001 = .exit ⟨0, false, false, 0, 0, 0, 0, 1⟩
    ∧ decodeWord 0x2090000000000000 = .nop (rw4 0 0 0 0) := by decide
/-- Class 5 (R200's table). -/
theorem test_decode_class5 : decodeWord 0x280001C500000000 = .trap (rw4 0 0x1C5 0 0)
    ∧ decodeWord 0x2810000000000000 = .tret (rw4 0 0 0 0)
    ∧ decodeWord 0x2828101100000000 = .sysr (rw4 0x102 0x011 0 0)
    ∧ decodeWord 0x2830490400000000 = .sysw (rw4 0x009 0x104 0 0)
    ∧ decodeWord 0x28A0014783800004 = .tlbiVa ⟨0, false, false, 0x147, 0x107, 0, 0, 4⟩ := by decide
/-- Class 6 (R229's table, and the pushed readers' L17). -/
theorem test_decode_class6 : decodeWord 0x3000214603840004 = .ld ⟨4, false, false, 0x146, 7, 0x10, 0, 4⟩
    ∧ decodeWord 0x30481944E0000210 = .lda ⟨0x103, false, false, 0x144, 0x1C0, 0, 0, 0x210⟩
    ∧ decodeWord 0x3050200000810014 = .ldl ⟨4, false, false, 0, 1, 4, 0, 0x14⟩ := by decide
/-- Class 7 (R229's table). -/
theorem test_decode_class7 : decodeWord 0x38502945030A0208 = .pour ⟨5, false, false, 0x145, 6, 0x28, 0, 0x208⟩
    ∧ decodeWord 0x3860514801830243 = .atom ⟨10, false, false, 0x148, 3, 0xC, 0, 0x243⟩
    ∧ decodeWord 0x3890000000000200 = .fence ⟨0, false, false, 0, 0, 0, 0, 0x200⟩
    ∧ decodeWord 0x38700146E0704A22 = .atomn ⟨0, false, false, 0x146, 0x1C0, 0x1C1, 2, 0x222⟩ := by decide
/-- Class 8 (R317's table, and the pipeline's L99). -/
theorem test_decode_class8 : decodeWord 0x40084904A34140A0 = .cpy ⟨0x109, false, false, 0x104, 0x146, 0x105, 0, 0xA0⟩
    ∧ decodeWord 0x40A00107E0000000 = .slwait (rw4 0 0x107 0x1C0 0)
    ∧ decodeWord 0x4108510482C18080 = .skim ⟨0x10A, false, false, 0x104, 0x105, 0x106, 0, 0x80⟩
    ∧ decodeWord 0x4118A9C087000080 = .drossRd ⟨0x115, false, false, 0x1C0, 0x10E, 0, 0, 0x80⟩ := by decide
/-- Class 9 (R362's table). -/
theorem test_decode_class9 : decodeWord 0x480001C0E0000000 = .bar (rw4 0 0x1C0 0x1C0 0)
    ∧ decodeWord 0x4810000000000000 = .phase (rw4 0 0 0 0)
    ∧ decodeWord 0x4840010400000000 = .vclaim (rw4 0 0x104 0 0)
    ∧ decodeWord 0x48984903A4800084 = .launch ⟨0x109, false, false, 0x103, 0x149, 0, 0, 0x84⟩
    ∧ decodeWord 0x48B0014A84000200 = .cwait ⟨0, false, false, 0x14A, 0x108, 0, 0, 0x200⟩ := by decide
/-- Class 10 (R391's table). -/
theorem test_decode_class10 : decodeWord 0x5000090281800000 = .mdesc (rw4 1 0x102 0x103 0)
    ∧ decodeWord 0x5020180402800001 = .mma ⟨3, false, false, 4, 5, 0, 0, 1⟩
    ∧ decodeWord 0x5040080083800003 = .mpoly ⟨1, false, false, 0, 0x107, 0, 0, 3⟩
    ∧ decodeWord 0x5050010600800014 = .miter ⟨0, false, false, 0x106, 1, 0, 0, 0x14⟩
    ∧ decodeWord 0x50B8200000000001 = .mstat ⟨0x104, false, false, 0, 0, 0, 0, 1⟩ := by decide
/-- Class 11 (R437's table). -/
theorem test_decode_class11 : decodeWord 0x580849C3A4000200 = .creg ⟨0x109, false, false, 0x1C3, 0x148, 0, 0, 0x200⟩
    ∧ decodeWord 0x582849C300000201 = .recastFit ⟨0x109, false, false, 0x1C3, 0, 0, 0, 0x201⟩
    ∧ decodeWord 0x583829C300000201 = .cgen ⟨0x105, false, false, 0x1C3, 0, 0, 0, 0x201⟩
    ∧ decodeWord 0x584021C303000000 = .ceval (rw4 4 0x1C3 6 0)
    ∧ decodeWord 0x585831C300000000 = .cflash (rw4 0x106 0x1C3 0 0) := by decide
/-- Each example's word is the one that the encoder writes. -/
theorem test_encode : encode (.mdesc (rw4 1 0x102 0x103 0)) = some 0x5000090281800000
    ∧ encode (.br ⟨0x1C1, false, false, 1, 7⟩) = some 0x200E080100000007
    ∧ encode (.pairWord ⟨⟨1, 0, 3, 7, 0, 0⟩, true, ⟨1, 2, 9, 0x90, 0, 0⟩⟩) = some 0x9000C1C090826400 := by decide
/-- The bytes of a word stand in memory with the lowest first (R54's example). -/
theorem test_decode_bytes : decode [0x00, 0x00, 0x80, 0xDF, 0x03, 0x18, 0x00, 0x08, 0x55]
    = some (.vadd (rw4 3 3 0x1BF 0), [0x55]) := by decide

/-! ### Results of the spec's worked examples, one word each -/

/-- A warp of one split with all its lanes, every register allocated, traps handled at word 0x40 with priority 5. -/
def w0 : Warp :=
  { frontier := [{ pc := 0x10, prio := 2, depth := 0, mask := BitVec.allOnes 128 }], live := BitVec.allOnes 128
    alloc := BitVec.allOnes 32, trapvec := 0x8000000500000040 }

/-- The warp's state: the only warp of its group. -/
def st (w : Warp) : State := ((State.reset.setLaunch 1 {}).setGroup 0 { launch := 1, warps := [0], sregs := 64 }).setWarp 0 w

/-- The warp after one word. -/
def after (i : Instr) (w : Warp) : Warp :=
  match exec i (st w) with
  | .next t => t.warp 0
  | _ => {}

/-- A v register whose first lanes hold the values of a list. -/
def lanesV (w : Warp) (n : Nat) (l : List Lane) : Warp := w.setV n (BitVec.allOnes 128) (fun t => l.getD t 0)

/-- R117's table. -/
theorem test_sdiv : (after (.sdiv (rw4 0x104 0x102 0x103 0)) ((w0.setS 2 7).setS 3 0xFFFFFFFE)).s 4 = 0xFFFFFFFFFFFFFFFD
    ∧ (after (.sdiv (rw4 0x104 0x102 0x1BF 0)) (w0.setS 2 0x80000000)).s 4 = 0xFFFFFFFF80000000 := by decide +kernel
theorem test_srem : (after (.srem (rw4 0x104 0x102 0x1C2 0)) (w0.setS 2 0xFFFFFFF9)).s 4 = 0xFFFFFFFFFFFFFFFF
    ∧ (after (.srem ⟨0x104, false, false, 0x102, 0x1C0, 0, 0, 1⟩) (w0.setS 2 5)).s 4 = 5 := by decide +kernel
/-- R118: a count of the width or more. -/
theorem test_ssar : (after (.ssar (rw4 0x104 0x102 0x1E0 0)) (w0.setS 2 0x80000000)).s 4 = 0xFFFFFFFFFFFFFFFF
    ∧ (after (.sshl (rw4 0x104 0x102 0x1E0 0)) (w0.setS 2 1)).s 4 = 0 := by decide +kernel
/-- R119: a field cut off at bit 31, sign-extended from its own width. -/
theorem test_sbfe : (after (.sbfe (rw4 0x104 0x102 0x1DC 0x1C8)) (w0.setS 2 0x90000000)).s 4 = 0xFFFFFFFFFFFFFFF9 := by decide +kernel
/-- R116: the destination is a source too, and the sum wraps at 64 bits. -/
theorem test_sadd : (after (.sadd ⟨0x103, false, false, 0x103, 0x104, 0, 0, 6⟩) ((w0.setS 3 0xFFFFFFFFFFFFFFFF).setS 4 2)).s 3 = 1 := by
  decide +kernel
/-- R124's table. -/
theorem test_ajoin : (after (.ajoin (rw4 0x147 0x104 0x105 0)) ((w0.setS 4 0xFFFFFFFFFFFFFFF0).setS 5 0x12)).a 3 = 0x12FFFFFFFFFFFFFFF0
    ∧ (after (.aaddi ⟨0x147, false, false, 0x147, 0x20⟩) (w0.setA 3 0x12FFFFFFFFFFFFFFF0)).a 3 = 0x130000000000000010 := by decide +kernel
theorem test_asplit : (after (.asplit ⟨0x106, false, false, 0x147, 0, 0, 0, 1⟩) (w0.setA 3 0x130000000000000010)).s 6 = 0x13
    ∧ (after (.asplit (rw4 0x107 0x147 0 0)) (w0.setA 3 0x130000000000000010)).s 7 = 0x10 := by decide +kernel
/-- R125's example: the index is negative and the sum wraps at 80 bits. -/
theorem test_effective_address : (0x130000000000000010 + 8 * (-1) - 16 : Int) % 2 ^ 80 = 0x12FFFFFFFFFFFFFFF8 := by decide
/-- R127: the highest lane that a mask holds. -/
theorem test_kfirst : (after (.kfirst (rw4 0x102 9 0 0)) w0).s 2 = 128
    ∧ (after (.kfirst (rw4 0x102 1 0 0)) (w0.setK 1 (1#128 <<< 127))).s 2 = 127 := by decide +kernel
/-- R89's example: the generators that seed 0 sets. -/
theorem test_seed : SMap.look 0 (seedGens 0) 0 = 0x9E3779B9#32 ∧ SMap.look 0 (seedGens 0) 1 = 0x3C6EF372#32 := by decide +kernel
/-- R102: 1.0 and the default NaN of A96. -/
theorem test_a96 : a96.read 0x3FFF00000000000000000000 = .fin false (2 ^ 80) (-80) ∧ a96.defaultNan = 0x7FFF80000000000000000000 := by
  decide +kernel
/-- R104's example: the dropped bits of the third product break the tie. -/
theorem test_accumulate : accGroup 0 [.fin false 1 0, .fin false 1 (-81), .fin false 3 (-121)] = 0x3FFF00000000000000000001
    ∧ accGroup 0 [.fin false 1 0, .fin false 1 (-81)] = 0x3FFF00000000000000000000 := by decide +kernel
/-- R106's example: the tree of four lanes. -/
theorem test_vred : (after (.vred ⟨0x102, false, false, 5, 0, 0, 1, 4 <<< 3⟩)
    ((lanesV w0 5 [0x4B800000, 0x3F800000, 0x3F800000, 0xCB800000]).setK 1 0xF)).s 2 = 0x3F800000 := by decide +kernel
/-- R137: VABS of the least number, with and without saturation. -/
theorem test_vabs : (after (.vabs (rw4 6 5 0 0)) (lanesV w0 5 [0x80000000])).vlane 6 0 = 0x80000000
    ∧ (after (.vabs ⟨6, false, false, 5, 0, 0, 0, 0x80⟩) (lanesV w0 5 [0x80000000])).vlane 6 0 = 0x7FFFFFFF := by decide +kernel
/-- R138's example. -/
theorem test_vcmp : (after (.vcmp ⟨3, false, false, 5, 0x1C0, 0, 0, 0x10⟩) (lanesV w0 5 [1, 0xFFFFFFFF, 0])).k 0 3 = 2 := by decide +kernel
/-- R149's example. -/
theorem test_cvtp_pack :
    let w := after (.cvtp ⟨20, false, false, 8, 0x103, 0, 1, 0x40⟩)
      ((((((lanesV w0 8 [0x3F800000]).setV 9 1 (fun _ => 0xC3960000)).setV 10 1 (fun _ => 0x447A0000)).setV 11 1 (fun _ => 0x7FC00000)).setS 3 128).setK 1 1)
    w.vlane 20 0 = 0x007FF130 ∧ w.fpmode = 0xC2 := by decide +kernel
theorem test_cvtp_unpack :
    let w := after (.cvtp ⟨24, false, false, 20, 0, 0, 1, 0x80⟩) ((lanesV w0 20 [0x007FF130]).setK 1 1)
    w.vlane 24 0 = 0x3F000000 ∧ w.vlane 25 0 = 0xC3100000 ∧ w.vlane 26 0 = 0x43F00000 ∧ w.vlane 27 0 = 0 := by decide +kernel
/-- The example of R165: P sends lanes 2 to 5 to Q's entry; lanes 6 and 7 leave every split. -/
theorem test_kmov_split :
    let w := after (.kmov (rw4 9 1 0 0))
      ({ w0 with
        frontier := [{ pc := 0x10, prio := 2, depth := 0, mask := 0x0F }, { pc := 0x20, prio := 2, depth := 0, mask := 0xF0 }]
        live := 0xFF } |>.setK 1 0x3C)
    w.frontier.map Split.mask = [0x03, 0x3C] ∧ w.live = 0xFF := by decide +kernel
/-- R173's example `brk even, k1` with even = word 6, priority 2: the lanes of k1 go to word 6, the others on. -/
theorem test_brk :
    let w := after (.brk ⟨1, false, false, 2, 6⟩) (w0.setK 1 0x55)
    w.frontier.map (fun x => (x.pc, x.mask)) = [(6, 0x55), (0x11, ~~~ 0x55#128)] := by decide +kernel
/-- R201: TRAP returns to the pc after it; R198: the handler starts at TRAPVEC's pc in supervisor state. -/
theorem test_trap :
    let w := after (.trap (rw4 0 0x1C5 0 0)) w0
    w.pend.map (fun p => (p.cause, p.pc, p.info)) = [(.software, 0x11, 5)] ∧ (deliver w).frontier.map Split.pc = [0x40]
      ∧ (deliver w).sup = true ∧ (deliver w).trappc = 0x0000000200000011 := by decide +kernel
/-- R199: TRET goes back to TRAPPC, with its priority. -/
theorem test_tret :
    let w := after (.tret (rw4 0 0 0 0)) { w0 with sup := true, inh := true, trappc := 0x0000000200000011 }
    w.frontier.map (fun x => (x.pc, x.prio)) = [(0x11, 2)] ∧ w.sup = false ∧ w.inh = false := by decide +kernel
/-- R207's example: 1000 after 200, 15000 after 5000. -/
theorem test_tarm : (after (.tarm (rw4 0 0x103 0 0)) ({ w0 with vtime := 200 }.setS 3 1000)).vtcmp = 0x80000000000004B0
    ∧ armedAt 5000 15000 = 0x8000000000004E20 := by decide +kernel
/-- R172: a field above 65,536 stores 65,536; a written 0x2_0000 has the field 0 and stores 1. -/
theorem test_agelim : (after (.syswAgelim (rw4 0x015 0x103 0 0)) ({ w0 with sup := true }.setS 3 0x1FFFF)).agelim = 65536
    ∧ (after (.syswAgelim (rw4 0x015 0x103 0 0)) ({ w0 with sup := true }.setS 3 0x20000)).agelim = 1 := by decide +kernel
/-- R189: MODE is privileged; R82: the trap returns to the word. -/
theorem test_privilege : (after (.mode (rw4 0x104 0x103 0 0)) w0).pend.map (fun p => (p.cause, p.pc)) = [(.privilege, 0x10)] := by decide +kernel
/-- R184: the last warp's EXIT ends its group. -/
theorem test_exit : (match exec (.exit ⟨0, false, false, 0, 0, 0, 0, 1⟩) (st w0) with
    | .next t => t.groups.length
    | _ => 9) = 0 := by decide +kernel
/-- R335's example: 32 units of 128 bytes after an arrival open the gate; a unit that lands too early lowers the next balance. -/
theorem test_gate : (List.range 32).foldl (fun x _ => gateStep x false 128) (gateStep (gateWord false 0 1 4096 4096) true 0) = gateWord true 0 1 4096 4096
    ∧ gateStep ((List.range 33).foldl (fun x _ => gateStep x false 128) (gateWord false 0 1 4096 4096)) true 0 = gateWord true 0 1 3968 4096 := by
  decide +kernel
/-- R424's example. -/
theorem test_mould :
    let b : List Byte := [1, 0, 0, 0, 0, 0, 0x80, 0x3F, 0, 0, 0, 0, 0, 0, 0, 0, 0x00, 0x40, 0x80, 0x3F]
    mouldValue b 0 [8] [1] = 0xBE800000 ∧ mouldValue b 0 [8] [3] = 0x3FA00000 ∧ mouldValue b 0 [8] [6] = 0x3FC00000 := by decide +kernel

/-! ### States that meet the statements' hypotheses -/

/-- The split of the words below, as it issues. -/
def sp0 : Split := { pc := 0x10, prio := 2, depth := 0, mask := BitVec.allOnes 128 }
/-- The state of a chain's second word, with a uniform result in y0. -/
def stY : State := st { w0 with pos := 1, y0 := some (.uniform 5), headPc := 0xF }
/-- A state in supervisor mode. -/
def stS : State := st { w0 with sup := true }

/-- Class 0: an s destination, the last s register, a latch source in a chain, and each other form. -/
theorem test_meets_class0 :
    Issues shS3 (rw4 0x104 0x102 0x103 0) false [] (st w0) sp0 ∧ Issues shS3 ⟨0x13F, false, true, 0x140, 0x1FF, 0, 0, 7⟩ false [] stY sp0
    ∧ Issues shS3 ⟨0, true, true, 0x102, 0x180, 0, 0, 1⟩ false [] (st w0) sp0
    ∧ Issues shSimm (immR ⟨0x104, false, false, 0x102, 0xFFFFFFFF⟩) false [] (st w0) sp0 ∧ Issues shS2 (rw4 0x104 0x102 0 0) false [] (st w0) sp0
    ∧ Issues shSbf (rw4 0x104 0x102 0x1C0 0x1FF) false [] (st w0) sp0 ∧ Issues shSbfi (rw4 0x104 0x102 0x1C0 0x1FF) true [] (st w0) sp0
    ∧ Issues (shScmp ⟨0x104, false, false, 0x102, 0x103, 0, 0, 40⟩) ⟨0x104, false, false, 0x102, 0x103, 0, 0, 40⟩ false [] (st w0) sp0
    ∧ Issues shSsel (rw4 0x104 0x102 0x103 0x1C0) false [] (st w0) sp0 ∧ Issues shSli (immR ⟨0x104, false, false, 0, 1⟩) false [] (st w0) sp0
    ∧ Issues shSlih (immR ⟨0x104, false, false, 0, 1⟩) true [] (st w0) sp0 := by
  refine ⟨?_, ?_, ?_, ?_, ?_, ?_, ?_, ?_, ?_, ?_, ?_⟩ <;> exact issues_of (by decide +kernel)
/-- R120 to R127. -/
theorem test_meets_class0_others :
    (let f : RWord := ⟨0x104, false, false, 0x102, 0x103, 0, 0, 0xC⟩; Issues (shSf2 f) f false [] (st w0) sp0)
    ∧ (let f : RWord := ⟨0x104, false, false, 0x102, 0x103, 0x105, 0, 1⟩; Issues (shSf3 f) f false [] (st w0) sp0)
    ∧ (let f : RWord := ⟨0x104, false, false, 0x102, 0x103, 0, 0, 7 <<< 5⟩; Issues (shSfcmp f) f false [] (st w0) sp0)
    ∧ (∀ m ∈ [0x160#10, 0x020#10, 0x140#10, 0x0C0#10], let f : RWord := ⟨0x104, false, false, 0x102, 0, 0, 0, m⟩; Issues (shScvt f) f false [] (st w0) sp0)
    ∧ Issues shAadd (rw4 0x153 0x144 0x102 0) false [] (st w0) sp0 ∧ Issues shAaddi (immR ⟨0x153, false, false, 0x144, 1⟩) false [] (st w0) sp0
    ∧ Issues shAmov (rw4 0x153 0x144 0 0) false [] (st w0) sp0 ∧ Issues shAjoin (rw4 0x153 0x102 0x103 0) false [] (st w0) sp0
    ∧ Issues shAsplit ⟨0x104, false, false, 0x144, 0, 0, 0, 1⟩ false [] (st w0) sp0
    ∧ (let f : RWord := ⟨0x104, false, false, 0x144, 0x145, 0, 0, 40⟩; Issues (shAcmp f) f false [] (st w0) sp0)
    ∧ Issues shK3 (rw4 15 8 0 0) false [] (st w0) sp0 ∧ Issues shK2 (rw4 15 7 0 0) false [] (st w0) sp0
    ∧ Issues shKset (rw4 1 0x102 0x103 0) false [] (st w0) sp0 ∧ Issues shKget ⟨0x104, false, false, 15, 0, 0, 0, 1⟩ false [] (st w0) sp0
    ∧ Issues shKcount (rw4 0x104 15 0 0) false [] (st w0) sp0 := by
  refine ⟨?_, ?_, ?_, ?_, ?_, ?_, ?_, ?_, ?_, ?_, ?_, ?_, ?_, ?_, ?_⟩
  case _ => exact issues_of (by decide +kernel)
  case _ => exact issues_of (by decide +kernel)
  case _ => exact issues_of (by decide +kernel)
  case _ =>
    intro m hm
    simp only [List.mem_cons, List.not_mem_nil, or_false] at hm
    rcases hm with rfl | rfl | rfl | rfl <;> exact issues_of (by decide +kernel)
  all_goals exact issues_of (by decide +kernel)

/-- A word of the register layout with modifiers. -/
def rwm (dst a b c : BitVec 9) (m : BitVec 10) : RWord := ⟨dst, false, false, a, b, c, 0, m⟩
/-- Words whose shape depends on the word: each issues in the state of `st w0`. -/
def meets (l : List ((RWord → Shape) × RWord)) : Prop := ∀ p ∈ l, Issues (p.1 p.2) p.2 false [] (st w0) sp0
theorem meets_of {l : List ((RWord → Shape) × RWord)} (h : l.all (fun p => issuesB (p.1 p.2) p.2 false [] (st w0) sp0) = true) : meets l :=
  fun p hp => issues_of (List.all_eq_true.mp h p hp)

/-- Class 1: 32-bit, 64-bit in even pairs up to v254, saturation, and a code in a k register. -/
theorem test_meets_class1 : meets [(shV3, rwm 5 6 7 0 0), (shV3, rwm 254 252 0x102 0 6), (shV3sat, rwm 5 6 7 0 0x80), (shV4, rwm 5 6 7 8 2),
    (shV2sat, rwm 5 6 0 0 0x80), (shV2, rwm 5 6 0 0 7 |> fun f => { f with dst := 4 }), (fun _ => shVlane, rwm 5 0x1C0 0 0 0),
    (fun _ => shVsel, rwm 5 6 7 15 0), (shVcmp, rwm 15 5 0x1C0 0 0x28), (shFcmp, rwm 3 5 6 0 (7 <<< 5))] := meets_of (by decide +kernel)
theorem test_meets_class1_others :
    (let f := rwm 5 6 7 8 0; Issues (shVbfi f) f true [] (st w0) sp0) ∧ Issues shVimm (immR ⟨5, false, false, 6, 7⟩) false [] (st w0) sp0
    ∧ Issues shVmovImm (immR ⟨5, false, false, 0, 7⟩) false [] (st w0) sp0 ∧ Issues shVcmpImm (immR ⟨5, false, false, 6, 7⟩) false [] (st w0) sp0 := by
  refine ⟨?_, ?_, ?_, ?_⟩ <;> exact issues_of (by decide +kernel)
/-- Class 2: FP32, FP64 pairs, BF16, stochastic rounding. -/
theorem test_meets_class2 : meets [(shF3, rwm 5 6 7 0 4), (shF3, rwm 4 6 8 0 8), (shF2, rwm 5 6 0 0 0x14), (shF4, rwm 4 6 8 10 8),
    (shFmin, rwm 5 6 7 0 0x10), (shFabs, rwm 5 6 0 0 0x18), (shH3, rwm 5 6 7 0 0), (shH4, rwm 5 6 7 8 8),
    (shVdot4, rwm 5 6 7 8 0), (shVdot4, rwm 5 6 7 8 0x28), (shVdot8, rwm 5 6 7 8 4)] := meets_of (by decide +kernel)
/-- Class 3. -/
theorem test_meets_class3 : meets [(shCvt, rwm 4 6 0 0 0x160), (shCvt, rwm 4 6 0 0 0x020), (shCvt, rwm 4 6 0 0 0x150), (shCvt, rwm 5 6 0 0 0x040),
    (shCvts, rwm 5 6 0x102 0 0x28), (shCvts, rwm 4 6 0x102 0 0xC0), (shVshfl, rwm 5 6 7 0 0x1B), (fun _ => shVbcast, rwm 5 6 0x102 0 0),
    (shVvote, rwm 0x104 6 0 0 0), (shVvote, rwm 0x104 6 0 0 1), (shVvote, rwm 0x104 6 0 0 2), (shVvote, rwm 3 6 0 0 3),
    (shVred, rwm 0x104 6 0 0 0x20), (shVred, rwm 4 6 0 0 0xA8), (shVscan, rwm 5 6 0 0 0x80)] := meets_of (by decide +kernel)
/-- CVTP in both directions, with a scale, of a bit-plane block. -/
theorem test_meets_cvtp : ∀ f ∈ [rwm 20 8 0x103 0 0x40, rwm 24 20 0 0 0x80, rwm 248 20 0 0 0xA0, rwm 20 8 0 0 0x30, rwm 20 8 0 0 0xB2],
    Issues (shCvtp f) f false (cvtpRegs f) (st w0) sp0 := by
  have h : [rwm 20 8 0x103 0 0x40, rwm 24 20 0 0 0x80, rwm 248 20 0 0 0xA0, rwm 20 8 0 0 0x30, rwm 20 8 0 0 0xB2].all
      (fun f => issuesB (shCvtp f) f false (cvtpRegs f) (st w0) sp0) = true := by decide +kernel
  exact fun f hf => issues_of (List.all_eq_true.mp h f hf)
/-- R67's two examples issue; L14 is serial and reads y0. -/
theorem test_meets_pair : PairIssues (pword 0x900081C010010240) (st w0) sp0 ∧ PairIssues (pword 0x9000C1C090826400) (st w0) sp0
    ∧ (pairForm 1 0).isSome = true ∧ (pairForm 1 2).isSome = true :=
  ⟨⟨by decide +kernel, by decide +kernel, by decide +kernel, by decide +kernel⟩, ⟨by decide +kernel, by decide +kernel, by decide +kernel, by decide +kernel⟩,
    by decide, by decide⟩

/-- R68, R73, R75: float, packed and mask slots, and a serial pair of float slots, whose slot B reads y0. -/
theorem test_meets_pair_slots :
    let list : List PWord := [⟨⟨0, 0x18, 0x82, 0x83, 0, 4⟩, false, ⟨2, 0x00, 4, 9, 1, 0⟩⟩, ⟨⟨3, 3, 1, 2, 0, 0⟩, false, ⟨2, 0x18, 4, 9, 1, 4⟩⟩,
      ⟨⟨2, 0x02, 3, 7, 1, 0⟩, true, ⟨2, 0x00, 9, 0x90, 0, 0⟩⟩]
    (∀ p ∈ list, PairIssues p (st w0) sp0)
    ∧ (pairScalarF ⟨0, 0x18, 0x82, 0x83, 0, 4⟩).isSome = true ∧ (pairFloat ⟨2, 0x18, 4, 9, 1, 4⟩).isSome = true ∧ (pairFloat ⟨2, 0x02, 3, 7, 1, 0⟩).isSome = true := by
  refine ⟨?_, by decide, by decide, by decide⟩
  intro p hp
  simp only [List.mem_cons, List.not_mem_nil, or_false] at hp
  rcases hp with rfl | rfl | rfl <;> exact ⟨by decide +kernel, by decide +kernel, by decide +kernel, by decide +kernel⟩

/-- A warp whose split stands at another depth. -/
def wDepth (d : Byte) : Warp := { w0 with frontier := [{ sp0 with depth := d }] }
/-- A warp with a second split, which holds the upper 64 lanes. -/
def w2 : Warp := { w0 with frontier := [{ sp0 with mask := 0xFFFFFFFFFFFFFFFF }, { sp0 with pc := 0x20, mask := 0xFFFFFFFFFFFFFFFF <<< 64 }] }
def spLow : Split := { sp0 with mask := 0xFFFFFFFFFFFFFFFF }

/-- R175 to R179: each branch in both of its forms, and CALL and RET at both ends of the depth. -/
theorem test_meets_branches :
    Issues shBr (immR ⟨0x1C1, false, false, 1, 7⟩) false [] (st w0) sp0 ∧ Issues shBr (immR ⟨0x102, false, false, 0x1FF, 7⟩) false [] (st w0) sp0
    ∧ Issues (shBrk ⟨1, false, false, 0x102, 6⟩) (immR ⟨1, false, false, 0x102, 6⟩) false [] (st w0) sp0
    ∧ Issues shBrx (rw4 0 0x104 0 0) false [] (st w0) sp0 ∧ Issues shBrx ⟨0, false, false, 4, 0, 0, 1, 0⟩ false [] (st w0) sp0
    ∧ Issues (shCall ⟨4, false, false, 2, 6⟩) (immR ⟨4, false, false, 2, 6⟩) false [] (st (wDepth 254)) { sp0 with depth := 254 }
    ∧ Issues (shCall ⟨4, false, false, 2, 6⟩) (immR ⟨4, false, false, 2, 6⟩) false [] (st (wDepth 255)) { sp0 with depth := 255 }
    ∧ Issues shRet (rw4 0 4 0 0) false [] (st (wDepth 1)) { sp0 with depth := 1 } ∧ Issues shRet (rw4 0 4 0 0) false [] (st w0) sp0 := by
  refine ⟨?_, ?_, ?_, ?_, ?_, ?_, ?_, ?_, ?_⟩ <;> exact issues_of (by decide +kernel)
/-- R167: groups that fit; more than fit, with several entries free and with one; a target where another split stands; R162: splits that meet. -/
theorem test_meets_groups :
    let x (p : BitVec 32) (m : Mask) : Split := { pc := p, prio := 2, depth := 0, mask := m }
    let t (p : BitVec 32) (m : Mask) : Target := ⟨p, 2, 0, m⟩
    let ts := (List.range 8).map (fun i => t (BitVec.ofNat 32 (0x40 + i)) (1#128 <<< i)) ++ [t 0x20 (1#128 <<< 9)]
    let full := (List.range 8).map (fun i => x (BitVec.ofNat 32 (0x10 + i)) (1#128 <<< (16 * i)))
    let others := w2.frontier.eraseIdx 0
    w2.frontier[0]? = some spLow
    ∧ joinsOne others spLow (t 0x20 1) = true ∧ ownGroups (ownTargets others spLow (ts.take 7)) ≤ 8 - others.length
    ∧ 8 - others.length < ownGroups (ownTargets others spLow ts) ∧ w2.frontier.length ≤ 8
    ∧ full[0]? = some (x 0x10 1) ∧ full.length ≤ 8 ∧ 8 - (full.eraseIdx 0).length = 1 ∧ 1 < ownGroups (ownTargets (full.eraseIdx 0) (x 0x10 1) ts)
    ∧ 2 ≤ ([x 0x10 1, { x 0x10 2 with prio := 3 }].filter (fun y => y.mask != 0 && (x 0x10 1).meets y)).length := by decide +kernel
/-- R180 to R184: JOIN passes and waits; EXIT of half of the lanes. -/
theorem test_meets_split_words :
    Issues { shNone with ctl := true } (rw4 0 0 0 0) false [] (st w0) sp0 ∧ Issues { shUni1 with ctl := true } (rw4 0 0x103 0 0) false [] (st w0) sp0
    ∧ Issues shJoin (rw4 0 1 0 0) false [] (st w0) sp0 ∧ Issues shJoin (rw4 0 1 0 0) false [] (st (w2.setK 1 (BitVec.allOnes 128))) spLow
    ∧ (w2.setK 1 (BitVec.allOnes 128)).k spLow.mask 1 &&& w2.live &&& unionMask w2.frontier &&& ~~~ spLow.mask ≠ 0 := by
  refine ⟨?_, ?_, ?_, ?_, by decide +kernel⟩ <;> exact issues_of (by decide +kernel)
theorem test_meets_exit :
    let s := st (w0.setK 1 1)
    let f : RWord := ⟨0, false, false, 0, 0, 0, 1, 3⟩
    Issues (shExit f) f false [] s sp0 ∧ (seen s sp0).inh = false ∧ (s.group 0).faulted = false
    ∧ (slotCtx s f sp0).act &&& ~~~ (s.launch 1).withheldOf 0 ((s.group 0).indexOf 0) ≠ 0
    ∧ ∃ x ∈ (seen s sp0).frontier, x.mask &&& ~~~ (slotCtx s f sp0).act ≠ 0 :=
  ⟨issues_of (by decide +kernel), by decide +kernel, by decide +kernel, by decide +kernel, by decide +kernel⟩
/-- R82: a word and a state for each check that fails. -/
theorem test_meets_checks :
    (st w0).warp 0 |>.frontier[0]? = some sp0
    ∧ shS3.check (rwm 0x104 0x102 0x103 0 0x200) = some .reservedBits
    ∧ (shS3.check (rw4 0x104 0x13F 0x103 0) = none ∧ regOk (seen ((st w0).setGroup 0 { launch := 1, warps := [0], sregs := 16 }) sp0) 16 0x13F = false)
    ∧ (shS3.check ⟨0x104, false, true, 0x102, 0x103, 0, 0, 0⟩ = none ∧ (seen (st { w0 with pos := 7 }) sp0).pos = 7)
    ∧ (shS3.check (rw4 0x104 0x140 0x103 0) = none ∧ (seen (st w0) sp0).latch 0 = none)
    ∧ (shTret.check (rw4 0 0 0 0) = none ∧ shTret.priv = true ∧ (seen (st w0) sp0).sup = false) := by decide +kernel
/-- R82: reserved bits before a form's other faults, and each check of a pair word. -/
theorem test_meets_static :
    (Instr.sadd (rwm 0x003 0x103 0x104 0 0x200)).staticCheck = some .reservedBits ∧ (Instr.sadd (rw4 0x003 0x103 0x104 0)).staticCheck = some .illegalOperand
    ∧ (rwm 0x003 0x103 0x104 0 0x200).m.getLsbD 9 = true ∧ shS3.modBits.getLsbD 9 = false ∧ shS3.zero = true
    ∧ shS3.dst.admits 0x003 = false := by decide +kernel
theorem test_meets_pair_checks :
    let a : Slot := ⟨1, 0, 2, 7, 0, 0⟩
    let b : Slot := ⟨1, 0, 4, 9, 0, 0⟩
    let w := seen (st w0) sp0
    let low := seen (st { w0 with alloc := 1 }) sp0
    checkSlot { a with op := 0x3F } ≠ none ∧ (checkSlot a = none ∧ ∃ n ∈ slotRegs { a with src := 0x20 }, regOk low 64 n = false)
    ∧ (∀ n ∈ slotRegs a, regOk w 64 n = true) ∧ checkSlot { b with op := 0x3F } ≠ none
    ∧ pairLatchKind ⟨⟨3, 3, 1, 2, 0, 0⟩, true, { b with src := 0x90 }⟩ = false
    ∧ pairLatchKind ⟨a, false, b⟩ = true ∧ (∃ n ∈ slotBanks a, n ∈ slotBanks { b with dst := 6 }) ∧ sameDest ⟨a, false, { b with dst := 2 }⟩ = true
    ∧ ¬((∃ n ∈ slotBanks a, n ∈ slotBanks b) ∨ sameDest ⟨a, false, b⟩ = true) ∧ (seen stY sp0).pos ≠ 0 ∧ checkSlot { a with src := 0x90 } = none := by
  decide +kernel
/-- R196, R197: a trap that is queued; no handler, a full queue, a precise trap in a handler. -/
theorem test_meets_traps :
    let p : Pend := { cause := .timer }
    (st w0).issuer = 0 ∧ w0.frontier[w0.cur]? = some sp0 ∧ w0.trapvec.getLsbD 63 = true ∧ w0.pend.length < 8 ∧ w0.inh = false
    ∧ ((st w0).group w0.grp).faulted = false ∧ 0 ∈ ((st w0).group w0.grp).warps
    ∧ SMap.has (st w0).launches ((st w0).group 0).launch = true
    ∧ ({ w0 with trapvec := 0 }).trapvec.getLsbD 63 = false ∧ 8 ≤ ({ w0 with pend := List.replicate 8 p }).pend.length
    ∧ ({ w0 with inh := true }).inh = true := by decide +kernel
/-- R196: a split's trap that is raised in the cycle of a timer's, which it passes; in a later one it stays behind. -/
theorem test_trap_ranks :
    let t : Pend := { cause := .timer, cycle := some 4 }
    let p : Pend := { cause := .retEmpty, pc := 9, prio := 2 }
    enqueueTrap [t] { p with cycle := some 4 } = [{ p with cycle := some 4 }, t] ∧ enqueueTrap [t] { p with cycle := some 5 } = [t, { p with cycle := some 5 }]
    ∧ p.cause ≠ .timer ∧ causeImprecise p.cause = false ∧ causeImprecise .storeReplayFail = true ∧ p.rank < ({ p with prio := 1 } : Pend).rank := by
  decide +kernel
/-- R196: a timer's trap and an imprecise one of its cycle; a second split, which stays as it was. -/
theorem test_meets_timer_rank :
    let t : Pend := { cause := .timer, cycle := some 4 }
    let p : Pend := { cause := .storeReplayFail, cycle := some 4 }
    t.rank < p.rank ∧ enqueueTrap [p] t = [t, p] ∧ w2.frontier[w2.cur]? = some spLow ∧ w2.frontier.length = 2 ∧ w2.trapvec.getLsbD 63 = true
      ∧ w2.pend.length < 8 ∧ w2.inh = false := by decide +kernel
/-- R198: an imprecise trap, which the highest split takes; a precise one, which its own split takes. -/
theorem test_meets_delivery :
    w2.pos = 0 ∧ w2.inh = false ∧ w2.frontier[receiver { w2 with pend := [{ cause := .timer }] } { cause := .timer }]? = some spLow
    ∧ receiver { w2 with pend := [{ cause := .retEmpty, split := some 64 }] } { cause := .retEmpty, split := some 64 } = 1 := by decide +kernel
/-- R201, R199: TRAP and BKPT with and without a debugger; TRET in a handler and outside one. -/
theorem test_meets_trap_words :
    Issues shUni1 (rw4 0 0x1C5 0 0) false [] (st w0) sp0 ∧ Issues shUni1 (rw4 0 0x1C5 0 0) false [] (st { w0 with trapvec := 0xC000000500000040 }) sp0
    ∧ Issues shTret (rw4 0 0 0 0) false [] stS sp0 ∧ Issues shTret (rw4 0 0 0 0) false [] (st { w0 with sup := true, inh := true }) sp0
    ∧ SMap.has (st w0).groups w0.grp = true := by
  refine ⟨?_, ?_, ?_, ?_, by decide +kernel⟩ <;> exact issues_of (by decide +kernel)

/-- R190, R191: a read of each register; a write of each that the user may write, and of each that the supervisor may. -/
theorem test_meets_sysr : ∀ n ∈ (List.range 0x1C).filter (fun n => n != 7), let f := rw4 0x102 (BitVec.ofNat 9 n) 0 0; Issues (shSysr f) f false [] (st w0) sp0 := by
  have h : ((List.range 0x1C).filter (fun n => n != 7)).all (fun n => let f := rw4 0x102 (BitVec.ofNat 9 n) 0 0; issuesB (shSysr f) f false [] (st w0) sp0) = true := by
    decide +kernel
  exact fun n hn => issues_of (List.all_eq_true.mp h n hn)
theorem test_meets_sysw :
    (∀ n ∈ [0x00, 0x13, 0x14, 0x15, 0x17], let f := rw4 (BitVec.ofNat 9 n) 0x102 0 0; Issues (shSysw f) f false [] (st w0) sp0)
    ∧ ∀ n ∈ [0x00, 0x09, 0x0B, 0x0E, 0x0F, 0x18, 0x1B], let f := rw4 (BitVec.ofNat 9 n) 0x102 0 0; Issues (shSysw f) f false [] stS sp0 := by
  have h : [0x00, 0x13, 0x14, 0x15, 0x17].all (fun n => let f := rw4 (BitVec.ofNat 9 n) 0x102 0 0; issuesB (shSysw f) f false [] (st w0) sp0) = true := by
    decide +kernel
  have h2 : [0x00, 0x09, 0x0B, 0x0E, 0x0F, 0x18, 0x1B].all
      (fun n => let f := rw4 (BitVec.ofNat 9 n) 0x102 0 0; issuesB (shSysw f) f false [] stS sp0) = true := by decide +kernel
  exact ⟨fun n hn => issues_of (List.all_eq_true.mp h n hn), fun n hn => issues_of (List.all_eq_true.mp h2 n hn)⟩
/-- R203, R206, R208, R215: the clock, timer, monitor and mode words. -/
theorem test_meets_clock_words :
    Issues shCyc (rw4 0x104 0 0 0) false [] (st w0) sp0 ∧ warpBusy (st w0) 0 = false
    ∧ Issues shTarm (rw4 0 0x103 0 0) false [] (st w0) sp0
    ∧ (let f := rwm 0x104 0x1C0 0x1E2 0 0; Issues (shPmonRd f) f false [] (st w0) sp0)
    ∧ Issues shPmonSel (rwm 0 0x1CF 0x103 0 1) false [] stS sp0 ∧ Issues shPmonClr (rwm 0 0x1CF 0 0 2) false [] stS sp0
    ∧ (let f := rwm 0x104 0x1C1 0 0 6; Issues (shMode f) f false [] stS sp0) ∧ (let f := rwm 0x104 0 0 0 8; Issues (shModeRd f) f false [] stS sp0) := by
  refine ⟨?_, by decide +kernel, ?_, ?_, ?_, ?_, ?_, ?_⟩ <;> exact issues_of (by decide +kernel)
/-- R203: CYC waits while a load of its warp is in flight. -/
def ld0 : Load := { id := 0, warp := 0, pc := 0, form := .lanes, space := .virt, dst := 9, w := false, itype := 0, addrs := [], size := 4, todo := [] }
theorem test_meets_cyc_wait : Issues shCyc (rw4 0x104 0 0 0) false [] ((st w0).setCore 0 { loads := [ld0] }) sp0
    ∧ warpBusy ((st w0).setCore 0 { loads := [ld0] }) 0 = true := ⟨issues_of (by decide +kernel), by decide +kernel⟩
/-- R206, R169, R171, R182, R183: an armed timer, a forced turn that is due, a hang count, a spin and a yield that have run out; R209: a monitor. -/
theorem test_meets_split_events :
    (let w : Warp := { w0 with vtcmp := 0x8000000000000005, vtime := 5, deadline := 0x8000000000000000 };
      w.frontier ≠ [] ∧ w.pos = 0 ∧ w.trapvec.getLsbD 63 = true ∧ w.pend.length < 8 ∧ ((st w).group w.grp).faulted = false ∧ 0 ∈ ((st w).group w.grp).warps
      ∧ w.vtcmp.getLsbD 63 = true ∧ w.vtcmp.toNat % 2 ^ 63 ≤ w.vtime.toNat
      ∧ w.deadline.getLsbD 63 = true ∧ w.deadline.toNat % 2 ^ 63 ≤ (st w).cycle.toNat)
    ∧ forcedDue { w2 with frontier := [spLow, { spLow with pc := 0x20, mask := 0xFF <<< 64, age := 4096 }] } = some 1
    ∧ 2 ^ 20 ≤ ({ w0 with hang := 2 ^ 20 }).hang
    ∧ 0 + 3 ≤ ({ st w0 with arith := 3 } : State).arith ∧ ( SMap.has (st w0).warps 0 = true ∧ sp0.yield = 0)
    ∧ (let before : List Sample := [⟨7, 15, 3, 1⟩];
      let s : State := { State.reset with samples := before ++ [⟨7, 15, 9, 2⟩] };
      (9 : Nat) < 2 ^ 64 ∧ s.samples = before ++ ⟨7, 15, 9, 2⟩ :: [] ∧ ∀ x ∈ before, ¬(x.die = 7 ∧ x.mon = 15 ∧ x.value = 9)) := by
  decide +kernel

/-- A group with a local store and a vault, whose cluster has a translation of page 0. -/
def sm (w : Warp) : State :=
  { (st w).setGroup 0 { launch := 1, warps := [0], sregs := 64, lsSize := 0x20000, grant := BitVec.allOnes 256 } with
    tlb := [(0, [{ asid := 0, shift := 42, page := 0, pte := 0x7F }])] }
/-- Whether a core's access reaches a line of a space. -/
def grantedB (s : State) (core asid v : Nat) (need : Need) : Bool :=
  match tlbFind s (core / 4) asid (v * 128) with
  | some e => pteAllows s asid e.pte need (pteFrame e.pte + v * 128 % 2 ^ e.shift) && (decide (need = .read) || pteD e.pte) && !pteCast e.pte
  | none => false
theorem granted_of {s : State} {core asid v : Nat} {need : Need} (h : grantedB s core asid v need = true) :
    ∃ e, Granted s core asid v need e := by
  unfold grantedB at h
  split at h
  · rename_i e he
    simp only [Bool.and_eq_true, Bool.or_eq_true, decide_eq_true_eq, Bool.not_eq_true'] at h
    exact ⟨e, he, h.1.1, h.1.2, h.2⟩
  · cases h
/-- Whether a load issues at once. -/
def readyB (s : State) (acc : List (Nat × Nat)) (n : Nat) (need : Need) (aligned acq : Bool) (scope : Nat) : Bool :=
  !acquirePending (s.core (coreOf s.issuer)) s.issuer
    && (pieceLines (pieces acc n)).all (fun v => !heldLine s s.issuer (s.group (s.warp s.issuer).grp).asid v
        && grantedB s (coreOf s.issuer) (s.group (s.warp s.issuer).grp).asid v need)
    && (!acq || scope == 0 || !releasePending s s.issuer)
    && (!aligned || acc.all (fun p => p.2 % n == 0))
theorem ready_of {s : State} {acc : List (Nat × Nat)} {n : Nat} {need : Need} {aligned acq : Bool} {scope : Nat}
    (h : readyB s acc n need aligned acq scope = true) : LoadReady s acc n need aligned acq scope := by
  simp only [readyB, Bool.and_eq_true, Bool.not_eq_true', List.all_eq_true, Bool.or_eq_true, beq_iff_eq] at h
  obtain ⟨⟨⟨h1, h2⟩, h3⟩, h4⟩ := h
  refine ⟨h1, fun v hv => (h2 v hv).1, fun ha hs => ?_, fun ha => ?_, fun v hv => granted_of (h2 v hv).2⟩
  · rcases h3 with (h3 | h3) | h3
    · simp [ha] at h3
    · omega
    · exact h3
  · rcases h4 with h4 | h4
    · simp [ha] at h4
    · exact h4
theorem store_ready_of {s : State} {lanes : List Nat} {ea : Nat → Nat} {n : Nat} {need : Need} {aligned : Bool}
    (h : decide ((s.core (coreOf s.issuer)).sidelog.length ≤ 256) && readyB s (lanes.map (fun t => (t, ea t))) n need aligned false 0) :
    StoreReady s lanes ea n need aligned := by
  simp only [Bool.and_eq_true, decide_eq_true_eq] at h
  exact ⟨h.1, ready_of h.2⟩

/-- Whether a line's home serves it at once; whether nothing but its home holds a line; whether a walk meets only lines that can be read as
they stand; whether a message is the first of its kind, agent and line. -/
def servesB (s : State) (line : Nat) : Bool := s.arrivals.all (fun x => x.1 != line) && sliceRoom s (homeDie line) line
theorem serves_of {s : State} {line : Nat} (h : servesB s line = true) : HomeServes s line := by
  simp only [servesB, Bool.and_eq_true, List.all_eq_true, bne_iff_ne] at h
  exact h
def atHomeB (s : State) (line : Nat) : Bool :=
  !hostLine line && decide (s.dirAt line = {}) && s.windows.all (fun x => x.line != line) && servesB s line
theorem atHome_of {s : State} {line : Nat} (h : atHomeB s line = true) : AtHome s line := by
  simp only [atHomeB, Bool.and_eq_true, Bool.not_eq_true', decide_eq_true_eq, List.all_eq_true, bne_iff_ne] at h
  exact ⟨h.1.1.1, h.1.1.2, h.1.2, serves_of h.2⟩
def calmB (s : State) (va asid : Nat) : Nat → Nat → Bool
  | 0, _ => true
  | n + 1, table =>
    let place := entryPlace va n table
    let line := place / 128
    let x := entryWord s place asid
    s.windows.all (fun y => y.line != line) && (ownerDie s line).isNone
      && ((s.l2At (homeDie line) line).isSome || hostLine line || !blockReports s line asid)
      && (!pteV x || pteLeaf x || calmB s va asid n (pteFrame x))
theorem calm_of {s : State} {va asid : Nat} : ∀ {n table : Nat}, calmB s va asid n table = true → WalkCalm s va asid n table
  | 0, _, _ => trivial
  | n + 1, table, h => by
    simp only [calmB, Bool.and_eq_true, List.all_eq_true, bne_iff_ne, Option.isNone_iff_eq_none, Bool.or_eq_true, Bool.not_eq_true'] at h
    obtain ⟨⟨⟨h1, h2⟩, h3⟩, h4⟩ := h
    refine ⟨h1, h2, or_assoc.mp h3, fun hv hl => ?_⟩
    rcases h4 with (h4 | h4) | h4
    · rw [hv] at h4; cases h4
    · rw [hl] at h4; cases h4
    · exact calm_of h4
def arrivesB (s : State) (ix : Nat) (m : Msg) (k : MsgKind) : Bool :=
  decide (s.msgs[ix]? = some m) && decide (m.kind = k)
    && (s.msgs.take ix).all (fun x => !(x.line == m.line && x.agent == m.agent && x.kind.toHome == k.toHome))
theorem arrives_of {s : State} {ix : Nat} {m : Msg} {k : MsgKind} (h : arrivesB s ix m k = true) : Arrives s ix m k := by
  simp only [arrivesB, Bool.and_eq_true, Bool.not_eq_true', decide_eq_true_eq, List.all_eq_true] at h
  refine ⟨h.1.1, h.1.2, fun x hx hn => ?_⟩
  have := h.2 x hx
  simp [hn.1, hn.2.1, hn.2.2] at this

/-- The lanes' addresses in layout A. -/
def allA (s : State) (f : RWord) : List (Nat × Nat) := (gatherLanes (seen s sp0) (slotCtx s f sp0).act).map (fun t => (t, eaA s sp0 f t))
/-- Every lane four bytes further. -/
def wl : Warp := w0.setV 7 (BitVec.allOnes 128) (fun t => BitVec.ofNat 32 t)

/-- R228, R234 to R239: a load of each form, its lanes in rising words, at both ends of a page. -/
theorem test_meets_loads :
    (let f : RWord := ⟨4, false, false, 0x144, 7, 0x10, 0, 0x04⟩; Issues (shLd f) f false [] (sm wl) sp0
      ∧ LoadReady (sm wl) (allA (sm wl) f) (sizeA f) .read false false 0)
    ∧ (let f : RWord := ⟨4, false, false, 0x144, 7, 0, 1, 0x64⟩; let s := sm (wl.setK 1 1 |>.setA 0 0xFFF8)
      Issues (shLd f) f false [] s sp0 ∧ LoadReady s (allA s f) (sizeA f) .read false false 0)
    ∧ (let f : RWord := ⟨0x104, false, false, 0x144, 0x1C0, 8, 0, 0⟩; Issues (shLdu f) f false [] (sm w0) sp0
      ∧ lanesIn (sm w0) f sp0 ≠ [] ∧ LoadReady (sm w0) (((lanesIn (sm w0) f sp0).take 1).map (fun t => (t, eaA (sm w0) sp0 f t))) 4 .read false false 0
      ∧ Issues (shLda f) f false [] (sm w0) sp0 ∧ uniformForm f = true)
    ∧ (let f : RWord := ⟨4, false, false, 0x144, 7, 0x10, 0, 0x204⟩; Issues (shLda f) f false [] (sm wl) sp0 ∧ uniformForm f = false
      ∧ LoadReady (sm wl) (allA (sm wl) f) (sizeA f) .read true true f.scope)
    ∧ (let f : RWord := ⟨252, false, false, 0x144, 7, 0x10, 0, 0x14⟩; Issues (shLdt f) f false (ldtRegs f) (sm wl) sp0
      ∧ ldtSize (f.mod 6 4) = some 4 ∧ LoadReady (sm wl) (allA (sm wl) f) 16 .read false false 0)
    ∧ (let f : RWord := ⟨0, false, false, 0x144, 7, 0x10, 0, 0x14⟩; Issues (shPref f) f false [] (sm wl) sp0
      ∧ LoadReady (sm wl) ((lanesIn (sm wl) f sp0).map (fun t => (t, eaA (sm wl) sp0 f t))) 1 .read false false 0) := by
  refine ⟨⟨issues_of ?_, ready_of ?_⟩, ⟨issues_of ?_, ready_of ?_⟩, ⟨issues_of ?_, ?_, ready_of ?_, issues_of ?_, ?_⟩,
    ⟨issues_of ?_, ?_, ready_of ?_⟩, ⟨issues_of ?_, ?_, ready_of ?_⟩, issues_of ?_, ready_of ?_⟩ <;> decide +kernel
/-- R226: LDL and STL inside the group's local store, up to its last byte. -/
theorem test_meets_local :
    ∀ f ∈ [(⟨4, false, false, 0, 7, 0x10, 0, 0x14⟩ : RWord), ⟨4, false, false, 0, 0x1C0, 0, 1, 0x60⟩],
      let s := sm (wl.setK 1 1)
      Issues (shLdl f) f false [] s sp0 ∧ Issues (shStl f) f true [] s sp0
      ∧ (∀ t ∈ lanesIn s f sp0, 0 ≤ offsetA (seen s sp0) f t ∧ offsetA (seen s sp0) f t + sizeA f ≤ (s.group 0).lsSize
        ∧ touchesPacked (s.group 0) (offsetA (seen s sp0) f t).toNat (sizeA f) = false
        ∧ boardWait (s.core 0) (offsetA (seen s sp0) f t).toNat (sizeA f) true = false
        ∧ matWait (s.core 0) 0 false (offsetA (seen s sp0) f t).toNat (sizeA f) true = false)
      ∧ s.lsBad = [] ∧ acquirePending (s.core 0) 0 = false := by
  intro f hf
  simp only [List.mem_cons, List.not_mem_nil, or_false] at hf
  rcases hf with rfl | rfl <;> exact ⟨issues_of (by decide +kernel), issues_of (by decide +kernel), by decide +kernel, by decide +kernel, by decide +kernel⟩
/-- R227: LDV and STV in a granted part, up to its last byte; an STV where nothing is granted. -/
theorem test_meets_vault :
    let f : RWord := ⟨4, false, false, 0x144, 7, 0, 1, 0x04⟩
    let s := sm (wl.setK 1 1 |>.setA 0 0x1BFFFFC)
    Issues (shLd f) f false [] s sp0 ∧ Issues (shSt f) f true [] s sp0 ∧ acquirePending (s.core 0) 0 = false
    ∧ (∀ p ∈ allA s f, p.2 < 2 ^ 33 ∧ (s.group 0).grant.getLsbD (p.2 / 2 ^ 25) = true ∧ p.2 % 2 ^ 25 + sizeA f ≤ 0x1C00000
        ∧ matWait (s.core 0) 0 true p.2 (sizeA f) true = false)
    ∧ Issues (shSt f) f true [] (st wl) sp0 ∧ (0 ∈ lanesIn (st wl) ⟨4, false, false, 0x144, 7, 0, 0, 0x04⟩ sp0)
    ∧ ((st wl).group 0).grant.getLsbD 0 = false := by
  refine ⟨issues_of ?_, issues_of ?_, ?_, ?_, issues_of ?_, ?_, ?_⟩ <;> decide +kernel

/-- R241 to R248: each store instruction and atomic; the released forms; POUR to one receiver, a list and a cluster. -/
theorem test_meets_stores :
    (let f : RWord := ⟨4, false, false, 0x144, 7, 0x10, 0, 0x64⟩; Issues (shSt f) f true [] (sm wl) sp0
      ∧ StoreReady (sm wl) (lanesIn (sm wl) f sp0) (eaA (sm wl) sp0 f) (sizeA f) .write false)
    ∧ (let f : RWord := ⟨0x104, false, false, 0x144, 0x1C0, 8, 0, 0⟩; Issues (shStu f) f true [] (sm w0) sp0
      ∧ StoreReady (sm w0) ((lanesIn (sm w0) f sp0).take 1) (eaA (sm w0) sp0 f) (sizeA f) .write true
      ∧ Issues (shStrl f) f true [] (sm w0) sp0 ∧ uniformForm f = true)
    ∧ (let f : RWord := ⟨4, false, false, 0x144, 7, 0x10, 0, 0x204⟩; Issues (shStrl f) f true [] (sm wl) sp0 ∧ uniformForm f = false
      ∧ StoreReady (sm wl) (lanesIn (sm wl) f sp0) (eaA (sm wl) sp0 f) (sizeA f) .write true)
    ∧ (∀ f ∈ [(⟨5, false, false, 0x144, 7, 0x28, 0, 0x208⟩ : RWord), ⟨5, false, false, 0x144, 7, 6, 0, 2⟩, ⟨5, false, false, 0x144, 7, 6, 0, 4⟩],
      Issues (shPour f) f true (if f.mod 2 1 = 1 then [0x100 + (f.c.extractLsb' 0 8).toNat] else []) (sm wl) sp0
      ∧ StoreReady (sm wl) (lanesIn (sm wl) f sp0) (eaP (sm wl) sp0 f (sizeA f)) (sizeA f) .write false) := by
  refine ⟨⟨issues_of ?_, store_ready_of ?_⟩, ⟨issues_of ?_, store_ready_of ?_, issues_of ?_, ?_⟩, ⟨issues_of ?_, ?_, store_ready_of ?_⟩, ?_⟩
  case refine_10 =>
    intro f hf
    simp only [List.mem_cons, List.not_mem_nil, or_false] at hf
    rcases hf with rfl | rfl | rfl <;> exact ⟨issues_of (by decide +kernel), store_ready_of (by decide +kernel)⟩
  all_goals decide +kernel
theorem test_meets_atomics :
    (∀ f ∈ [(⟨0, false, false, 0x144, 7, 0xC, 0, 0x222⟩ : RWord), ⟨0, false, false, 0x144, 7, 0xC, 0, 0x1C⟩],
      Issues (shAtomn f) f true [] (sm wl) sp0
      ∧ StoreReady (sm wl) (lanesIn (sm wl) f sp0) (eaP (sm wl) sp0 f 4) 4 .update true)
    ∧ (let f : RWord := ⟨10, false, false, 0x144, 7, 0xC, 0, 0x241⟩
      Issues (shAtom f) f false [] (sm wl) sp0 ∧ Issues (shCas { f with m := 0x241 }) { f with m := 0x241 } true [] (sm wl) sp0
      ∧ LoadReady (sm wl) ((lanesIn (sm wl) f sp0).map (fun t => (t, eaP (sm wl) sp0 f 8 t))) 8 .update true true f.scope)
    ∧ Issues (shFence (rwm 0 0 0 0 0x280)) (rwm 0 0 0 0 0x280) false [] (sm wl) sp0
    ∧ releaseReady (sm wl) 0 0 5 = true := by
  refine ⟨?_, ⟨issues_of ?_, issues_of ?_, ready_of ?_⟩, issues_of ?_, ?_⟩
  case refine_1 =>
    intro f hf
    simp only [List.mem_cons, List.not_mem_nil, or_false] at hf
    rcases hf with rfl | rfl <;> exact ⟨issues_of (by decide +kernel), store_ready_of (by decide +kernel)⟩
  all_goals decide +kernel
/-- R251: a FENCE waits while a store of its warp is in flight. -/
def store0 : Store := { id := 3, core := 0, warp := 0, va := 0x80, line := 1, bmask := 0xF, data := 0x12345678, op := 0, pte := 0x7F }
theorem test_meets_fence_wait : releaseReady ((sm wl).setCore 0 { stores := [{ store0 with launch := 1 }] }) 0 9 5 = false := by decide +kernel

/-- The same group with the tables of its pages in memory, from the root 0: page 0, of 2^42 bytes, lies at 0; VA 2^68 is not mapped. -/
def tables : List Host.Cell := [(0, 1), (2, 0x11), (0x110000, 1), (0x110005, 8), (2 ^ 43, 0x7F)]
def sv (w : Warp) : State := { sm w with phys := tables, tags := [(0, 0x55), (0x2200, 0x55), (2 ^ 36, 0x55)] }

/-- R232, R234: a part of a load at its home; loads of each form that have read their lines. -/
theorem test_meets_slice_read :
    let p : Part := { vline := 1, line := 1, pte := 0x7F }
    let l : Load := { ld0 with todo := [p], addrs := [(0, 0x80), (1, 0x84)] }
    let s := (sv w0).setCore 0 { loads := [l] }
    (s.core 0).loads[0]? = some l ∧ l.todo[0]? = some p ∧ (s.core 0).loads.find? (fun x => x.id == l.id) = some l
    ∧ l.todo.find? (fun q => q.vline == p.vline) = some p ∧ earlierOnLine s 0 l.warp (s.nameOf l.warp) l.id p.line .virt = false
    ∧ engineHolds s p.line l.id = false ∧ homeDie p.line = 0 / 32 ∧ atHomeB s p.line = true
    ∧ SMap.find s.l1 (l1Key 0 l.asid p.vline) = none ∧ windowOf s (l1Key 0 l.asid p.vline) = none := by
  decide +kernel
theorem test_meets_return :
    ∀ l ∈ [{ ld0 with itype := 5, size := 1, addrs := [(0, 0x80)] }, { ld0 with form := .atomic, addrs := [(0, 0x80)] },
        { ld0 with form := .transpose, size := 16, addrs := [(0, 0x80)] }, { ld0 with form := .uniform, dst := 0x104, addrs := [(0, 0x80)] },
        { ld0 with bad := some 0x80 }],
      let s := (sv w0).setCore 0 { loads := [l] }
      (s.core 0).loads[0]? = some l ∧ l.todo = [] ∧ (l.form = .lanes → l.bad = none → l.size = bits l.itype / 8)
      ∧ (l.form = .uniform → l.size = bits l.itype / 8 ∧ ∃ p ∈ l.addrs, l.addrs = [p])
      ∧ (s.group (s.warp l.warp).grp).faulted = false ∧ SMap.has s.launches (s.group (s.warp l.warp).grp).launch = true := by
  decide +kernel
/-- R241, R247: a store whose turn has come; operands at the ends of both widths. -/
theorem test_meets_home_store :
    let x : Store := { store0 with line := 1, pte := 0x7F }
    let s := (sv w0).setCore 0 { stores := [x] }
    (s.core 0).stores[0]? = some x ∧ x.core = 0 ∧ x.cast = none ∧ x.exits = 0 ∧ x.space = .virt ∧ x.op ≤ 2
    ∧ (s.core 0).stores.find? (fun y => y.id == x.id) = some x ∧ storeReady s x = true
    ∧ engineHolds s x.line x.id = false ∧ atHomeB s x.line = true := by
  decide +kernel
theorem test_meets_atomic_apply : 0xFFFFFFFF < 2 ^ 32 ∧ 0xFFFFFFFFFFFFFFFF < 2 ^ 64 ∧ (0xFC : Nat) / 128 = 1 ∧ 0xFC % (32 / 8) = 0
    ∧ (0xF8 : Nat) / 128 = 1 ∧ 0xF8 % (64 / 8) = 0 := by decide
/-- R247, R250: lanes of an atomic that are due near at home, far, on a poisoned line, and in a window; a store of POUR; ATOMN's entry. -/
def atoms0 : List AtomLane := [⟨0, 0x80, 5, 0⟩, ⟨1, 0x84, 6, 0⟩, ⟨2, 0x104, 7, 0⟩]
def part0 : Part := { vline := 1, line := 1, pte := 0x7F }
def latom : Load := { ld0 with form := .atomic, itype := 1, todo := [part0], atoms := atoms0 }
/-- The next lanes are due in core 0 with a line of a home slice. -/
def satom (k : Core) (bad : Bool) (l : List Window) : State :=
  { (sv w0).setCore 0 { k with loads := [latom] } with l2 := [(1, { data := 7, wts := 0, rts := 0, poison := bad })], windows := l }
theorem due_of {s : State} (h : (decide ((s.core 0).loads = [latom]) && !earlierOnLine s 0 latom.warp (s.nameOf latom.warp) latom.id 1 .virt
    && !engineHolds s 1 latom.id) = true) : AtomicDue s 0 0 0 latom part0 := by
  simp only [Bool.and_eq_true, decide_eq_true_eq, Bool.not_eq_true'] at h
  exact ⟨by rw [h.1.1]; decide, by decide, by rw [h.1.1]; decide, ⟨⟨0, 0x80, 5, 0⟩, by decide, by decide⟩, ⟨h.1.2, h.2⟩, fun h => Bool.noConfusion h⟩
theorem test_meets_atomic_due :
    let key := l1Key 0 0 1
    let z : Window := { core := 0, key := key, line := 1, ends := 64, data := 0 }
    let far : Core := { predictor := [(1, 8)] }
    (∀ k ∈ [({} : Core), far], ∀ bad ∈ [false, true], AtomicDue (satom k bad []) 0 0 0 latom part0 ∧ atHomeB (satom k bad []) 1 = true
      ∧ windowOf (satom k bad []) key = none ∧ ∀ a, (homeLine (satom k bad []) 1 a).2 = bad)
    ∧ runsNear (satom {} false []) 0 1 1 = true ∧ runsNear (satom far false []) 0 1 1 = false ∧ homeDie 1 = 0 / 32
    ∧ AtomicDue (satom {} false [z]) 0 0 0 latom part0 ∧ windowOf (satom {} false [z]) key = some z ∧ z.bad = false := by
  refine ⟨?_, by decide +kernel, by decide +kernel, by decide, due_of (by decide +kernel), by decide +kernel, rfl⟩
  intro k hk bad hb
  simp only [List.mem_cons, List.not_mem_nil, or_false] at hk hb
  rcases hk with rfl | rfl <;> rcases hb with rfl | rfl <;>
    exact ⟨due_of (by decide +kernel), by decide +kernel, by decide +kernel, fun _ => rfl⟩
theorem test_meets_atomn_due :
    let key := l1Key 0 0 1
    let z : Window := { core := 0, key := key, line := 1, ends := 64, data := 0 }
    let x : Store := { store0 with line := 1, pte := 0x7F, op := 4, atype := 1, atoms := atoms0.take 2 }
    let s (k : Core) (l : List Window) : State :=
      { (sv w0).setCore 0 { k with stores := [x] } with l2 := [(1, { data := 7, wts := 0, rts := 0 })], windows := l }
    (∀ t ∈ [s { predictor := [(1, 8)] } [], s {} [z]], (t.core 0).stores[0]? = some x ∧ storeReady t x = true ∧ engineHolds t 1 x.id = false
      ∧ (t.core 0).stores.find? (fun y => y.id == x.id) = some x)
    ∧ x.core = 0 ∧ x.cast = none ∧ x.exits = 0 ∧ x.space = .virt ∧ x.va / 128 = 1 ∧ x.va < 2 ^ 80
    ∧ atHomeB (s { predictor := [(1, 8)] } []) 1 = true ∧ windowOf (s { predictor := [(1, 8)] } []) key = none
    ∧ runsNear (s { predictor := [(1, 8)] } []) 0 1 1 = false ∧ windowOf (s {} [z]) key = some z := by decide +kernel
theorem test_meets_pour_due :
    let x : Store := { store0 with line := 1, pte := 0x7F, op := 3, dest := [5, 5, 40] }
    let s := (sv w0).setCore 0 { stores := [x] }
    (s.core 0).stores[0]? = some x ∧ storeReady s x = true ∧ engineHolds s 1 x.id = false ∧ atHomeB s 1 = true
    ∧ (s.core 0).stores.find? (fun y => y.id == x.id) = some x ∧ x.dest.dedup = [5, 40] := by decide +kernel
/-- R250, R243 to R245: a window that is due; a push that is taken, one that the quota refuses, one that is acknowledged; a Fill. -/
def push0 : Push := { id := 1, src := 0, dst := 0, asid := 0, va := 0x80, line := 1, data := 5, sectors := 1, time := 3, scope := 2,
                      stage := .toCore }
theorem test_meets_windows :
    (let x : Window := { core := 0, key := l1Key 0 0 1, line := 1, ends := 64, data := 0, bmask := 0xF }
      let s : State := { sv w0 with windows := [x], arith := 64 }
      (s.windows.filter (fun y => l1Core y.key == 0))[0]? = some x ∧ x.grant = none ∧ x.bmask ≠ 0 ∧ x.ends ≤ s.arith ∧ hostLine x.line = false
      ∧ sliceRoom s (homeDie x.line) x.line = true)
    ∧ (∀ p ∈ [push0, { push0 with id := 2 }], behindPush ((sv w0).setCore 0 { pushes := [p] }) p = false)
    ∧ behindPush ((sv w0).setCore 0 { pushes := [push0, { push0 with id := 2 }] }) { push0 with id := 2 } = true
    ∧ refusesPush ((sv w0).setCore 0 { pushes := [push0] }) push0 = false
    ∧ refusesPush ((sv w0).setCore 0 { pushes := [push0], pushq := 0 }) push0 = true
    ∧ (((sv w0).setCore 0 { pushes := [{ push0 with stage := .acked }] }).core 0).pushes[0]? = some { push0 with stage := .acked } := by
  decide +kernel
/-- A message of a kind about a line of die 1, from or to die 2, first of its kind. -/
def msg (k : MsgKind) : Msg := { kind := k, line := 2 ^ 28, agent := 2, data := 7, time := 9, push := some { push0 with dst := 64 } }
def sd (k : MsgKind) (d : Dir) (l : List (Nat × L2Line)) : State :=
  { State.reset with msgs := [msg k], dir := SMap.set (2 ^ 28) d [] , l2 := l }
theorem test_meets_requests :
    homeDie (2 ^ 28) = 1 ∧ (msg .rdS).agent < 8 ∧ hostLine (msg .rdS).line = false ∧ (∀ k ∈ [MsgKind.rdS, .putM], servesB (sd k {} []) (2 ^ 28) = true)
    ∧ (∀ k ∈ [MsgKind.rdS, .rdX, .upg], arrivesB (sd k {} []) 0 (msg k) k = true)
    ∧ (sd .rdS {} []).dirAt (2 ^ 28) = {} ∧ (sd .upg { hi := .S, lo := .S, ptrs := [2] } []).dirAt (2 ^ 28) = { hi := .S, lo := .S, ptrs := [2] }
    ∧ (sd .upg { hi := .S, lo := .S, ptrs := [2, 3] } []).dirAt (2 ^ 28) = { hi := .S, lo := .S, ptrs := [2, 3] } := by
  decide +kernel
theorem test_meets_answers :
    (∀ k ∈ [MsgKind.invAck, .putM, .putE, .evict, .rclData, .rclAck], arrivesB (sd k {} []) 0 (msg k) k = true)
    ∧ (∀ d ∈ [({ hi := .XA, lo := .XA, ptrs := [3, 2], nack := 1, req := 3, serving := some (.agent .upg 3 3) } : Dir),
        { hi := .M, lo := .M, ownHi := 2, ownLo := 2 }, { hi := .S, lo := .S, ptrs := [2] },
        { hi := .FR, lo := .FR, ownHi := 2, ownLo := 2, serving := some .unit }], ∀ k, (sd k d []).dirAt (2 ^ 28) = d) := by
  refine ⟨by decide +kernel, ?_⟩
  intro d hd k
  simp only [List.mem_cons, List.not_mem_nil, or_false] at hd
  rcases hd with rfl | rfl | rfl | rfl <;> cases k <;> decide +kernel
theorem test_meets_proxy :
    let x : L2Line := { data := 7, wts := 1, rts := 4 }
    let at2 (x : L2Line) : List (Nat × L2Line) := [(2 * 2 ^ 45 + 2 ^ 28, x)]
    (∀ k ∈ [MsgKind.data, .gntX, .inv, .rcl, .putAck, .fill], arrivesB (sd k {} []) 0 (msg k) k = true) ∧ (msg .data).excl = false
    ∧ sliceRoom (sd .data {} []) 2 (2 ^ 28) = true ∧ sliceRoom (sd .fill {} []) 2 (2 ^ 28) = true ∧ x.sectors = 15 ∧ (sd .rcl {} []).windows = []
    ∧ (sd .inv {} (at2 x)).l2At 2 (2 ^ 28) = some x ∧ (sd .fill {} []).l2At 2 (2 ^ 28) = none
    ∧ nearWaiter ((sd .gntX {} (at2 x)).setCore 64 { loads := [{ ld0 with form := .atomic, todo := [{ vline := 1, line := 2 ^ 28 }] }] }) 2 (2 ^ 28)
        = some (l1Key 64 0 1)
    ∧ (sd .rcl {} (at2 { x with own := true })).l2At 2 (2 ^ 28) = some { x with own := true }
    ∧ (sd .putAck {} (at2 { x with putting := true })).l2At 2 (2 ^ 28) = some { x with putting := true }
    ∧ (let s : State := { sd .inv {} (at2 x) with msgs := [] }; s.l2At 2 (2 ^ 28) = some x ∧ 2 ≠ homeDie (2 ^ 28) ∧ s.dirAt (2 ^ 28) = {}) := by
  refine ⟨by decide +kernel, ?_⟩
  decide +kernel

/-- R210 to R213: a range whose second line is due, an empty range, and a PXI that belongs to none; TLBI in its scopes. -/
theorem test_meets_maintenance :
    let f : RWord := rw4 0 0x144 0x102 0
    let w : Warp := { w0 with sup := true }.setS 2 0x100
    (∀ x ∈ [(0 : Word), 0x5000000000000001, 0x6000000000000001, 0x7000000000000000], let s := sv { w with pxi := x }
      Issues shCwb f false [] s sp0 ∧ Issues shCinvL1 { f with m := 0 } false [] s sp0)
    ∧ (let s := sv { w with pxi := 0x5000000000000001 }
      linesOf 0 0x100 = 2 ∧ linesOf 0 0 = 0
      ∧ walk s 0 ((0 + 1) % 2 ^ 73 * 128) 0 = .leaf 2 (2 ^ 43) 0x7F ∧ calmB s 128 0 5 0 = true ∧ (1 : Nat) = (pteFrame 0x7F + 128 % 2 ^ levelShift 2) / 128
      ∧ pteCast 0x7F = false ∧ pteProt 0x7F = false ∧ unpopulated (1 * 128) = false ∧ (s.msgs.any (fun m => m.line == 1)) = false
      ∧ earlierOnLine s 0 0 (s.nameOf 0) s.nextId 1 .virt = false ∧ atHomeB s 1 = true ∧ windowOf s (l1Key 0 0 1) = none)
    ∧ Issues shCinvL2 (rwm 0 0x144 0x102 0 1) false [] (sv w) sp0 := by
  refine ⟨?_, by decide +kernel, issues_of (by decide +kernel)⟩
  intro x hx
  simp only [List.mem_cons, List.not_mem_nil, or_false] at hx
  rcases hx with rfl | rfl | rfl | rfl <;> exact ⟨issues_of (by decide +kernel), issues_of (by decide +kernel)⟩
theorem test_meets_tlbi :
    let s := sv ({ w0 with sup := true }.setS 2 0)
    s.windows = [] ∧ s.issuer < 8192
    ∧ (∀ f ∈ [rwm 0 0x144 0x102 0 2, rwm 0 0x144 0x102 0 3, rwm 0 0x144 0x102 0 4], Issues (shTlbiVa f) f false [] s sp0)
    ∧ (let f := rwm 0 0 0x102 0 12; Issues (shTlbiAsid f) f false [] s sp0) ∧ (let f := rwm 0 0 0 0 20; Issues (shTlbiAll f) f false [] s sp0) := by
  refine ⟨rfl, by decide +kernel, ?_, issues_of (by decide +kernel), issues_of (by decide +kernel)⟩
  intro f hf
  simp only [List.mem_cons, List.not_mem_nil, or_false] at hf
  rcases hf with rfl | rfl | rfl <;> exact issues_of (by decide +kernel)
/-- R214, R461: a core that may be gated and its own core, which may not; each state of the mailbox. -/
theorem test_meets_power :
    let w : Warp := { w0 with sup := true }.setS 2 255
    Issues shPgate (rw4 0x104 0x102 0 0) false [] (sv w) sp0 ∧ Issues shPgate (rw4 0x104 0x1C0 0 0) false [] (sv w) sp0
    ∧ (w.uni 0x102).toNat % 2 ^ 8 = 255 ∧ (w.uni 0x1C0).toNat % 2 ^ 8 = (sv w).issuer / 32
    ∧ ((sv w).core 255).cmds = [] ∧ ((sv w).core 255).sidelog = [] ∧ (sv w).groups.map (fun g => g.1 / 32) = [0] ∧ ((sv w).core 255).power = .on
    ∧ Issues shWake (rw4 0 0x102 0 0) false [] ((sv w).setCore 255 { power := .prep }) sp0 ∧ w.block = .free
    ∧ Issues shWake (rw4 0 0x102 0 0) false [] ((sv w).setCore 255 { power := .off, wake := true }) sp0 := by
  refine ⟨issues_of ?_, issues_of ?_, ?_, ?_, ?_, ?_, ?_, ?_, issues_of ?_, ?_, issues_of ?_⟩ <;> decide +kernel

/-- R256: an LDU at VA 2^68, which is not mapped, before and after the service refuses it; requests of each kind of asker. -/
theorem test_meets_fault :
    let f : RWord := ⟨0x104, false, false, 0x144, 0x1C0, 0, 0, 0⟩
    let w : Warp := w0.setA 0 (1#80 <<< 68)
    (∀ v ∈ [([] : List (Nat × Bool)), [(2 ^ 52, false)], [(2 ^ 52, true)]], let s := sv { w with verdict := v }
      Issues (shLdu f) f false [] s sp0
      ∧ (lanesIn s f sp0).head? = some 0 ∧ eaA s sp0 f 0 = (2 ^ 68) ∧ tlbFind s 0 0 (2 ^ 68) = none
      ∧ walk s 0 (2 ^ 68) 0 = .stop 8 0 false ∧ calmB s (2 ^ 68) 0 5 0 = true ∧ pteRegen 0 = false ∧ SMap.find s.l1 (l1Key 0 0 (2 ^ 61)) = none
      ∧ windowOf s (l1Key 0 0 (2 ^ 61)) = none ∧ acquirePending (s.core 0) 0 = false ∧ heldLine s 0 0 (2 ^ 61) = false) := by
  intro f w v hv
  simp only [List.mem_cons, List.not_mem_nil, or_false] at hv
  rcases hv with rfl | rfl | rfl <;> exact ⟨issues_of (by decide +kernel), by decide +kernel⟩
theorem test_meets_service :
    (∀ who ∈ [Asker.warp 0, .side 0 3], let r : FaultReq := { id := 4, asker := who, asid := 0, root := 0, va := 0, need := 0 }
      let s : State := ({ sv { w0 with block := .fault } with reqs := [r] }).setCore 0 { sidelog := [{ store0 with req := some 4 }] }
      findReq s 4 = some r ∧ (s.warp 0).block = .fault ∧ (∀ x ∈ (s.core 0).sidelog, x.req = some 4))
    ∧ (walkBusy (sv w0) 0 0 0 = false ∧ regenPage (sv w0) 0 0 0 = false ∧ mapped (sv w0) 0 0 0 = true)
    ∧ (walkBusy (sv w0) 0 (2 ^ 68) 0 = false ∧ regenPage (sv w0) 0 (2 ^ 68) 0 = false ∧ mapped (sv w0) 0 (2 ^ 68) 0 = false)
    ∧ pteV 0x120001 = true ∧ walk (sv w0) 0 (2 ^ 68) 0 = .stop 8 0 false ∧ 8 % 8 = 0 ∧ atHomeB (sv w0) (8 / 128) = true := by
  decide +kernel
/-- An entry written at the place where the walk stops: from there the tables of page 0 serve. -/
theorem test_meets_map : mapped (writePte (sv w0) 0 (2 ^ 68) 0 0x110001) 0 (2 ^ 68) 0 = true := by decide +kernel
/-- R259, R261: an entry that may be replayed, one that is to fail; R263, R264: a regeneration that has ended, a page that may go. -/
theorem test_meets_side_log :
    let x : Store := { store0 with ready := true, launch := 1 }
    let s := (sv w0).setCore 0 { sidelog := [x] }
    (s.core 0).sidelog[0]? = some x ∧ x.rel = false ∧ x.exits = 0 ∧ firstOfLine (s.core 0) x = true ∧ x.op ≤ 2 ∧ x.fail = false
    ∧ behindEntry s x = false ∧ behindEntry s { x with id := 4, va := 256 } = true ∧ firstOfLine (s.core 0) { x with id := 4, va := 256 } = true
    ∧ grantedB s 0 0 1 .write = true ∧ lineIn { asid := 0, shift := 42, page := 0, pte := 0x7F } 1 = 1 ∧ atHomeB s 1 = true
    ∧ (s.core 0).stores = [] ∧ engineHolds s 1 3 = false ∧ earlierOnLine s 0 0 x.name 3 1 .virt = false ∧ strays s 0 x.name 0 1 = []
    ∧ strayOf s { x with line := 1, pte := 0x7F } = []
    ∧ SMap.has s.launches x.launch = true ∧ failWarp s { x with fail := true } = some 0 ∧ (s.warp 0).trapvec.getLsbD 63 = true := by
  decide +kernel
theorem test_meets_regeneration :
    (∀ b ∈ [true, false], let r : FaultReq := { id := 4, asker := .warp 0, asid := 0, root := 0, va := (2 ^ 68), need := 0, regen := 1, ended := some b, frame := 0x120000 }
      let s : State := { sv { w0 with block := .fault } with reqs := [r] }
      findReq s 4 = some r ∧ (s.reqs.map FaultReq.id).Nodup ∧ s.msgs = [] ∧ walk s 0 r.va 0 = .stop 8 0 false ∧ pteFrame 0x120001 = r.frame)
    ∧ (2 ^ 43) % 8 = 0 ∧ hostLine (2 ^ 36) = false ∧ sliceRoom (sv w0) (homeDie (2 ^ 36)) (2 ^ 36) = true ∧ (sv w0).msgs = []
    ∧ rootOf (sv w0) 0 = some 0 ∧ walk (sv w0) 0 0 = .leaf 2 (2 ^ 43) 0x7F ∧ (0x7F : Word).getLsbD 5 = true
    ∧ (let s : State := { sv w0 with phys := SMap.set (2 ^ 43) 0x5F tables }
      walk s 0 0 = .leaf 2 (2 ^ 43) 0x5F ∧ (0x5F : Word).getLsbD 5 = false
      ∧ ¬(pteFrame 0x5F / 128 ≤ (2 ^ 43) / 128 ∧ (2 ^ 43) / 128 < (pteFrame 0x5F + 2 ^ levelShift 2) / 128))
    ∧ (sv w0).mode.getLsbD 6 = false ∧ (sv w0).dir = [] ∧ (sv w0).windows = [] ∧ (sv w0).cores = [] := by decide +kernel

/-- The group's core with sluice 0 and dross slot 1 claimed by the group. -/
def ke : Core := { sluices := [(0, { owner := some 0, fill := gateWord false 0 1 0 0, drain := gateWord false 0 1 0 0 })], dross := [(1, { owner := some 0 })] }
def se (w : Warp) : State := (sm w).setCore 0 ke
/-- A shape record of plain memory or a tile. -/
def mrec (space fmt rows cols base : Nat) : BitVec 128 :=
  BitVec.ofNat 128 (space * 2 ^ 126 + fmt * 2 ^ 122 + (rows - 1) * 2 ^ 107 + (cols - 1) * 2 ^ 98 + base * 2 ^ 49)

/-- R316, R325: CPY from virtual memory to the local store on an armed gate; from a vault to its last byte, held. -/
theorem test_meets_cpy :
    (let f : RWord := ⟨0x109, false, false, 0x104, 0x146, 0x105, 0, 0xA0⟩
      let s := se ((w0.setS 4 0x1FF00).setS 5 0x8000000100)
      (slotCtx s f sp0).act ≠ 0 ∧ Issues (shCpy f) f false [] s sp0
      ∧ ((seen s sp0).uni f.c).toNat < 2 ^ 40 ∧ ((seen s sp0).uni f.c).toNat / 2 ^ 39 = 1 ∧ (SMap.look {} (s.core 0).sluices 0).owner = some 0
      ∧ ((seen s sp0).uni f.a).toNat < 2 ^ 20 ∧ ((seen s sp0).uni f.a).toNat + 0x100 ≤ (s.group 0).lsSize
      ∧ engPacked (s.group 0) ⟨.ls, 0x1FF00⟩ 0x100 = false ∧ engPacked (s.group 0) ⟨.virt, 0⟩ 0x100 = false
      ∧ ((s.core 0).cmds.filter (fun x => x.2.grp == 0)).length < 16 ∧ (s.core 0).board.length + 1 ≤ 32 ∧ SMap.find (s.core 0).cmds 0 = none)
    ∧ (let f : RWord := ⟨0x109, false, false, 0x146, 0x104, 0x1E0, 0, 0x14⟩
      let s := se (w0.setS 4 0x1BFFFE0)
      Issues (shCpy f) f false [] s sp0 ∧ f.mod 2 2 = 1 ∧ f.mod 4 3 = 2 ∧ ((seen s sp0).uni f.c).toNat = 32
      ∧ vaultRefuses (s.group 0).grant 0x1BFFFE0 32 = false) := by
  refine ⟨⟨?_, issues_of ?_, ?_⟩, issues_of ?_, ?_⟩ <;> decide +kernel
/-- R330, R329: CPYT between two plain shapes of the local store, two tiles; CPYT `.pinit` of one tile and of an area that ends with the store. -/
theorem test_meets_cpyt :
    (let f : RWord := ⟨0x109, false, false, 1, 2, 0x104, 0, 0x80⟩
      let s := se (((w0.setD 1 (mrec 0 0 64 64 0x400)).setD 2 (mrec 1 0 64 64 0)).setS 4 2)
      let g := s.group 0
      let m0 : Cmd := { kind := .cpyt, warp := 0, grp := 0, launch := 1, token := 9, scope := 1, recD := (seen s sp0).d 1, recS := (seen s sp0).d 2
                        ctl := 2, len := 2, kindBits := 0 };
      Issues (shCpyt f) f false [] s sp0 ∧ f.mod 4 3 = 0 ∧ ((seen s sp0).uni f.c).toNat = 2 ∧ f.scope = 1 ∧ cpytTrap g m0 1 2 2 = none)
    ∧ (let f : RWord := ⟨0x109, false, false, 0x104, 0x105, 0, 0, 0x88⟩
      let s := se ((w0.setS 4 (0x20000 - 128 - 256 - 128)).setS 5 (1 + 256 * 128))
      Issues (shCpytPinit f) f false [] s sp0 ∧ (s.group 0).packed = [] ∧ ((seen s sp0).uni f.b).toNat % 256 = 1
      ∧ ((seen s sp0).uni f.b).toNat / 256 = 128 ∧ ((seen s sp0).uni f.a).toNat + (128 + 256 + 128) ≤ (s.group 0).lsSize) := by
  refine ⟨⟨issues_of ?_, ?_⟩, issues_of ?_, ?_⟩ <;> decide +kernel
/-- R341, R343, R344: SKIM of 64 into the group's slot, BIN of no key and of some, DROSS. -/
theorem test_meets_skim :
    (let f : RWord := ⟨0x109, false, false, 0x104, 0x105, 0x106, 0, 0x80⟩
      let s := se (((w0.setS 4 0x400).setS 5 0x1000).setS 6 (64 + 256 + 2 ^ 10))
      Issues (shSkim f) f false [] s sp0 ∧ ((seen s sp0).uni f.c).toNat < 2 ^ 21 ∧ ((seen s sp0).uni f.c).getLsbD 7 = false
      ∧ ((seen s sp0).uni f.c).toNat / 2 ^ 11 % 4 = 0 ∧ ((seen s sp0).uni f.c).toNat % 128 = 64
      ∧ touchesPacked (s.group 0) 0x400 1024 = false ∧ touchesPacked (s.group 0) 0x1000 512 = false ∧ (SMap.look {} (s.core 0).dross 1).owner = some 0)
    ∧ (∀ c ∈ [(0 : Word), 0x803FF0000000008], let f : RWord := ⟨0x109, false, false, 0x104, 0x105, 0x106, 0, 0x80⟩
      Issues (shSkim f) f false [] (se (((w0.setS 4 0x400).setS 5 0x1000).setS 6 c)) sp0)
    ∧ (let f : RWord := ⟨0x109, false, false, 0x1C1, 0x105, 0, 0, 0x80⟩; Issues (shDrossRd f) f false [] (se (w0.setS 5 0x1000)) sp0)
    ∧ (let f : RWord := ⟨0x109, false, false, 0x1C1, 0, 0, 0, 0x81⟩; Issues (shDrossClr f) f false [] (se w0) sp0) := by
  refine ⟨⟨issues_of ?_, ?_⟩, ?_, issues_of ?_, issues_of ?_⟩
  case refine_3 =>
    intro c hc
    simp only [List.mem_cons, List.not_mem_nil, or_false] at hc
    rcases hc with rfl | rfl <;> exact issues_of (by decide +kernel)
  all_goals decide +kernel

/-- A copy in slot 0. -/
def cpy0 : Cmd := { kind := .cpy, warp := 0, grp := 0, launch := 1, token := 9, scope := 0, src := ⟨.virt, 0x40⟩, dst := ⟨.ls, 0x90⟩, len := 0x200, gate := some 0 }
def sc (m : Cmd) : State := ((sm w0).setCore 0 { ke with cmds := [(0, m)] })
/-- Whether an engine reaches lines first to last of virtual memory at once. -/
def reachesB (s : State) (core asid first last : Nat) (need : Need) : Bool :=
  (SMap.look [] s.tlb (core / 4)).all (fun e => decide (7 ≤ e.shift))
    && (List.range (last - first + 1)).all (fun i => grantedB s core asid (first + i) need
      && (match tlbFind s (core / 4) asid ((first + i) * 128) with
        | some e => atHomeB s (lineIn e (first + i))
        | none => false))
theorem reaches_of {s : State} {core : Nat} {g : Group} {a n : Nat} {need : Need} (ha : a + n ≤ 2 ^ 80)
    (h : reachesB s core g.asid (a / 128) ((a + n - 1) / 128) need = true) : Reaches s core g .virt a n need := by
  simp only [reachesB, Bool.and_eq_true, List.all_eq_true, decide_eq_true_eq, List.mem_range] at h
  refine fun _ => ⟨ha, h.1, fun v h1 h2 => ?_⟩
  have hv := h.2 (v - a / 128) (by omega)
  rw [show a / 128 + (v - a / 128) = v by omega] at hv
  obtain ⟨e, he⟩ := granted_of hv.1
  refine ⟨e, he, ?_⟩
  have := hv.2
  rw [he.1] at this
  exact atHome_of this
/-- R326: a copy that may land its first unit and its last, from virtual memory; one that has landed, one that has stopped. -/
theorem test_meets_copy :
    (∀ m ∈ [cpy0, { cpy0 with done := 0x1F0 }], SMap.find ((sc m).core 0).cmds 0 = some m ∧ cmdReady (sc m) 0 0 m = true ∧ m.finished = false ∧ m.done < m.len
      ∧ reportTurn ((sc m).core 0) m = true ∧ m.gate = some 0 ∧ (sc m).msgs = []
      ∧ (sc m).cores.all (fun c => c.2.sidelog.isEmpty) = true) ∧ Reaches (sc cpy0) 0 ((sc cpy0).group 0) .virt 0x40 112 .read
    ∧ Reaches (sc cpy0) 0 ((sc cpy0).group 0) .ls 0x90 112 .write ∧ (∀ m, Live (sc m) cpy0) := by
  refine ⟨by decide +kernel, reaches_of (by decide) (by decide +kernel), fun h => Space.noConfusion h, fun m => ⟨⟨w0, rfl, by decide⟩, rfl, ?_, by decide⟩⟩
  exact List.mem_singleton.mpr rfl
/-- R330, R341 to R344: a CPYT tile between plain shapes; each command that performs as it ends. -/
theorem test_meets_commands :
    (let m : Cmd := { cpy0 with kind := .cpyt, src := {}, dst := {}, recD := mrec 0 0 4 8 0x400, recS := mrec 1 0 4 8 0x100, len := 1 };
      cmdReady (sc m) 0 0 m = true ∧ m.dstSide.space ≤ 1 ∧ m.srcSide.space ≤ 1 ∧ m.dstSide.boxed = false ∧ m.dstSide.fmt = m.srcSide.fmt
      ∧ m.dstSide.major = 4 ∧ m.srcSide.major = 4 ∧ m.dstSide.minor = 8 ∧ m.srcSide.minor = 8 ∧ m.dstSide.len ≤ m.dstSide.pitch
      ∧ m.dstSide.start 0 = 0x400 ∧ m.srcSide.start 0 = 0x100 ∧ m.dstSide.block = 0)
    ∧ ∀ m ∈ [{ cpy0 with kind := .skim, src := ⟨.ls, 0⟩, len := 1024, ctl := 64 + 256, gate := none }, { cpy0 with kind := .bin, len := 3, ctl := 0, gate := none },
        { cpy0 with kind := .drossRd, ctl := 256, gate := none }, { cpy0 with kind := .drossClr, ctl := 256, gate := none },
        { cpy0 with kind := .pinit, len := 128, ctl := 8192, gate := none }],
      m.warp / 32 = 0 ∧ m.held = false ∧ m.err = none ∧ m.finished = false ∧ cmdReady (sc m) 0 0 m = true ∧ reportTurn ((sc m).core 0) m = true
      ∧ (m.kind = .pinit → m.len ≤ 128 ∧ m.ctl.toNat < 2 ^ 32) ∧ (m.kind = .skim → m.ctl.toNat % 128 ≤ 64) := by decide +kernel

/-- R333 to R340: the sluice words; a gate one short of its count. -/
theorem test_meets_sluices :
    (let f : RWord := ⟨0, false, false, 0x1C1, 0x104, 0x105, 0, 0⟩
      let s := se ((w0.setS 4 (0x3FFFFFFF)).setS 5 1)
      (slotCtx s f sp0).act ≠ 0 ∧ Issues shSlinit f false [] s sp0 ∧ ((seen s sp0).uni f.b).toNat < 2 ^ 30 ∧ ((s.core 0).sluice 1).owner = none
      ∧ (s.core 0).cmds = [])
    ∧ (let f : RWord := rw4 0 0x1C0 0x1C1 0
      Issues shUni2 f false [] (se w0) sp0 ∧ (((se w0).core 0).sluice 0).owner = some 0 ∧ gateGot (((se w0).core 0).gate 0) ≠ gateNeed (((se w0).core 0).gate 0)
      ∧ releaseReady (se w0) 0 0 1 = true ∧ (((se w0).core 0).gate 0).getLsbD 63 = false
      ∧ gateTurn ((se w0).core 0) 0 0 = true ∧ gateTurn { ke with gateSeen := [(0, 1)] } 0 0 = false)
    ∧ (let x := gateWord false 0 1 0 4096; (0 : Nat) < 2 ^ 24 ∧ gateGot x < 127 ∧ gateGot x + 1 = gateNeed x) := by
  refine ⟨⟨?_, issues_of ?_, ?_⟩, ⟨issues_of ?_, ?_⟩, ?_⟩ <;> decide +kernel
/-- R345, R346: a held copy, a patch for it, and its release. -/
theorem test_meets_release :
    let s := (sm ((w0.setS 4 0x100).setS 5 4)).setCore 0 { cmds := [(0, { cpy0 with held := true, gate := none, patch := some (0x100, 4) })] }
    let f : RWord := ⟨0, false, false, 0x109, 0x104, 0x105, 0, 0⟩
    Issues { shBpatch with a := .unused } { f with a := 0 } false [] s sp0 ∧ isS f.a = true ∧ f.a.toNat - 0x100 < (s.group 0).sregs
    ∧ (SMap.findWhere (s.core 0).cmds (fun _ x => x.held && x.warp == 0 && x.token == 9)).isSome = true ∧ ((seen s sp0).uni f.b).toNat % 4 = 0
    ∧ Issues {} (rw4 0 0 0 0) false [] s sp0 ∧ releaseReady s 0 s.nextId 0 = true ∧ (s.core 0).board = []
    ∧ (s.core 0).cmds.filter (fun p => p.2.held && p.2.warp == 0) = [(0, { cpy0 with held := true, gate := none, patch := some (0x100, 4) })]
    ∧ matWait (s.core 0) 0 false 0x100 4 false = false := by
  refine ⟨issues_of ?_, ?_, ?_, ?_, ?_, issues_of ?_, ?_⟩ <;> decide +kernel

/-- R363 to R370, R379, R380: the words of tasks; a claim that the pool serves and one that waits. -/
theorem test_meets_task_words :
    let s := sm (({ w0 with alloc := 0xFFFF }.setS 4 0x1F0000).setS 5 0x8001)
    Issues shUni2 (rw4 0 0x1CF 0x1D0 0) false [] s sp0 ∧ ((seen s sp0).uni 0x1CF).toNat = 15 ∧ ((seen s sp0).uni 0x1D0).toNat = 16
    ∧ arrivals s 0 15 = [] ∧ releaseReady s 0 s.nextId 4 = true ∧ Issues {} (rw4 0 0 0 0) false [] s sp0 ∧ (seen s sp0).carryS.toNat < 2 ^ (s.group 0).sregs
    ∧ Issues shCarryRegs (rw4 0 0x104 0x105 0x105) false [] s sp0 ∧ Issues shCarryLs (rwm 0 0x10A 0 0 1) false [] s sp0
    ∧ Issues { a := .uni } (rw4 0 0x105 0 0) false [] s sp0 ∧ (0x8001 : BitVec 32) &&& ~~~ (seen s sp0).alloc = 0
    ∧ mustWait s 0 (blockRegs 0x8001) = false ∧ Issues { a := .uni } (rw4 0 0x104 0 0) false [] s sp0
    ∧ (0x1F0000 : BitVec 32) &&& (seen s sp0).alloc = 0 ∧ (seen s sp0).claim = none ∧ (s.group 0).pool < 5
    ∧ (∀ wp ∈ (s.group 0).warps, (s.warp wp).claim = none)
    ∧ (let f : RWord := rwm 0 0x144 0x104 0 0x200; Issues (shCwait f) f false [] s sp0 ∧ LoadReady s [(lowest sp0.mask, ((seen s sp0).areg f.a).toNat)] 8 .read false true f.scope) := by
  refine ⟨issues_of ?_, ?_, ?_, ?_, ?_, issues_of ?_, ?_, issues_of ?_, issues_of ?_, issues_of ?_, ?_, ?_, issues_of ?_, ?_, ?_, ?_, ?_, issues_of ?_,
    ready_of ?_⟩ <;> decide +kernel
/-- R363: three warps at a barrier whose first arrival counts two; a fourth may join the round of the third with the same count only. -/
theorem test_meets_round :
    let w : Warp := { w0 with frontier := [{ sp0 with wait := .bar 15 2 }] }
    let s := ((((st w).setGroup 0 { launch := 1, warps := [0, 1, 2, 3], sregs := 64 }).setWarp 1 w).setWarp 2 w).setWarp 3 w0
    (s.group 0).msDue = none ∧ (s.group 0).warps.Nodup ∧ arrivals s 0 15 = 0 :: [1] ++ [2] ∧ (arrivals s 0 15).Nodup ∧ arrivedAt (s.warp 0) 15 = some 2
    ∧ [0, 1].length = barrierNeed s 0 2 ∧ (∀ wp ∈ [0, 1], releaseReady s wp s.nextId 1 = true ∧ ∀ y ∈ (s.warp wp).frontier, y.mask ≠ 0)
    ∧ joinedCount s 0 15 3 [0, 1, 2] = some 2 := by decide +kernel
/-- R363: the last warp of a group comes to its barrier, where the other waits. -/
theorem test_meets_bar_turn :
    let s := ((sm (((w0.setS 4 15).setS 5 2))).setGroup 0 { (sm w0).group 0 with warps := [0, 1] }).setWarp 1 { w0 with frontier := [{ sp0 with wait := .bar 15 2 }] }
    let f := rw4 0 0x104 0x105 0
    (slotCtx s f sp0).act ≠ 0 ∧ Issues shUni2 f false [] s sp0 ∧ ((seen s sp0).uni f.a).toNat = 15 ∧ ((seen s sp0).uni f.b).toNat % 32 = 2
    ∧ joinedCount s 0 15 (arrivals s 0 15).length (arrivals s 0 15) = some 2
    ∧ (s.group 0).warps.filter (fun wp => !(s.warp wp).frontier.isEmpty) = [0, 1] ∧ (seen s sp0).kwrites = [] ∧ (s.warp 0).frontier.length = 1
    ∧ (s.group 0).msDue = none ∧ (s.group 0).faulted = false ∧ SMap.has s.groups 0 = true
    ∧ (∀ wp ∈ [0, 1], releaseReady s wp s.nextId 1 = true) ∧ (s.warp 1).frontier = [{ sp0 with wait := .bar 15 2 }] := by
  refine ⟨?_, issues_of ?_, ?_⟩ <;> decide +kernel
/-- R363: a warp of the round that has arrived with another count, whose trap is handled. -/
theorem test_meets_misfit :
    let w (n : Nat) : Warp := { w0 with frontier := [{ sp0 with wait := .bar 15 n }] }
    let s := ((((st (w 2)).setGroup 0 { launch := 1, warps := [0, 1, 2], sregs := 64 }).setWarp 1 (w 3)).setWarp 2 { w0 with frontier := [sp0] })
    (s.group 0).msDue = none ∧ (s.group 0).warps.Nodup ∧ (arrivals s 0 15).Nodup ∧ arrivals s 0 15 = 0 :: [1] ++ [] ∧ arrivedAt (s.warp 0) 15 = some 2
    ∧ (0 :: [1]).length = barrierNeed s 0 2 ∧ [1] = [] ++ 1 :: [] ∧ arrivedAt (s.warp 1) 15 ≠ some 2 ∧ (s.warp 1).frontier = [{ sp0 with wait := .bar 15 3 }]
    ∧ (s.warp 1).trapvec.getLsbD 63 = true ∧ (s.warp 1).pend.length < 8 ∧ (s.warp 1).inh = false := by decide +kernel
/-- R380: a read that has reached its target; R363 to R370: operands of CARRY, VGIVE and VCLAIM that trap. -/
theorem test_meets_cwait_return :
    let x : Split := { sp0 with wait := .cwait 0 }
    let w : Warp := { w0 with frontier := [x] }
    let l : Load := { ld0 with form := .counter 5, size := 8, addrs := [(0, 0x80)], got := [(0x80, 7)] }
    let s := (sm w).setCore 0 { loads := [l] }
    (s.core 0).loads[0]? = some l ∧ l.todo = [] ∧ l.bad = none ∧ w.pos = 0 ∧ (s.warp 0).frontier = [x] ∧ x.wait = .cwait l.id ∧ x.mask ≠ 0
    ∧ (s.group 0).faulted = false ∧ l.warp ∈ (s.group 0).warps ∧ (5 : Word).toNat ≤ gotValue l 0x80 := by decide +kernel
theorem test_meets_lone_warp (w : Warp) (k : Core) : ∀ o, o ≠ 0 → ∀ b, arrivedAt (((sm w).setCore 0 k).warp o) b = none := by
  intro o h b
  have : ((sm w).setCore 0 k).warp o = {} := by
    simp [sm, st, State.warp, State.setCore, State.setWarp, SMap.look, SMap.set, State.setGroup, State.setLaunch, State.reset, Ne.symm h]
  rw [this]
  rfl
theorem test_meets_task_traps :
    let s := sm (({ w0 with alloc := 0xFFFF }.setS 4 0x1F0000).setS 5 0x18001 |>.setS 6 (BitVec.allOnes 64))
    Issues shCarryRegs (rw4 0 0x104 0x105 0x106) false [] s sp0 ∧ 8 < (List.range 64).countP (fun n => ((seen s sp0).uni 0x106).getLsbD n)
    ∧ Issues shCarryLs (rwm 0 0x105 0 0 1) false [] s sp0 ∧ ((seen s sp0).uni 0x105).toNat % 2 ^ 20 % 128 ≠ 0
    ∧ Issues { a := .uni } (rw4 0 0x104 0 0) false [] s sp0 ∧ BitVec.ofNat 32 ((seen s sp0).uni 0x104).toNat &&& ~~~ (seen s sp0).alloc ≠ 0
    ∧ Issues { a := .uni } (rw4 0 0x105 0 0) false [] s sp0 ∧ BitVec.ofNat 32 ((seen s sp0).uni 0x105).toNat &&& (seen s sp0).alloc ≠ 0 := by
  refine ⟨issues_of ?_, ?_, issues_of ?_, ?_, issues_of ?_, ?_, issues_of ?_, ?_⟩ <;> decide +kernel
/-- R363: both warps of a group at its barrier. -/
theorem test_meets_barrier :
    let w : Warp := { w0 with frontier := [{ sp0 with wait := .bar 15 2 }] }
    let s := ((st w).setGroup 0 { launch := 1, warps := [0, 1], sregs := 64 }).setWarp 1 w
    (s.group 0).msDue = none ∧ (s.group 0).warps.Nodup ∧ (SMap.look {} (s.group 0).bars 15).arrived = []
    ∧ (∀ wp ∈ (s.group 0).warps, (s.warp wp).frontier = [{ sp0 with wait := .bar 15 2 }] ∧ releaseReady s wp s.nextId 1 = true) := by decide +kernel

/-- A launch packet: one warp of 32 threads, one stage, 16 v registers, no carry set, a save area at VA 0x1000. -/
def packet0 : List Byte := (List.range 256).map (fun i =>
  if i = 5 ∨ i = 7 ∨ i = 8 then 1 else if i = 6 then 32 else if i = 0x1C then 16 else if i = 0x1E then 64
  else if 0x28 ≤ i ∧ i < 0x38 then 255 else if i = 0xD1 then 0x10 else 0)
/-- A line of die 0 in its home slice. -/
def inL2 (line : Nat) (l : List Byte) : Nat × L2Line := (line, { data := lineOf l, wts := 0, rts := 0 })
/-- The group's state with the packet at VA 0x80. -/
def sk (w : Warp) (b : List Byte) : State := { sm w with l2 := [inL2 1 (b.take 128), inL2 2 (b.drop 128)] }

/-- R371, R372, R374, R375: a packet that is accepted and one that is not; the words' operands. -/
theorem test_meets_launch_words :
    (let f : RWord := ⟨0x109, false, false, 0x103, 0x144, 0, 0, 0x84⟩
      let s := sk (w0.setA 0 0x80) packet0
      (slotCtx s f sp0).act ≠ 0 ∧ Issues (shLaunch f) f false [] s sp0 ∧ Issues (shEnq { f with m := 0x80 }) { f with m := 0x80 } false [] s sp0
      ∧ Reaches s 0 (s.group 0) .virt 0x80 256 .read
      ∧ ((seen s sp0).uni f.a).toNat < 2 ^ 11 ∧ releaseReady s 0 s.nextId f.scope = true ∧ s.msgs = [] ∧ acquirePending (s.core 0) 0 = false
      ∧ (∀ v ∈ [1, 2], heldLine s 0 0 v = false ∧ engineHolds s v s.nextId = false ∧ (homeLine s v 0).2 = false)
      ∧ (List.range 256).map (fun i => cellAt s 0 (s.group 0) .virt (0x80 + i)) = packet0 ∧ packetOk packet0 = true ∧ (readPacket packet0).priv = false
      ∧ (s.queue 0 0).room = true)
    ∧ packetOk (packet0.set 6 0) = false ∧ ({ entries := List.replicate 64 {} } : Queue).room = false
    ∧ Issues shMigr (rw4 0x104 0x102 0 0) false [] (st ({ w0 with sup := true }.setS 2 0x1FFFFFF)) sp0
    ∧ (let s := st (({ w0 with sup := true }.setS 2 0xFFF).setS 3 0x8001000100000000);
      Issues shBind (rw4 0x104 0x102 0x103 0) false [] s sp0 ∧ ((seen s sp0).uni 0x103).extractLsb' 56 5 = 0 ∧ ((seen s sp0).uni 0x103).getLsbD 43 = false
      ∧ ((seen s sp0).uni 0x103).extractLsb' 48 8 ≠ 0) := by
  refine ⟨⟨?_, issues_of ?_, issues_of ?_, reaches_of ?_ ?_, ?_⟩, ?_, ?_, issues_of ?_, issues_of ?_, ?_⟩ <;> decide +kernel

/-- A launch of the packet at the head of queue 5 of die 0, which core 0's record 2 serves. -/
def entry0 : QEntry := { kind := 1, launch := 1, originQ := 5 }
def sq : State :=
  { (State.reset.setLaunch 1 { bytes := packet0, queue := 5 }).setQueue 0 5 { entries := [entry0], shadow := [(entry0, false)] } with
    cores := [(0, { slots := [(2, 0x80FF0005FFFFFFFF)] })], dies := [(0, {})] }
/-- R359: the dispatcher's pick. -/
theorem test_meets_dispatch :
    sq.resetting = none ∧ sq.preempts = [] ∧ discardFor sq 0 = sq ∧ (sq.core 0).power = .on ∧ preempt sq 0 = sq
    ∧ picked sq 0 = some ⟨false, 2, 0, 0, entry0, ([0], 0)⟩ := by decide +kernel
/-- R364, R373, R353: a phase that may end; four entries more on a core than on the emptiest; a launch that has ended, and one that faulted. -/
theorem test_meets_phase_end :
    (let s := (st w0).setGroup 0 { launch := 1, warps := [0], ending := true, lsSize := 0x400, carrySize := 0x80 };
      coreOf 0 = 0 ∧ SMap.has s.groups 0 = true ∧ (s.group 0).ending = true ∧ (s.group 0).faulted = false ∧ phaseWaits s 0 = false
      ∧ (s.die (0 / 32)).phases.length < 4096 ∧ phasePlace s 0 = some (0, 0x1C00000)
      ∧ ({ s.group 0 with phaseRec := some (0, 0x1C00000) } : Group).phaseRec ≠ none
      ∧ 4096 ≤ ({ phases := List.replicate 4096 {} } : Die).phases.length)
    ∧ (let s := State.reset.setDie 0 { phases := [{ tgt := 3 }, { tgt := 3 }, { tgt := 3 }, { tgt := 3 }] };
      s.mode.getLsbD 1 = false ∧ queuedOn s 3 - queuedOn s 0 = 4 ∧ (∀ c ∈ List.range 32, c ≠ 3 → queuedOn s c < queuedOn s 3)
      ∧ ∀ c ∈ List.range 32, c ≠ 0 → queuedOn s 0 < queuedOn s c ∨ (queuedOn s 0 = queuedOn s c ∧ busySlots s 0 = busySlots s c ∧ 0 < c))
    ∧ (let m : Cmd := { cpy0 with kind := .launch, child := some 2, gate := none };
      ∀ b ∈ [true, false],
      let s := ((st w0).setLaunch 2 { bytes := packet0, token := some (0, 4), node := some (0, 7), faulted := b }).setCore 0 { cmds := [(4, m)] }
      SMap.has s.launches 2 = true ∧ launchStores s 2 = false ∧ launchBusy s 2 = false ∧ (∀ g ∈ s.groups, g.2.launch ≠ 2)
      ∧ SMap.find (s.core 0).cmds 4 = some m ∧ m.warp / 32 = 0 ∧ (s.group m.grp).faulted = false ∧ m.warp ∈ (s.group m.grp).warps ∧ m.token < 64) := by
  decide +kernel

/-- A barrier node that releases node 6, as a graph load reads it. -/
def node0 : List Byte := (List.range 64).map (fun i => if i = 0 then 3 else if i = 8 then 6 else if i = 0x18 then 1 else if 10 ≤ i ∧ i < 0x18 then 255 else 0)
def sn (n : Node) : State :=
  (sk w0 (packet0.take 128 ++ node0 ++ zeros 64)).setDie 0 { nodes := [(5, n), (6, { kind := 3, init := 1, count := 1 })], readyList := [5] }
theorem apart_of {s : State} {core asid a n : Nat} {e : TlbEntry} (h : SMap.look [] s.tlb (core / 4) = [e]) (hs : 7 ≤ e.shift) :
    Apart s core asid a n := by
  intro u v x y _ _ _ _ hx hy hl
  simp only [tlbFind, h, List.find?_cons] at hx hy
  split at hx <;> split at hy <;> simp at hx hy
  rename_i h1 _ h2
  subst hx; subst hy
  simp only [Bool.and_eq_true, beq_iff_eq] at h1 h2
  obtain ⟨k, hk⟩ := Nat.exists_eq_add_of_le hs
  have h2k : 2 ^ e.shift = 128 * 2 ^ k := by rw [hk, Nat.pow_add]
  have hu := Nat.div_add_mod (u * 128) (2 ^ e.shift)
  have hv := Nat.div_add_mod (v * 128) (2 ^ e.shift)
  rw [h1.2] at hu
  rw [h2.2] at hv
  have hP : 2 ^ e.shift * e.page = 128 * (2 ^ k * e.page) := by rw [h2k, Nat.mul_assoc]
  have hF : pteFrame e.pte = 128 * ((e.pte.extractLsb' 16 36).toNat * 2 ^ 9) := by
    unfold pteFrame
    omega
  unfold lineIn at hl
  omega
/-- R376 to R378: a load of one node; a node of each kind that may run, and one that has run. -/
theorem test_meets_graph :
    (let e : QEntry := { kind := 4, tgt := 4095, group := 1, ref := 0x100 };
      let s := (sn {}).setQueue 0 5 { entries := [e] }
      queueHead s 0 5 = some e ∧ e.tgt + e.group ≤ 4096 ∧ s.msgs = [] ∧ Reaches s 0 { asid := 0 } .virt 0x100 64 .read
      ∧ (List.range 64).map (fun i => cellAt s 0 { asid := 0 } .virt (0x100 + i)) = node0 ∧ nodeOk node0 = true ∧ (s.node 0 4095).kind = 0)
    ∧ (∀ k ∈ [3, 4, 5], let x : Node := { kind := k, succ := [6], ready := true }
      (sn x).node 0 5 = x ∧ ((sn x).die 0).graphHalted = false ∧ (releases x 0).isSome = true ∧ (∀ o ∈ releases x 0, o.Nodup ∧ 5 ∉ o))
    ∧ (let x : Node := { kind := 1, ready := true, vaA := 0x80 };
      let s : State := { sn x with l2 := (sk w0 packet0).l2 }
      (s.queue 0 0).anyRoom = true ∧ (s.die 0).readyList.head? = some 5 ∧ Reaches s 0 { asid := 0 } .virt 0x80 256 .read
      ∧ (∀ v ∈ [1, 2], (homeLine s v 0).2 = false))
    ∧ (let s := sn { kind := 2, ready := true, vaA := 0x80, vaB := 0x190, len := 0x90 };
      Reaches s 0 { asid := 0 } .virt 0x80 0x90 .read ∧ Reaches s 0 { asid := 0 } .virt 0x190 0x90 .write ∧ Apart s 0 0 0x190 0x90)
    ∧ (let x : Node := { kind := 2, running := true, succ := [6] };
      (sn x).node 0 5 = x ∧ x.succ.Nodup ∧ 5 ∉ x.succ) := by
  refine ⟨⟨?_, ?_, ?_, reaches_of ?_ ?_, ?_⟩, ?_, ⟨?_, ?_, reaches_of ?_ ?_, ?_⟩, ⟨reaches_of ?_ ?_, reaches_of ?_ ?_, apart_of (e := { asid := 0, shift := 42, page := 0, pte := 0x7F }) rfl (by decide)⟩, ?_⟩
  all_goals decide +kernel
/-- R381: an entry of a queue and one of a phase list. -/
theorem test_meets_queue_error :
    (sq.queue 0 5).entries[0]? = some entry0 ∧ (sq.queue 0 5).shadow[0]? = some (entry0, false) ∧ ((sn { kind := 3 }).node 0 5).kind ≠ 0 ∧ ((State.reset.setDie 0 { phases := [{ tgt := 3 }] }).die 0).phases[0]? = some { tgt := 3 }
    ∧ 3 ∉ ((State.reset.setDie 0 { phases := [{ tgt := 3 }] }).die 0).phaseHalted := by decide +kernel

/-- R217: a group that may be saved, whose command runs; one whose save may end. -/
theorem test_meets_save :
    let w : Warp := { w0 with alloc := 1 }
    let s := (sk w packet0).setLaunch 1 { bytes := packet0 }
    let a := s.setCore 0 { cmds := [(0, cpy0)] }
    canSave a 0 = true ∧ areaFree a 0 0x1000 = true ∧ a.preempts = [] ∧ a.windows = [] ∧ coreOf 0 = 0 ∧ (∃ p ∈ (a.core 0).cmds, p.2.grp = 0 ∧ p.2.kind = .cpy ∧ p.2.held = false)
    ∧ (let b := s.setGroup 0 { s.group 0 with saving := true, saveAt := 0x1000, lsSize := 0 };
      saveWaits b 0 = false
      ∧ (match probeChunks (groupChunks b 0).1 0 0x1000 [((groupChunks b 0).2[0]?).getD (0, [])] with
        | .ok _ _ => true
        | .again _ => false) = true) := by decide +kernel
/-- A group whose save may end. -/
def sarea : State :=
  let s := sk { w0 with alloc := 1 } packet0
  (s.setLaunch 1 { bytes := packet0 }).setGroup 0 { s.group 0 with saving := true, saveAt := 0x1000, lsSize := 0 }
/-- R217, R220: the area of a group's record is reached at once, and every chunk lies in it. -/
theorem test_meets_save_area : sarea.msgs = [] ∧ (sarea.group 0).saveAt.toNat = 0x1000
    ∧ Reaches sarea 0 (sarea.group 0) .virt 0x1000 0x35000 .write ∧ Apart sarea 0 0 0x1000 0x35000 :=
  ⟨rfl, rfl, reaches_of (by decide) (by decide +kernel), apart_of (e := { asid := 0, shift := 42, page := 0, pte := 0x7F }) rfl (by decide)⟩
set_option maxRecDepth 10000 in
theorem test_meets_save_chunks : (groupChunks sarea 0).2.all (fun c => decide (c.1 + c.2.length ≤ 0x35000)) = true := by decide +kernel
/-- R217, R220: a kept group whose record can be read and that has a place. -/
def saved0 : Saved := { phase := false, grp := { launch := 1, warps := [0], sregs := 64 }, warps := [(0, w0)] }
/-- The record's only warp's part, at 0x33000, has one split. -/
def sres : State :=
  { sq with
    saved := [saved0], tlb := [(0, [{ asid := 0, shift := 42, page := 0, pte := 0x7F }])]
    phys := [(0x1021, 0x30), (0x1022, 3), (0x34004, 1)], tags := [(0x20, 0x55), (0x680, 0x55)] }.setQueue 0 5
    { entries := [{ kind := 3, launch := 1, originQ := 5, ref := 0x1000 }] }
theorem test_meets_restore :
    picked sres 0 = some ⟨false, 2, 0, 0, { kind := 3, launch := 1, originQ := 5, ref := 0x1000 }, ([0], 0)⟩ ∧ sres.resetting = none
    ∧ (sres.core 0).power = .on ∧ launchDead sres 1 = false ∧ savedFor sres { kind := 3, launch := 1, originQ := 5, ref := 0x1000 } = some saved0 := by decide +kernel
def restored0 : State × Bool := restoreGroup sres 0 0x1000 saved0 [0] 0
theorem test_meets_restored : (restored0.2 && SMap.has restored0.1.groups 0) = true := by decide +kernel
theorem test_meets_restore_area :
    let g := saved0.grp
    sres.msgs = [] ∧ saved0.late = [] ∧ saved0.cmds = [] ∧ [0].Nodup ∧ g.warps = [0] ∧ (wrecOrder g)[0]? = some 0
    ∧ 0x32000 + g.lsSize + poisonSize g.lsSize ≤ 0x54000 ∧ 0x33000 + 0x21000 ≤ 0x54000
    ∧ ((List.range 4).map (fun j => (cellAt sres 0 g .virt (0x1000 + 0x20 + j)).toNat * 256 ^ j)).sum = 0x33000 :=
  ⟨rfl, rfl, rfl, by decide, rfl, by decide, by decide, by decide, by decide +kernel⟩
theorem test_meets_restore_reach : Reaches sres 0 saved0.grp .virt 0x1000 0x54000 .read := reaches_of (by decide) (by decide +kernel)
theorem sound_of {s : State} {core asid a n : Nat}
    (h : (List.range ((a + n - 1) / 128 - a / 128 + 1)).all (fun i => match tlbFind s (core / 4) asid ((a / 128 + i) * 128) with
      | some e => !(homeLine s (lineIn e (a / 128 + i)) asid).2
      | none => true) = true) : Sound s core asid a n := by
  intro v e h1 h2 he
  have := List.all_eq_true.mp h (v - a / 128) (List.mem_range.mpr (by omega))
  rw [show a / 128 + (v - a / 128) = v by omega, he] at this
  simpa using this
theorem test_meets_restore_sound : Sound sres 0 saved0.grp.asid 0x1000 0x54000 := sound_of (by decide +kernel)
/-- R218: a warp as its record's fields hold it. -/
theorem test_meets_image :
    let w : Warp := { w2 with pend := List.replicate 8 { cause := .timer } }
    w.frontier.length ≤ 8 ∧ w.pend.length ≤ 8 ∧ (∀ x ∈ w.frontier, x.age < 2 ^ 32 ∧ x.yield < 2 ^ 8) ∧ w.trappc &&& trappcMask = w.trappc
    ∧ w.trapvec &&& trapvecMask = w.trapvec ∧ w.fpmode &&& fpmodeMask = w.fpmode ∧ 1 ≤ w.agelim ∧ w.agelim ≤ 65536 := by decide +kernel

/-- Whether a record may be used over n steps, and whether two agree. -/
def recordOkB (g : Group) (r : MRec) (tile wide : Bool) (n : Nat) : Bool :=
  decide (r.fmt < 12 ∧ r.space < 3 ∧ (r.fmt = 8 → r.pcode ≠ 1) ∧ (r.fmt ≠ 8 → r.pcode = 0))
    && decide (r.space = 2 → tile = true ∧ (r.fmt = 0 ∨ r.fmt = 9) ∧ r.packed = false ∧ r.scaled = false ∧ r.stride = 0 ∧ r.sofs = 0
      ∧ r.bstep = 0 ∧ r.sstep = 0 ∧ r.base < 4)
    && decide (r.space ≠ 2 → r.fmt ≠ 9 ∧ (10 ≤ r.fmt → wide = true) ∧ (r.space = 0 → r.base < 2 ^ 20)
      ∧ (r.scaled = true → 2 ≤ r.fmt ∧ r.fmt ≤ 8))
    && decide (r.space ≠ 2 → r.minor * r.width % 8 = 0 ∧ (r.block ≠ 0 → r.minor % r.block = 0)
      ∧ (r.packed = true → packedOk g r n = true) ∧ (r.packed = false → r.stride = 0 ∨ r.len ≤ r.stride))
    && (List.range n).all (fun st => (r.spans g st).all (fun x =>
      if r.space = 0 then decide (0 ≤ x.1 ∧ x.1 + x.2 ≤ (g.lsSize : Int)) else !vaultRefuses g.grant (x.1 % 2 ^ 80).toNat x.2))
theorem record_of {g : Group} {r : MRec} {tile wide : Bool} {n : Nat} (h : recordOkB g r tile wide n = true) : RecordOk g r tile wide n := by
  simp only [recordOkB, Bool.and_eq_true, decide_eq_true_eq, List.all_eq_true, List.mem_range] at h
  obtain ⟨⟨⟨⟨h1, h2⟩, h3⟩, h4⟩, h5⟩ := h
  refine ⟨h1, h2, h3, h4, fun st hst x hx => ?_⟩
  have := h5 st hst x hx
  split at this
  · rename_i h
    rw [if_pos h]
    simpa using this
  · rename_i h
    rw [if_neg h]
    simpa using this
/-- The warp of the matrix words: records of a plain operand, of the tile 3, and of an FP32 matrix. -/
def wm : Warp :=
  (((((w0.setD 1 (mrec 0 0 64 64 0x1E000)).setD 2 (mrec 2 0 64 64 3)).setD 3 (mrec 1 10 64 64 0)).setD 4 (mrec 1 1 16 256 0)).setD 5 (mrec 0 1 256 64 0)).setS 4 0x4040
/-- R390, R398: records that agree, inner lengths of a tile and of 256. -/
theorem test_meets_records :
    let s := sm wm
    let g := s.group 0
    let a := readRec (wm.d 1)
    let b := readRec (wm.d 2)
    RecordOk g a true false 2 ∧ RecordOk g b true false 2 ∧ PairOk a b ∧ RecordOk g (readRec (wm.d 3)) false true 1
    ∧ RecordOk g (readRec (wm.d 4)) true false 1 ∧ RecordOk g (readRec (wm.d 5)) true false 1 ∧ PairOk (readRec (wm.d 4)) (readRec (wm.d 5))
    ∧ a.cols ≠ (readRec (wm.d 5)).rows ∧ (∀ n ∈ [0, 1, 2, 3], ((s.core 0).tile n).owner = none) ∧ acquirePending (s.core 0) 0 = false := by
  refine ⟨record_of ?_, record_of ?_, ⟨?_, ?_, ?_, ?_⟩, record_of ?_, record_of ?_, record_of ?_, ⟨?_, ?_, ?_, ?_⟩, ?_, ?_, ?_⟩ <;> decide +kernel
/-- R390: records for each of a product's codes: too many rows, a long tile, a scaled left operand that is column-major. -/
theorem test_meets_shapes :
    let g := (sm wm).group 0
    let r (x : BitVec 128) : MRec := readRec x
    let tall := mrec 0 0 128 8 0
    let long := mrec 2 0 64 128 3
    let scaled := mrec 0 2 32 16 0 ||| (3#128 <<< 118 ^^^ 1#128 <<< 119) ||| 1#128 <<< 116 ||| (0x1000 : BitVec 128) <<< 24
    RecordOk g (r tall) true false 1 ∧ RecordOk g (r (mrec 0 0 8 4 0)) true false 1 ∧ (r tall).cols = 8 ∧ 64 < (r tall).rows
    ∧ RecordOk g (r long) true false 1 ∧ RecordOk g (r (mrec 0 0 128 4 0)) true false 1 ∧ (r long).cols = (r (mrec 0 0 128 4 0)).rows ∧ (r long).space = 2
    ∧ RecordOk g (r scaled) true false 1 ∧ RecordOk g (r (mrec 0 0 16 4 0)) true false 1 ∧ (r scaled).cols = 16 ∧ (r scaled).block ≠ 0 ∧ (r scaled).col = true := by
  refine ⟨record_of ?_, record_of ?_, ?_, ?_, record_of ?_, record_of ?_, ?_, ?_, record_of ?_, record_of ?_, ?_, ?_, ?_⟩ <;> decide +kernel
/-- R384, R397 to R411: each matrix word, with PXI 0 and with a progress of its own. -/
theorem test_meets_matrix_words :
    let s := sm wm
    (slotCtx s (rw4 0 0 0 0) sp0).act ≠ 0
    ∧ Issues shMdesc (rw4 15 0x102 0x103 0) false [] s sp0 ∧ Issues shMdescGet (rwm 0x104 15 0 0 2) false [] s sp0 ∧ Issues shMzero (rw4 3 0 0 0) false [] s sp0
    ∧ Issues shMma (rwm 0 1 2 0 1) false [] s sp0 ∧ Issues shMloop (rw4 0 1 2 0x1C2) false [] (sm { wm with pxi := 0x2000000000000001 }) sp0
    ∧ Resumes 0x2000000000000001 2 (fun p => p < 2)
    ∧ Issues shMpoly (rwm 1 0 0x1FF 0 0x1F) false [] s sp0 ∧ Resumes 0x300000000000000F 3 (fun p => p ≤ 15)
    ∧ Issues shMiter (rwm 0 0x104 1 0 0x305) false [] s sp0 ∧ Resumes 0x4000000000000C05 4 (fun p => p % 256 ≤ 5 ∧ p / 256 % 8 ≤ 4 ∧ p < 2 ^ 12)
    ∧ Issues shMldc (rw4 2 3 0 0) false [] s sp0 ∧ (let f := rwm 3 2 0 0 3; Issues (shMstc f) f false [] s sp0)
    ∧ (let f := rwm 3 2 15 0 3; Issues (shMmov f) f false [] s sp0) ∧ (let f := rwm 0x104 2 0x104 0 1; Issues (shMnrm f) f false [] s sp0)
    ∧ (let f := rwm 15 0x104 0 0 0; Issues (shMqldOne f) f false [] s sp0) ∧ Issues shMqldMem (rwm 0 0x104 0 0 1) false [] s sp0
    ∧ ((seen s sp0).uni 0x104).toNat + 64 ≤ (s.group 0).lsSize ∧ vaultRefuses (s.group 0).grant 0x4040 64 = false
    ∧ (∀ n ∈ [0, 4, 5], let f := rwm 0x104 3 0 0 (BitVec.ofNat 10 n); Issues (shMstat f) f false [] s sp0) := by
  refine ⟨?_, issues_of ?_, issues_of ?_, issues_of ?_, issues_of ?_, issues_of ?_, .inr ⟨1, ?_, ?_, ?_⟩, issues_of ?_, .inr ⟨15, ?_, ?_, ?_⟩, issues_of ?_,
    .inr ⟨0xC05, ?_, ?_, ?_⟩, issues_of ?_, issues_of ?_, issues_of ?_, issues_of ?_, issues_of ?_, issues_of ?_, ?_, ?_, ?_⟩
  case refine_26 =>
    intro n hn
    simp only [List.mem_cons, List.not_mem_nil, or_false] at hn
    rcases hn with rfl | rfl | rfl <;> exact issues_of (by decide +kernel)
  all_goals decide +kernel
/-- R394 to R412: the unit with one operation of each kind, its warp held. -/
def job (op : MatOp) : MatJob := { id := 0, op := op, warp := 0, grp := 0, pc := 0x10 }
def sj (op : MatOp) (pxi : Word) : State := (sm { w0 with block := .matrix, pxi := pxi }).setCore 0 { mq := [job op], tiles := [(0, { owner := some 0 })] }
theorem test_meets_matrix_ops :
    ∀ op ∈ [MatOp.mzero 0, .mma 0 (mrec 0 0 4 8 0) (mrec 1 0 8 4 0) true, .mldc 0 (mrec 1 10 64 64 0), .mmov 0 1 true none, .mstc (mrec 0 0 4 8 0) 0 0,
        .mnrm 4 0 64 64 1, .mqldOne 15 7, .mqld ⟨.ls, 0x40⟩, .mstat 4 0 4, .mstatQ 4 7],
      let s := sj op 0
      (s.core 0).mq.head? = some (job op) ∧ (s.core 0).saving = false ∧ (s.group (job op).grp).faulted = false ∧ matReady s 0 (job op) = true
      ∧ (s.warp 0).frontier[(s.warp 0).cur]? = some sp0 := by decide +kernel
/-- A loop at its first step, at its last, and past it; each sub-step of MITER. -/
theorem test_meets_mloop : ∀ n ∈ [0, 1, 2],
      let s := sj (.mloop 0 (mrec 0 0 4 8 0) (mrec 1 0 8 4 0) true 2) (0x2000000000000000 + BitVec.ofNat 64 n)
      matReady s 0 (job (.mloop 0 (mrec 0 0 4 8 0) (mrec 1 0 8 4 0) true 2)) = true ∧ (s.warp 0).pxi.toNat % 2 ^ 16 = n := by decide +kernel
theorem test_meets_mpoly : ∀ n ∈ [0, 2, 3],
    ((sj (.mpoly 0 1 64 2 true [1, 2, 3]) (0x3000000000000000 + BitVec.ofNat 64 n)).warp 0).pxi.toNat % 2 ^ 16 = n := by decide +kernel
theorem test_meets_miter : ∀ n ∈ [0, 1, 2, 3, 4],
    let x := ((sj (.miter 0 4 8 5 true true true [0, 0, 0, 0, 0] true) (0x4000000000000002 + BitVec.ofNat 64 (n * 256))).warp 0).pxi.toNat
    x % 2 ^ 16 / 256 % 8 = n ∧ x % 256 < 5 := by decide +kernel

/-- A descriptor of a region of 8 FP32 points at VA 0x4000 with its reference copy at 0x4000, its flash list in part 0 of a vault and room for 4
entries; its mould, at VA 0x100, is the constant 0. -/
def desc0 : List Byte := (List.range 64).map (fun i => if i = 0 then 1 else if i = 8 then 8 else if i = 0x11 ∨ i = 0x21 then 0x40
  else if i = 0x29 then 1 else if i = 0x37 then 0x80 else if i = 0x38 then 4 else 0)
def mould0 : List Byte := zeros 64
def region0 : Region :=
  { st := .live, asid := 0, ndim := 1, efmt := 0, eps := 0, dims := [8], base := 0x4000, refPa := 0x4000, flashVault := true, flash := 0, cap := 4
    mould := mould0 }
def sr (w : Warp) (l : List (Nat × Region)) : State := { sk w (desc0 ++ zeros 192) with regions := l }
theorem readable_of {s : State} {core : Nat} {g : Group} {va n : Nat} (ha : va + n ≤ 2 ^ 80)
    (h : decide (s.msgs = []) && !acquirePending (s.core core) s.issuer && reachesB s core g.asid (va / 128) ((va + n - 1) / 128) .read
      && (List.range ((va + n - 1) / 128 - va / 128 + 1)).all (fun i =>
        !heldLine s s.issuer g.asid (va / 128 + i)
          && (match tlbFind s (core / 4) g.asid ((va / 128 + i) * 128) with
            | some e => !(homeLine s (lineIn e (va / 128 + i)) g.asid).2 && !engineHolds s (lineIn e (va / 128 + i)) s.nextId
            | none => true)) = true) : Readable s core g va n := by
  simp only [Bool.and_eq_true, decide_eq_true_eq, Bool.not_eq_true', List.all_eq_true, List.mem_range] at h
  obtain ⟨⟨⟨h1, h2⟩, h3⟩, h4⟩ := h
  refine ⟨h1, h2, reaches_of ha h3, fun v e hv hw he => ?_, fun v hv hw => ?_⟩
  · have := (h4 (v - va / 128) (by omega)).2
    rw [show va / 128 + (v - va / 128) = v by omega, he] at this
    simp only [Bool.and_eq_true, Bool.not_eq_true'] at this
    exact this.1
  · have h := h4 (v - va / 128) (by omega)
    rw [show va / 128 + (v - va / 128) = v by omega] at h
    refine ⟨h.1, fun e he => ?_⟩
    have := h.2
    rw [he] at this
    simp only [Bool.and_eq_true, Bool.not_eq_true'] at this
    exact this.2

/-- R438 to R444: a descriptor and a mould that CREG takes; a region in each state. -/
theorem test_meets_creg :
    let f : RWord := ⟨0x109, false, false, 0x1C3, 0x144, 0, 0, 0⟩
    let s := sr (w0.setA 0 0x80) []
    (slotCtx s f sp0).act ≠ 0 ∧ Issues (shCreg f) f false [] s sp0 ∧ s.region 3 = none ∧ Readable s 0 (s.group 0) 0x80 64
    ∧ (List.range 64).map (fun i => cellAt s 0 (s.group 0) .virt (0x80 + i)) = desc0 ∧ readDescriptor desc0 (s.group 0) = some { region0 with st := .building, mould := [] }
    ∧ mouldHead 1 (zeros 16) = true ∧ mouldLength 1 (zeros 16) ≤ 64 ∧ Readable s 0 (s.group 0) 0x100 (mouldLength 1 (zeros 16)) := by
  refine ⟨?_, issues_of ?_, ?_, readable_of ?_ ?_, ?_, ?_, ?_, ?_, readable_of ?_ ?_⟩ <;> decide +kernel
theorem test_meets_cast_words :
    (∀ x ∈ [RegSt.building, .live, .recasting, .closing], let s := sr w0 [(3, { region0 with st := x })]
      s.region 3 = some { region0 with st := x } ∧ areaBusy s { region0 with st := x } = none ∧ acquirePending (s.core 0) 0 = false
      ∧ findGroup s 1 0 = some (0, s.group 0) ∧ 0 ∈ (s.group 0).warps ∧ releaseReady s 0 s.nextId 0 = true ∧ region0.bad = false)
    ∧ (let f := rwm 0x109 0x1C3 0 0 0; let s := sr w0 [(3, region0)]
      Issues (shCunreg f) f false [] s sp0 ∧ Issues (shCgen f) f false [] s sp0 ∧ Issues shCflash f false [] s sp0
      ∧ Issues (shRecastFit { f with m := 1 }) { f with m := 1 } false [] s sp0 ∧ Issues (shRecast { f with b := 0x144 }) { f with b := 0x144 } false [] s sp0
      ∧ Issues shCeval (rw4 4 0x1C3 6 0) false [] s sp0) := by
  refine ⟨?_, issues_of ?_, issues_of ?_, issues_of ?_, issues_of ?_, issues_of ?_, issues_of ?_⟩
  case refine_1 =>
    intro x hx
    simp only [List.mem_cons, List.not_mem_nil, or_false] at hx
    rcases hx with rfl | rfl | rfl | rfl <;> decide +kernel
  all_goals decide +kernel
/-- R427, R429: a load and a store of the region's points; its list is empty and sound. -/
def castStore0 : Store := { store0 with id := 0, va := 0x4000, line := 0x80, cast := some 3, bmask := 0xFF }
theorem test_meets_cast_access :
    let l : Load := { ld0 with addrs := [(0, 0x4004)], todo := [{ vline := 0x80, line := 0x80, region := some 3 }] }
    let s := (sr w0 [(3, region0)]).setCore 0 { loads := [l] }
    let t := (sr w0 [(3, region0)]).setCore 0 { stores := [castStore0] }
    (s.core 0).loads[0]? = some l ∧ s.region 3 = some region0 ∧ earlierOnLine s 0 0 (s.nameOf 0) 0 0x80 .virt = false ∧ engineHolds s 0x80 0 = false
    ∧ (s.core 0).stores = [] ∧ region0.recast = none ∧ (s.core 0).sidelog = [] ∧ strays s 0 (s.nameOf 0) 0 0x80 = [] ∧ s.windows = [] ∧ s.dir = []
    ∧ (t.core 0).stores[0]? = some castStore0 ∧ storeReady t castStore0 = true ∧ (t.core 0).sidelog = [] ∧ castStore0.va % 128 = 0
    ∧ (∀ j ∈ List.range 8, regionAt t 0 (0x4000 + j) = some (3, region0))
    ∧ (∀ k ∈ [0, 1], flashCount t region0 k = 0 ∧ ∀ slot ∈ List.range region0.slots, slotKey t region0 k slot = 0) := by decide +kernel
/-- R440: a close while a recast runs whose token another warp of the group awaits; R427, R431: a store that the list has no room for. -/
theorem test_meets_cast_closes :
    let rc : Recast := { prop := some mould0, tok := some { launch := 1, gid := 0, index := 1, token := 9, scope := 0 } }
    let r : Region := { region0 with st := .recasting, recast := some rc }
    let s := ((sr w0 [(3, r)]).setGroup 0 { launch := 1, warps := [0, 1], sregs := 64 }).setWarp 1 w0
    s.region 3 = some r ∧ areaBusy s r = none ∧ findGroup s 1 0 = some (0, s.group 0) ∧ (s.group 0).warps[1]? = some 1 ∧ SMap.has s.warps 1 = true
    ∧ (s.warp 0).block = .free ∧ s.issuer = 0 ∧ (0x88 : Nat) % 16 ≠ 0
    ∧ ¬ flashCount s region0 0 + (List.range region0.points).countP (fun i => decide (i < 8) && !(probe s region0 0 i).found) ≤ region0.cap
    ∧ (0x10 : BitVec 7).getLsbD 4 = true := by decide +kernel
theorem test_meets_cast_busy (w : Warp) (l : List (Nat × Region)) (i : Nat) : castBusy (sr w l) region0 i = none := rfl
/-- R432, R439, R440: a region whose engine works on it alone, whose pages are cast pages; points that the mould misses, none and one. -/
theorem test_meets_quiet : Quiet (sr w0 [(3, region0)]) region0 := by
  refine ⟨rfl, by decide, by decide, by decide, by decide, by decide, by decide, by decide +kernel, rfl, fun off h => ?_⟩
  have hl : (0x4000 + off) / 128 = 0x80 := by
    have : off < 32 := h
    omega
  rw [show region0.refPa + off = 0x4000 + off from rfl, hl]
  exact ⟨atHome_of (by decide +kernel), by decide +kernel⟩
theorem test_meets_build :
    let s : State := { sr w0 [(3, { region0 with st := .building, recast := some { prop := some mould0 } })] with
      phys := [(0, 1), (2, 0x11), (0x110000, 1), (0x110005, 8), (2 ^ 43, 0x7F), (2 ^ 43 + 1, 2)]
      l2 := [], tags := [(0, 0x55), (0x2200, 0x55), (2 ^ 36, 0x55)] }
    badPage s region0 = none ∧ badPage (sr w0 []) region0 = some 0x4000
    ∧ (List.range region0.points).countP (misses (sr w0 []) region0 mould0) = 0 ∧ region0.points = 8 := by decide +kernel
theorem test_meets_flip :
    let rc : Recast := { prop := some mould0, freeze := some [255] }
    let r : Region := { region0 with st := .recasting, recast := some rc }
    r.recast = some rc ∧ rc.freeze = some [255] ∧ 255 ∈ [255] ∧ r.flashVault = true
    ∧ closeWaits (sr w0 [(3, { region0 with st := .closing })]) 3 { region0 with st := .closing } = false
    ∧ tokReady (sr w0 []) { launch := 1, gid := 0, index := 0, token := 9, scope := 0 } = true := by decide +kernel

/-- R451: a message of each op that keeps to its ranges, at an end of each range; and one that does not. -/
def hm (op : Byte) (ix : BitVec 16) (args : Nat) (payload : List Byte) : HostMsg :=
  { agent := 8, op := op, die := 7, index := ix, tag := 5, recVa := 0x1000, mflags := 1, args := BitVec.ofNat 312 args, payload := payload }
theorem test_meets_messages :
    (∀ m ∈ [hm 1 255 0 packet0, hm 2 255 0 (zeros 64), hm 2 4095 2 node0, hm 3 0 0x1FFFFFF [], hm 4 0 (1 + 2 ^ 32) [], hm 5 0xFFF (0x8001000000000000) [],
        hm 6 255 0xFFFFFFFF mould0, hm 7 0 (4 + 2 * 2 ^ 32) [], hm 8 6 1 [], hm 9 255 (15 * 2 ^ 16) (zeros 1640), hm 9 255 (2 ^ 24) [], hm 10 0 0 (zeros 32),
        hm 11 0 (6 + 64 * 2 ^ 64) [], hm 12 0 0 []], msgOk m = true ∧ (m.recVa ≠ 0))
    ∧ (∀ m ∈ [hm 1 256 0 packet0, hm 8 7 0 [], hm 13 0 0 [], { hm 12 0 0 [] with mflags := 2 }], msgOk m = false) ∧ State.reset.boot ≠ .failed
    ∧ (sq.queue 7 255).room = true := by decide +kernel
/-- R451: an entry that is to be repaired, and a payload that rebuilds it; a node; a launch with one group that may be saved. -/
theorem test_meets_repair :
    readEntry ((zeros 64).set 0 1) { bad := true } = some { kind := 1 } ∧ readEntry (zeros 64) { bad := true } = none ∧ field node0 0 1 ≠ 0
    ∧ ((sn { kind := 3, bad := true }).node 0 5).bad = true ∧ SMap.rising ((sn { kind := 3, bad := true }).die 0).nodes = true
    ∧ (let s := (sk { w0 with alloc := 1 } packet0).setLaunch 1 { bytes := packet0 };
      groupsOf s 1 = [0] ∧ canSave s 0 = true ∧ areaFree s 0 (saveArea s 0) = true
      ∧ (let full := s.setQueue 0 0 { entries := List.replicate 64 {} ++ List.replicate 16 { reserve := true } };
        groupsOf full 1 = [0] ∧ canSave full 0 = false ∧ (full.group 0).faulted = false ∧ full.preempts = [])) := by decide +kernel
/-- R441, R451, R455, R459: requests that wait for an answer; a key slot that is free and one that is bound; an empty log. -/
theorem test_meets_host_answers :
    (let s : State := { sr w0 [(3, { region0 with st := .recasting, recast := some {} })] with moulds := [(9, 3)] };
      (9, 3) ∈ s.moulds ∧ mouldHead 1 mould0 = true ∧ mouldLength 1 mould0 ≤ mould0.length)
    ∧ (let r : FaultReq := { id := 4, asker := .warp 0, asid := 0, root := 0, va := 0x10000, need := 0, host := true };
      let s : State := { sv { w0 with block := .fault } with reqs := [r] };
      findReq s 4 = some r ∧ SMap.find s.warps 0 = some { w0 with block := .fault })
    ∧ SMap.has ([] : SMap (Nat × BitVec 512)) 255 = false ∧ SMap.has [(255, (1, (2 : BitVec 512)))] 255 = true
    ∧ (0 + 2 ^ 64 - 0) % 2 ^ 64 ≠ 2 ^ 6 := by decide +kernel
/-- R285, R457, R463: each kind of reset, a tick that is due, a bind record. -/
theorem test_meets_resets :
    msgOk { hm 0x0C 0 0 [] with recVa := 0 } = true ∧ ({ State.reset with sev3 := true } : State).sev3 = true
    ∧ (let s := State.reset.setCore 3 { stores := [store0] }; s.cores.all (fun k => k.2.stores.isEmpty) = false)
    ∧ State.reset.cores.all (fun k => k.2.stores.isEmpty) = true ∧ State.reset.resetting = none
    ∧ State.reset.arith / 256 < ((State.reset.setDie 7 { ticks := 1 }).die 7).ticks
    ∧ (({ State.reset with arith := 256 } : State).die 7).ticks < ({ State.reset with arith := 256 } : State).arith / 256
    ∧ State.reset.mode.getLsbD 0 = false ∧ (0x80010005FFFFFFFF : Word).extractLsb' 56 5 = 0 ∧ (0x80010005FFFFFFFF : Word).getLsbD 43 = false
    ∧ (0x80010005FFFFFFFF : Word).extractLsb' 48 8 ≠ 0 := by decide +kernel

/-- R252: a turn of a warp whose code page is mapped. -/
theorem test_meets_step :
    let s : State := { sk w0 (packet0.take 128 ++ zeros 128) with agenda := [{ act := .issue 0 }] }
    let u := tick { s with agenda := [] } { act := .issue 0 }
    s.lost = false ∧ s.resetting = none ∧ s.windows = [] ∧ (homeLine u 1 0).2 = false ∧ servedWarp u 0 = 0 ∧ warpRuns u 0 = true ∧ (dueEvent u 0).isNone = true ∧ issueIdx (u.warp 0) = some 0 ∧ (u.warp 0).frontier[0]? = some sp0 ∧ u.msgs = []
    ∧ tlbFind u 0 0 0x80 = some { asid := 0, shift := 42, page := 0, pte := 0x7F } ∧ pteAllows u 0 0x7F .execute 0x80 = true ∧ 0x80 % 128 ≤ 120
    ∧ atHomeB u 1 = true ∧ encode (.trapDelivery 0) = none := by decide +kernel
/-- R467: a warp of the partition that has been passed over too often and can issue. -/
theorem test_meets_served :
    let s := (sk w0 (packet0.take 128 ++ zeros 128)).setWarp 1 { w0 with since := Config.serveBound + 1 }
    1 ∈ (mates s 0).filter (warpRuns s) ∧ (s.warp 1).since ≠ 0 ∧ Config.serveBound ≤ (s.warp 1).since ∧ canTurn s 1 = true := by
  refine ⟨by decide +kernel, ?_, ?_, by decide +kernel⟩
  · exact Nat.succ_ne_zero _
  · exact Nat.le_succ _
/-- R252: a step runs the word that stands where the warp fetches: `sli s5, 0x1234`. -/
theorem test_step_runs :
    (match step (State.reset.withFetchWord 64 0x0508280000001234) with
      | .next t => (t.warp 0).s 5
      | _ => 0) = 0x1234 := by decide +kernel
/-- R88: a magnitude that is a tie, and one that overflows each format. -/
theorem test_meets_rounding : (0 : Nat) < 1 ∧ (∀ F ∈ [f16, bf16, f32, f64, a96],
    let q := roundAt rne false 1 20000 false (max (F.fullUlp 1 20000) F.low)
    q.1 ≠ 0 ∧ F.top < max (F.fullUlp 1 20000) F.low + (q.1.log2 : Int)) := by decide +kernel
/-- R121, R140: finite codes whose sum is no zero and is one; R83 to R85: a signalling NaN and a subnormal code of each format. -/
theorem test_meets_finite :
    f32.read 0x3F800000 = .fin false (2 ^ 23) (-23) ∧ f32.read 0xBF800000 = .fin true (2 ^ 23) (-23)
    ∧ ∀ F ∈ [f16, bf16, f32, f64],
        let top := (2 ^ F.eb - 1) * 2 ^ F.fb
        top + 1 < 2 ^ F.width ∧ top < (top + 1) % 2 ^ (F.eb + F.fb) ∧ (top + 1) % 2 ^ (F.eb + F.fb) < top + 2 ^ (F.fb - 1) ∧ flushed F 1 = 0
        ∧ flushed F (2 ^ F.fb) = 2 ^ F.fb := by decide +kernel
theorem test_meets_sums : numOf (f32.read 0x3F800000) + numOf (f32.read 0x3F800000) ≠ 0 ∧ numOf (f32.read 0x3F800000) + numOf (f32.read 0xBF800000) = 0 := by
  rw [test_meets_finite.1, test_meets_finite.2.1]
  norm_num [numOf]
/-- R63: a word that completes inside its chain, and at the end of it. -/
theorem test_meets_slot_end :
    let s := st w0
    (s.group w0.grp).faulted = false ∧ 0 ∈ (s.group w0.grp).warps ∧ w0.frontier[0]? = some sp0 ∧ sp0.mask ≠ 0 ∧ sp0.wait = .ready ∧ w0.kwrites = []
    ∧ w0.frontier.length = 1 ∧ s.warps.map Prod.fst = [0] := by decide +kernel
/-- No other warp waits at a barrier. -/
theorem test_meets_no_barrier : ∀ o, o ≠ 0 → ∀ b, arrivedAt ((st w0).warp o) b = none := by
  intro o h b
  have : (st w0).warp o = {} := by
    simp [st, State.warp, State.setWarp, SMap.look, SMap.set, State.setGroup, State.setLaunch, State.reset, Ne.symm h]
  rw [this]
  rfl
/-- R61: a word of class 4, and a pair. -/
theorem test_meets_compute : ((0x27FFFFFFFFFFFFFF : Word).extractLsb' 59 4).toNat ≤ 4 ∧ (0x8000000000000000 : Word).getLsbD 63 = true ∧ Memory.wf [] = true := by
  decide
/-- R67 to R81: words of both layouts and a pair are well-formed and have an encoding. -/
theorem test_meets_encode : ∀ i ∈ [Instr.sadd (rw4 0x103 0x103 0x104 0), .br ⟨0x1C1, false, false, 1, 7⟩, .pairWord ⟨⟨1, 0, 3, 7, 0, 0⟩, true, ⟨1, 2, 9, 0x90, 0, 0⟩⟩],
    i.wellFormed = true ∧ (encode i).isSome = true := by decide +kernel

/-! ### limgar: the checked example of the assembly chapter, its four edits, and the loader -/

open Sys2Proof.Limgar (assemble Report Diag Result Object LoadEnv load)

/-- A text's bytes. -/
def bytesOf (s : String) : List Nat := s.toList.map Char.toNat
/-- A text assembled alone. -/
def limgar (s : String) : Result := assemble [(bytesOf "m", bytesOf s)] (bytesOf "m") []
/-- What limgar reports of a text. -/
def diags (s : String) : List Diag := (limgar s).reports.map Report.diag

/-- The code of the checked example (R19 to R52), with four of its lines as they are given. -/
def exampleCode (l10 l11 l13 l14 : String) : String :=
  " .code\n .block 2\nstart:  vmov  v4, 3\n vmov  v5, 5\n vmov  v7, 1\n"
    ++ l10 ++ "\n" ++ l11 ++ "\n vadd  v8, y0, y1\n" ++ l13 ++ "\n" ++ l14 ++ "\n exit.dv\n"
/-- The rest of it. -/
def exampleRest : String :=
  " .data\nbias: .f32  0.5, -0.25 ; L02\n .vault 0\nrow0:   .fill 64, 2, 0x3F80\n .code\n .block 2\nstart: exit.dv\n"
    ++ " .launch ex\n entry start\n grant 1\n .endlaunch\n"
def exL10 : String := " vmul  _, v4, v5 &"
def exL11 : String := " vadd  v6, y0, v7 &"
def exL13 : String := " vadd  v2, v7 || vadd v4, v9"
def exL14 : String := " vadd  v3, v7 |> vmul v9, y0"

/-- The example assembles. Its pair words stand in the chapter on encodings; the others are laid out by R54 and R58. -/
theorem test_limgar_code : ((limgar (exampleCode exL10 exL11 exL13 exL14)).object.map Object.code)
    = some [0x092021C300000000, 0x092029C500000000, 0x092039C100000000, 0x0820060402800000, 0x0800334003800000, 0x08004140A0800000,
        0x900081C010010240, 0x9000C1C090826400, 0x2080000000000004] := by decide +kernel
/-- Its data: 0.5 and −0.25 in FP32; 64 BF16 ones in slot 0; and the head of its launch table entry (R349). -/
theorem test_limgar_data : ((limgar exampleRest).object.map (fun o => o.images.map (fun i => (i.sec, i.bytes.take 8, i.bytes.length))))
      = some [(.data, [0x00, 0x00, 0x00, 0x3F, 0x00, 0x00, 0x80, 0xBE], 8), (.vault 0, [0x80, 0x3F, 0x80, 0x3F, 0x80, 0x3F, 0x80, 0x3F], 128),
        (.code, [4, 0, 0, 0, 0, 0, 0x80, 0x20], 8)]
    ∧ ((limgar exampleRest).object.map (fun o => o.launches.map (fun x => (x.1, x.2.take 12, x.2.length))))
      = some [("ex", [0, 0, 0, 0, 2, 1, 128, 1, 1, 0, 0, 0], 256)] := by decide +kernel
/-- The four edits of the example, with the diagnostics of its table. -/
theorem test_limgar_chain_write : diags (exampleCode exL10 " vadd v4, y0, v7 &" exL13 exL14) = [.chainWrite] := by decide +kernel
theorem test_limgar_unchained : diags (exampleCode " vmul _, v4, v5" exL11 exL13 exL14) = [.wUnchained, .latchPos, .latchPos] := by decide +kernel
theorem test_limgar_bank : diags (exampleCode exL10 exL11 " vadd v1, v2 || vmul v5, v6" exL14) = [.bankClash] := by decide +kernel
theorem test_limgar_latch : diags (exampleCode exL10 exL11 exL13 " vadd  v3, v7 || vmul v9, y0") = [.latchPos] := by decide +kernel
/-- R30 and R31: the order of the operators, and what limgar refuses. -/
theorem test_limgar_expr : ((limgar ".data\n.d8 1 << 2 + 1, 7 % -3, -7 / 2, !1 == 0, 6 | 1 ^ 3 & 2\n").object.map (fun o => o.images.map Limgar.Image.bytes))
      = some [[8, 1, 0xFD, 1, 7]]
    ∧ diags ".data\n.d8 1 / 0\n.d8 256\n.d8 x\n.d8 1 1\n" = [.syntaxError, .expr, .range, .undefined] := by decide +kernel
/-- R27 and R33: an included file; a relocation of an imm32, resolved as the loader places the data; a file that is not there. -/
theorem test_limgar_load :
    (assemble [(bytesOf "m", bytesOf ".include \"d\"\n.code\n sli s1, lo(x + 4)\n"), (bytesOf "d", bytesOf ".data\n.d32 7\nx: .d32 9\n")] (bytesOf "m") []).object.bind
        (fun o => (load o ⟨0x10000, 0, 0, 0, []⟩).map (fun l => (l.filter (fun x => x.1 == .code)).map (fun x => wordOfBytes x.2)))
      = some [0x0508080000010008]
    ∧ diags ".include \"d\"\n" = [.incl] := by decide +kernel

end Sys2Proof.Tests
end

section
/-! SUPPORT. The results of class 0: what a word that issues leaves of its slot when its effect is a scalar, an address, a
mask or a float result (R111, R112, R120). -/

namespace Sys2Proof.Machine

/-- Flags that are clear leave FPMODE. -/
@[simp] theorem Warp.flag_zero (w : Warp) : w.flag 0#8 = w := by
  simp [Warp.flag]

/-- What a form lists of its fields holds of a word that its static check passes (R58). -/
theorem Shape.legal_of_check {sh : Shape} {f : RWord} (h : sh.check f = none) : sh.legal = true := by
  unfold Shape.check at h
  split at h
  · cases h
  · split at h
    · cases h
    · simp_all

end Sys2Proof.Machine

namespace Sys2Proof

open Machine Claims

/-! ### The slot of a word that issues -/

@[simp] theorem slotCtx_wp (s : State) (f : RWord) (sp : Split) : (slotCtx s f sp).wp = s.issuer := rfl
@[simp] theorem slotCtx_sp (s : State) (f : RWord) (sp : Split) : (slotCtx s f sp).sp = sp := rfl

/-- A plain form that issues does its effect on the warp that its word sees, and its slot ends. -/
theorem issueR_of_issues {sh : Shape} {f : RWord} {body : State → Ctx → Eff} {s : State} {sp : Split}
    (h : Issues sh f sh.readsD [] s sp) :
    issueR sh f body s =
      .next (conclude s (slotCtx s f sp) f.h false sh.ctl (body (s.setWarp s.issuer (seen s sp)) (slotCtx s f sp))) :=
  congrArg _ (issueWord_of_issues h rfl)

theorem scalarDone_eq_onWarp (s : State) (c : Ctx) (f : RWord) (x : Word) :
    scalarDone s c f.dst f.w x = onWarp s c (fun w => (wroteS w f x, some (.uniform x))) := rfl
theorem addrDone_eq_onWarp (s : State) (c : Ctx) (f : RWord) (x : Addr) :
    addrDone s c f.dst f.w x = onWarp s c (fun w => (wroteA w f x, some (.uniform (x.setWidth 64)))) := rfl
theorem maskDone_eq_onWarp (s : State) (c : Ctx) (f : RWord) (m : Mask) :
    maskDone s c f.dst f.w m = onWarp s c (fun w => (wroteK w f m, some (.mask m))) := rfl

section
variable {i : Instr} {sh : Shape} {f : RWord} {body : State → Ctx → Eff} {s : State} {sp : Split}
  (hi : exec i s = issueR sh f body s) (h : Issues sh f sh.readsD [] s sp) (hc : sh.ctl = false)
include hi h hc

/-- A word whose effect is one change of its warp completes with it (R112). -/
theorem exec_of_onWarp {g : Warp → Warp × Option Latch}
    (hb : body (s.setWarp s.issuer (seen s sp)) (slotCtx s f sp)
      = onWarp (s.setWarp s.issuer (seen s sp)) (slotCtx s f sp) g) :
    exec i s = .next (ended s f sp false (g (seen s sp)).1 (g (seen s sp)).2) := by
  rw [hi, issueR_of_issues h, hb, hc]
  simp [onWarp, ended]

theorem givesS_of_scalarDone {x : Word}
    (hb : body (s.setWarp s.issuer (seen s sp)) (slotCtx s f sp)
      = scalarDone (s.setWarp s.issuer (seen s sp)) (slotCtx s f sp) f.dst f.w x) :
    GivesS i f s sp x := by
  rw [scalarDone_eq_onWarp] at hb
  rw [GivesS, exec_of_onWarp hi h hc hb]

theorem givesA_of_addrDone {x : Addr}
    (hb : body (s.setWarp s.issuer (seen s sp)) (slotCtx s f sp)
      = addrDone (s.setWarp s.issuer (seen s sp)) (slotCtx s f sp) f.dst f.w x) :
    GivesA i f s sp x := by
  rw [addrDone_eq_onWarp] at hb
  rw [GivesA, exec_of_onWarp hi h hc hb]

theorem givesK_of_maskDone {m : Mask}
    (hb : body (s.setWarp s.issuer (seen s sp)) (slotCtx s f sp)
      = maskDone (s.setWarp s.issuer (seen s sp)) (slotCtx s f sp) f.dst f.w m) :
    GivesK i f s sp m := by
  rw [maskDone_eq_onWarp] at hb
  rw [GivesK, exec_of_onWarp hi h hc hb]

end

end Sys2Proof
end

section
/-! SUPPORT. The integer types of the model and of the claims (R56, R115), and the draws of `.rs` (R90). -/

namespace Sys2Proof.Machine

open Claims

/-! ### Integer types -/

@[simp] theorem typeBits_eq_bits (t : Nat) : typeBits t = bits t := by
  match t with
  | 0 | 1 | 2 | 3 | 4 | 5 | 6 | 7 => rfl
  | _ + 8 => rfl

@[simp] theorem typeSigned_eq_signed (t : Nat) : typeSigned t = signed t := rfl

theorem bits_pos (t : Nat) : 0 < bits t := by
  match t with
  | 0 | 1 | 2 | 3 | 4 | 5 | 6 | 7 => decide
  | _ + 8 => exact Nat.zero_lt_succ 63

/-- The n-bit code of an integer, read as signed, is the integer's balanced remainder modulo 2^n. -/
theorem toSigned_wrapTo {n : Nat} (hn : 0 < n) (z : Int) : toSigned n (wrapTo n z) = z.bmod (2 ^ n) := by
  obtain ⟨k, rfl⟩ : ∃ k, n = k + 1 := ⟨n - 1, by omega⟩
  have hz : 0 ≤ z % (2 ^ (k + 1) : Int) := Int.emod_nonneg _ (by positivity)
  have hhalf : ((2 ^ (k + 1) : Nat) + 1 : Int) / 2 = 2 ^ k := by push_cast; omega
  rw [Int.bmod_def, hhalf]
  simp only [toSigned, wrapTo, add_tsub_cancel_right]
  push_cast
  split <;> split <;> omega

/-- The low n bits of a word are the code of the number that it is. -/
theorem lowBits_eq_wrapTo (n : Nat) (x : Word) : lowBits n x = wrapTo n x.toNat := by
  simp only [lowBits, wrapTo]
  norm_cast

/-- The integer that a type reads in the code of an integer. -/
theorem typeVal_wrapTo (t : Nat) (z : Int) :
    typeVal t (wrapTo (bits t) z) = if signed t then z.bmod (2 ^ bits t) else z % 2 ^ bits t := by
  unfold typeVal
  rw [typeSigned_eq_signed, typeBits_eq_bits, toSigned_wrapTo (bits_pos t), wrapTo,
    Int.toNat_of_nonneg (Int.emod_nonneg _ (by positivity))]

/-- A source is read as its type's integer (R115). -/
@[simp] theorem typeVal_lowBits (t : Nat) (x : Word) : typeVal t (lowBits (bits t) x) = val t x := by
  rw [lowBits_eq_wrapTo, typeVal_wrapTo]
  simp [val, low]

theorem ofNat_wrapTo (n : Nat) (z : Int) : BitVec.ofNat n (wrapTo n z) = BitVec.ofInt n z := by
  have hlt : z % ((2 ^ n : Nat) : Int) < (2 ^ n : Nat) := Int.emod_lt_of_pos _ (by positivity)
  have hz : 0 ≤ z % ((2 ^ n : Nat) : Int) := Int.emod_nonneg _ (by positivity)
  have hw : wrapTo n z = (z % ((2 ^ n : Nat) : Int)).toNat := by simp [wrapTo]
  apply BitVec.eq_of_toNat_eq
  rw [BitVec.toNat_ofNat, BitVec.toNat_ofInt, hw, Nat.mod_eq_of_lt ((Int.toNat_lt hz).mpr hlt)]

/-- A result's code is extended to the word that its type gives the integer (R115). -/
@[simp] theorem extS_wrapTo (t : Nat) (z : Int) : extS t (wrapTo (bits t) z) = put t z := by
  rw [extS, ext, typeVal_wrapTo, ofNat_wrapTo, put]

/-! ### Draws -/

/-- The n-th draw of a lane is n + 1 states after its present one (R90). -/
theorem drawOf_eq_iterate (w : Warp) (t n : Nat) : drawOf w t n = (nextGen^[n + 1] (w.genOf t)).toNat := by
  rw [drawOf, List.foldl_const, List.length_range]

theorem rndOf_eq_roundOf (w : Warp) (mode t n : Nat) : rndOf w mode t n = roundOf w mode t n := by
  rw [rndOf, roundOf, drawOf_eq_iterate]

/-- A scalar float result draws once, of lane 128, and in `.rs` alone (R120). -/
theorem Warp.genOf_drawn_scalar (w : Warp) (mode t : Nat) :
    (w.drawn mode [128] 1).genOf t = if mode = 4 ∧ t = 128 then nextGen (w.genOf 128) else w.genOf t := by
  by_cases hm : mode = 4
  · by_cases ht : t = 128
    · simp [Warp.drawn, Warp.genOf, hm, ht, drawOf_eq_iterate]
    · simp [Warp.drawn, Warp.genOf, hm, ht]
  · simp [Warp.drawn, hm]

theorem Warp.drawn_fpmode (w : Warp) (mode : Nat) (lanes : List Nat) (n : Nat) : (w.drawn mode lanes n).fpmode = w.fpmode := by
  unfold Warp.drawn
  split <;> rfl

end Sys2Proof.Machine
end

section
/-! SUPPORT. The codes of the wide float formats, and their comparison over the rational numbers (R85, R122). -/

namespace Sys2Proof.Machine

open Claims

/-! ### Codes (R83, R85) -/

/-- A format with infinities and NaNs, whose exponent has bits. -/
structure Fmt.Wide (F : Fmt) : Prop where
  special : F.special = true
  expBits : 0 < F.eb

theorem ftypeS_wide (c : Nat) : (ftypeS c).Wide := by
  unfold ftypeS
  split <;> exact ⟨rfl, by decide⟩

/-- A code without its sign is its exponent field and its fraction field. -/
theorem Fmt.mod_sign_eq_fields (F : Fmt) (x : Nat) :
    x % 2 ^ (F.eb + F.fb) = x / 2 ^ F.fb % 2 ^ F.eb * 2 ^ F.fb + x % 2 ^ F.fb := by
  rw [add_comm F.eb, pow_add, Nat.mod_mul]
  ring

/-- The exponent field is 0 in the codes below the least normal one. -/
theorem Fmt.mod_sign_lt_iff (F : Fmt) (x : Nat) : x % 2 ^ (F.eb + F.fb) < 2 ^ F.fb ↔ x / 2 ^ F.fb % 2 ^ F.eb = 0 := by
  have hfr : x % 2 ^ F.fb < 2 ^ F.fb := Nat.mod_lt _ (by positivity)
  rw [F.mod_sign_eq_fields]
  constructor
  · intro h
    by_contra hne
    have := Nat.le_mul_of_pos_left (2 ^ F.fb) (Nat.pos_of_ne_zero hne)
    omega
  · intro h
    simpa [h] using hfr

/-- A subnormal code or a zero is read with its fraction alone. -/
theorem Fmt.read_of_subnormal {F : Fmt} (hF : F.Wide) {x : Nat} (h : x % 2 ^ (F.eb + F.fb) < 2 ^ F.fb) :
    F.read x = .fin (x / 2 ^ (F.eb + F.fb) % 2 == 1) (x % 2 ^ F.fb) F.low := by
  have hex := (F.mod_sign_lt_iff x).mp h
  have htop : 0 ≠ 2 ^ F.eb - 1 := by
    have := Nat.one_lt_two_pow hF.expBits.ne'
    omega
  simp [Fmt.read, hex, htop]

/-- A finite value of any other code is at least the least normal number. -/
theorem Fmt.le_of_read_fin {F : Fmt} {x : Nat} (h : ¬ x % 2 ^ (F.eb + F.fb) < 2 ^ F.fb) {neg : Bool} {m : Nat} {e : Int}
    (hr : F.read x = .fin neg m e) : 2 ^ F.fb ≤ m := by
  rw [F.mod_sign_lt_iff] at h
  simp only [Fmt.read] at hr
  split at hr
  · split at hr <;> cases hr
  · split at hr
    · simp_all
    · cases hr
      omega

/-- Reading a code under FPMODE.ftz reads its flushed code (R85). -/
theorem Fmt.readZ_eq_read_flushed {F : Fmt} (hF : F.Wide) (ftz : Bool) (x : Nat) :
    F.readZ ftz x = F.read (if ftz then flushed F x else x) := by
  cases ftz with
  | false => cases h : F.read x <;> simp [Fmt.readZ, h]
  | true =>
    by_cases h : x % 2 ^ (F.eb + F.fb) < 2 ^ F.fb
    · have hflush : flushed F x = x / 2 ^ (F.eb + F.fb) * 2 ^ (F.eb + F.fb) := by simp [flushed, h]
      have hfrac : 2 ^ F.fb ∣ x / 2 ^ (F.eb + F.fb) * 2 ^ (F.eb + F.fb) :=
        Dvd.dvd.mul_left (pow_dvd_pow 2 (Nat.le_add_left _ _)) _
      have hm : x % 2 ^ F.fb < 2 ^ F.fb := Nat.mod_lt _ (by positivity)
      rw [if_pos rfl, hflush, F.read_of_subnormal hF (by simp)]
      simp [Fmt.readZ, F.read_of_subnormal hF h, hm, Nat.mod_eq_zero_of_dvd hfrac]
    · have hflush : flushed F x = x := by simp [flushed, h]
      rw [if_pos rfl, hflush]
      cases hr : F.read x with
      | fin neg m e => simp [Fmt.readZ, hr, F.le_of_read_fin h hr]
      | inf neg => simp [Fmt.readZ, hr]
      | nan neg quiet frac fb => simp [Fmt.readZ, hr]

/-- A code above the infinity has the top exponent and a fraction that is not 0. -/
theorem Fmt.infinity_lt_iff (F : Fmt) (x : Nat) :
    (2 ^ F.eb - 1) * 2 ^ F.fb < x % 2 ^ (F.eb + F.fb) ↔ x / 2 ^ F.fb % 2 ^ F.eb = 2 ^ F.eb - 1 ∧ x % 2 ^ F.fb ≠ 0 := by
  have hex : x / 2 ^ F.fb % 2 ^ F.eb < 2 ^ F.eb := Nat.mod_lt _ (by positivity)
  have hfr : x % 2 ^ F.fb < 2 ^ F.fb := Nat.mod_lt _ (by positivity)
  rw [F.mod_sign_eq_fields]
  by_cases h : x / 2 ^ F.fb % 2 ^ F.eb = 2 ^ F.eb - 1
  · rw [h]
    omega
  · have hle := Nat.mul_le_mul_right (2 ^ F.fb) (by omega : x / 2 ^ F.fb % 2 ^ F.eb + 1 ≤ 2 ^ F.eb - 1)
    rw [add_mul] at hle
    omega

/-- The codes above the infinity are the NaNs (R83). -/
theorem Fmt.isNan_read {F : Fmt} (hF : F.Wide) (x : Nat) :
    (F.read x).isNan = decide ((2 ^ F.eb - 1) * 2 ^ F.fb < x % 2 ^ (F.eb + F.fb)) := by
  simp only [F.infinity_lt_iff, Fmt.read, hF.special]
  by_cases hex : x / 2 ^ F.fb % 2 ^ F.eb = 2 ^ F.eb - 1
  · by_cases hfr : x % 2 ^ F.fb = 0 <;> simp [hex, hfr, FV.isNan]
  · by_cases h0 : x / 2 ^ F.fb % 2 ^ F.eb = 0 <;> simp_all [FV.isNan]

/-- The signalling NaNs are those with the high bit of the fraction clear (R83). -/
theorem Fmt.isSnan_read {F : Fmt} (hF : F.Wide) (x : Nat) :
    (F.read x).isSnan = (decide ((2 ^ F.eb - 1) * 2 ^ F.fb < x % 2 ^ (F.eb + F.fb))
      && decide (x % 2 ^ (F.eb + F.fb) < (2 ^ F.eb - 1) * 2 ^ F.fb + 2 ^ (F.fb - 1))) := by
  simp only [F.infinity_lt_iff, Fmt.read, hF.special]
  by_cases hex : x / 2 ^ F.fb % 2 ^ F.eb = 2 ^ F.eb - 1
  · by_cases hfr : x % 2 ^ F.fb = 0 <;> simp [hex, hfr, F.mod_sign_eq_fields, FV.isSnan, ← decide_not]
  · by_cases h0 : x / 2 ^ F.fb % 2 ^ F.eb = 0 <;> simp_all [FV.isSnan]

/-! ### Order and equality (R122) -/

/-- The exact difference of two finite values, as a multiple of the lesser last place. -/
def finDiff (n1 : Bool) (m1 : Nat) (e1 : Int) (n2 : Bool) (m2 : Nat) (e2 : Int) : Int :=
  (if n1 then -1 else 1) * ((m1 * 2 ^ (e1 - min e1 e2).toNat : Nat) : Int)
    - (if n2 then -1 else 1) * ((m2 * 2 ^ (e2 - min e1 e2).toNat : Nat) : Int)

theorem exactSum_not (n1 : Bool) (m1 : Nat) (e1 : Int) (n2 : Bool) (m2 : Nat) (e2 : Int) :
    exactSum n1 m1 e1 (!n2) m2 e2 =
      (decide (finDiff n1 m1 e1 n2 m2 e2 < 0), (finDiff n1 m1 e1 n2 m2 e2).natAbs, min e1 e2) := by
  have h : finDiff n1 m1 e1 n2 m2 e2 = (if n1 then -1 else 1) * ((m1 * 2 ^ (e1 - min e1 e2).toNat : Nat) : Int)
      + (if !n2 then -1 else 1) * ((m2 * 2 ^ (e2 - min e1 e2).toNat : Nat) : Int) := by
    cases n2 <;> simp [finDiff, sub_eq_add_neg]
  rw [h]
  rfl

theorem pow_toNat_mul_zpow {e d : Int} (h : d ≤ e) : (2 : ℚ) ^ (e - d).toNat * 2 ^ d = 2 ^ e := by
  rw [← zpow_natCast, Int.toNat_of_nonneg (by omega), ← zpow_add₀ two_ne_zero, sub_add_cancel]

theorem finDiff_mul_zpow (n1 : Bool) (m1 : Nat) (e1 : Int) (n2 : Bool) (m2 : Nat) (e2 : Int) :
    (finDiff n1 m1 e1 n2 m2 e2 : ℚ) * 2 ^ min e1 e2 = numOf (.fin n1 m1 e1) - numOf (.fin n2 m2 e2) := by
  simp only [numOf, ← pow_toNat_mul_zpow (min_le_left e1 e2), ← pow_toNat_mul_zpow (min_le_right e1 e2), finDiff]
  push_cast
  ring

/-- The order of finite values is the sign of their exact difference. -/
theorem finDiff_neg_iff (n1 : Bool) (m1 : Nat) (e1 : Int) (n2 : Bool) (m2 : Nat) (e2 : Int) :
    finDiff n1 m1 e1 n2 m2 e2 < 0 ↔ numOf (.fin n1 m1 e1) < numOf (.fin n2 m2 e2) := by
  rw [← sub_neg (a := numOf _), ← finDiff_mul_zpow, ← Int.cast_lt_zero (R := ℚ), mul_neg_iff]
  have : (0 : ℚ) < 2 ^ min e1 e2 := by positivity
  simp [this, this.not_gt]

theorem finDiff_eq_zero_iff (n1 : Bool) (m1 : Nat) (e1 : Int) (n2 : Bool) (m2 : Nat) (e2 : Int) :
    finDiff n1 m1 e1 n2 m2 e2 = 0 ↔ numOf (.fin n1 m1 e1) = numOf (.fin n2 m2 e2) := by
  rw [← sub_eq_zero (a := numOf _), ← finDiff_mul_zpow, mul_eq_zero_iff_right (by positivity), Int.cast_eq_zero]

theorem FV.lt_iff_less {x y : FV} (hx : x.isNan = false) (hy : y.isNan = false) : x.lt y = true ↔ FVless x y := by
  cases x with
  | nan => cases hx
  | inf n1 =>
    cases y with
    | nan => cases hy
    | inf n2 => cases n1 <;> cases n2 <;> simp [FV.lt, FVless, sideOf, numOf]
    | fin n2 m2 e2 => cases n1 <;> simp [FV.lt, FVless, sideOf]
  | fin n1 m1 e1 =>
    cases y with
    | nan => cases hy
    | inf n2 => cases n2 <;> simp [FV.lt, FVless, sideOf]
    | fin n2 m2 e2 => simp [FV.lt, FVless, sideOf, exactSum_not, finDiff_neg_iff]

theorem FV.same_iff_equal {x y : FV} (hx : x.isNan = false) (hy : y.isNan = false) : x.same y = true ↔ FVequal x y := by
  cases x with
  | nan => cases hx
  | inf n1 =>
    cases y with
    | nan => cases hy
    | inf n2 => cases n1 <;> cases n2 <;> simp [FV.same, FVequal, sideOf, numOf]
    | fin n2 m2 e2 => cases n1 <;> simp [FV.same, FVequal, sideOf]
  | fin n1 m1 e1 =>
    cases y with
    | nan => cases hy
    | inf n2 => cases n2 <;> simp [FV.same, FVequal, sideOf]
    | fin n2 m2 e2 => simp [FV.same, FVequal, sideOf, exactSum_not, finDiff_eq_zero_iff]

/-- A comparison gives the row of R122's table that its condition names, on the flushed codes of its operands. -/
theorem Fmt.compare_table {F : Fmt} (hF : F.Wide) (ftz : Bool) (cond a b : Nat) :
    FcmpTable F cond (if ftz then flushed F a else a) (if ftz then flushed F b else b)
      (F.compare ftz cond a b).1 (F.compare ftz cond a b).2 := by
  simp only [FcmpTable, Fmt.compare, Fmt.readZ_eq_read_flushed hF, ← Fmt.isSnan_read hF]
  simp only [← Fmt.isNan_read hF]
  generalize F.read (if ftz then flushed F a else a) = x
  generalize F.read (if ftz then flushed F b else b) = y
  have hflags : (decide (2 ≤ cond) && decide (cond ≤ 5) && (x.isNan || y.isNan) || (x.isSnan || y.isSnan))
      = (x.isSnan || y.isSnan || ((x.isNan || y.isNan) && decide (2 ≤ cond) && decide (cond ≤ 5))) := by
    rw [Bool.or_comm, Bool.and_comm, Bool.and_assoc]
  refine ⟨by rw [hflags]; rfl, ?_⟩
  cases hun : x.isNan || y.isNan with
  | true => refine ⟨?_, ?_, ?_, ?_, ?_, ?_, ?_, ?_⟩ <;> (rintro rfl; simp)
  | false =>
    obtain ⟨hx, hy⟩ := Bool.or_eq_false_iff.mp hun
    refine ⟨?_, ?_, ?_, ?_, ?_, ?_, ?_, ?_⟩ <;>
      (rintro rfl; simp [FV.lt_iff_less hx hy, FV.lt_iff_less hy hx, ← FV.same_iff_equal hx hy])

end Sys2Proof.Machine
end

section
/-! SUPPORT. The values of the address forms and of the mask forms (R124, R127). -/

namespace Sys2Proof.Machine

open Claims

/-- The condition codes that integers and addresses take are those of R114. -/
theorem boolWord_intCond {c : Nat} (h : c ≤ 5) (x y : Int) : boolWord (intCond c x y) = flag (holds c x y) := by
  interval_cases c <;> rfl

/-- Bit 0 of mod as a field of its own. -/
theorem RWord.mod_zero_eq_zero (f : RWord) : f.mod 0 0 = 0 ↔ f.m.getLsbD 0 = false := by
  simp [RWord.mod, BitVec.getLsbD, Nat.testBit_zero]

/-- The bits that the modifier `.lo` or `.hi` picks. -/
theorem ite_mod_zero {α : Type} (f : RWord) (lo hi : α) :
    (if f.m.getLsbD 0 then hi else lo) = if f.mod 0 0 = 0 then lo else hi := by
  simp only [RWord.mod_zero_eq_zero]
  cases f.m.getLsbD 0 <;> rfl

/-! ### Addresses -/

/-- A sum with a sign-extended operand is the integer sum modulo 2^n. -/
theorem add_signExtend_eq_ofInt {n k : Nat} (x : BitVec n) (y : BitVec k) :
    x + y.signExtend n = BitVec.ofInt n (x.toNat + y.toInt) := by
  rw [BitVec.ofInt_add, BitVec.ofInt_natCast, BitVec.ofNat_toNat, BitVec.setWidth_eq, BitVec.signExtend]

/-- Two words joined to an address: the upper one gives its low 16 bits. -/
theorem joined_eq_ofNat (x y : Word) :
    (y.setWidth 80 <<< 64 ||| x.setWidth 80 : Addr) = BitVec.ofNat 80 (y.toNat % 2 ^ 16 * 2 ^ 64 + x.toNat) := by
  have hx := x.isLt
  apply BitVec.eq_of_toNat_eq
  have hy : (y.setWidth 80 <<< 64 : Addr).toNat = 2 ^ 64 * (y.toNat % 2 ^ 16) := by
    simp [Nat.shiftLeft_eq]
    omega
  rw [BitVec.toNat_or, hy, BitVec.toNat_setWidth, Nat.mod_eq_of_lt (by omega : x.toNat < 2 ^ 80),
    ← Nat.two_pow_add_eq_or_of_lt hx, BitVec.toNat_ofNat]
  omega

/-- The part of an address that ASPLIT gives. -/
theorem addrPart_eq_ofNat (f : RWord) (x : Addr) :
    (if f.m.getLsbD 0 then (x >>> 64).setWidth 64 else x.setWidth 64 : Word)
      = BitVec.ofNat 64 (if f.mod 0 0 = 0 then x.toNat % 2 ^ 64 else x.toNat / 2 ^ 64) := by
  rw [ite_mod_zero]
  split
  · exact BitVec.eq_of_toNat_eq (by simp)
  · exact BitVec.eq_of_toNat_eq (by simp [Nat.shiftRight_eq_div_pow])

/-! ### Masks -/

/-- Bit t of the mask that KSET makes of two words. -/
theorem joined_getLsbD (x y : Word) {t : Nat} (ht : t < 128) :
    (y.setWidth 128 <<< 64 ||| x.setWidth 128 : Mask).getLsbD t = if t < 64 then x.getLsbD t else y.getLsbD (t - 64) := by
  by_cases h : t < 64
  · simp [h, ht]
  · have hx : x.getLsbD t = false := BitVec.getLsbD_of_ge x t (by omega)
    simp [h, ht, hx]

/-- The part of a mask that KGET gives. -/
theorem maskPart_eq_extractLsb' (f : RWord) (m : Mask) :
    (if f.m.getLsbD 0 then maskHi m else maskLo m) = m.extractLsb' (if f.mod 0 0 = 0 then 0 else 64) 64 := by
  rw [ite_mod_zero]
  split
  · ext i hi
    simp [maskLo, BitVec.getLsbD_eq_getElem (by omega : i < 128)]
  · exact BitVec.setWidth_ushiftRight_eq_extractLsb

theorem popcount_eq_countP {n : Nat} (x : BitVec n) : popcount x = (List.range n).countP (fun t => x.getLsbD t) :=
  List.countP_eq_length_filter.symm

/-- The lowest lane of a mask: no lane below it is in the mask, and it is, unless the mask is empty (R127). -/
theorem lowest_spec (m : Mask) :
    (∀ t, t < lowest m → m.getLsbD t = false) ∧ lowest m ≤ 128 ∧ (lowest m < 128 → m.getLsbD (lowest m) = true) := by
  unfold lowest
  cases h : (List.range 128).find? (fun t => m.getLsbD t) with
  | none =>
    rw [List.find?_range_eq_none] at h
    simpa using h
  | some n =>
    obtain ⟨hn, hmem, hbelow⟩ := List.find?_range_eq_some.mp h
    have hlt := List.mem_range.mp hmem
    exact ⟨by simpa using hbelow, by simpa using hlt.le, fun _ => hn⟩

end Sys2Proof.Machine
end

section
/-! What the scalar float forms and SCVT give (R120 to R123). -/

namespace Sys2Proof

open Machine Claims

/-! ### The placing of a scalar float result (R120) -/

/-- The warp after a scalar float result, but for its destination: the flags set and lane 128 drawn. -/
def floated (w : Warp) (mode : Nat) (fl : Flags) : Warp := (w.flag fl).drawn mode [128] 1

theorem scalarFDone_eq_onWarp (s : State) (c : Ctx) (f : RWord) (mode : Nat) (r : Nat × Flags) :
    scalarFDone s c f mode r = onWarp s c (fun w =>
      (wroteS (floated w mode r.2) f (BitVec.ofNat 64 r.1), some (.uniform (BitVec.ofNat 64 r.1)))) := by
  simp [scalarFDone, scalarDone_eq_onWarp, onWarp, floated]

/-- A result without flags, in a mode that makes no draw, is a plain scalar result. -/
theorem scalarFDone_quiet (s : State) (c : Ctx) (f : RWord) (n : Nat) :
    scalarFDone s c f 0 (n, 0#8) = scalarDone s c f.dst f.w (BitVec.ofNat 64 n) := by
  simp [scalarFDone_eq_onWarp, scalarDone_eq_onWarp, floated, Warp.drawn]

theorem floated_frame (w : Warp) (mode : Nat) (fl : Flags) :
    { floated w mode fl with fpmode := w.fpmode, gen := w.gen } = w := by
  unfold floated Warp.drawn
  split <;> rfl

theorem givesF_of_scalarFDone {i : Instr} {sh : Shape} {f : RWord} {body : State → Ctx → Eff} {s : State} {sp : Split}
    {mode : Nat} {r : Nat × Flags}
    (hi : exec i s = issueR sh f body s) (h : Issues sh f sh.readsD [] s sp) (hc : sh.ctl = false)
    (hb : body (s.setWarp s.issuer (seen s sp)) (slotCtx s f sp)
      = scalarFDone (s.setWarp s.issuer (seen s sp)) (slotCtx s f sp) f mode r) :
    GivesF i f s sp mode r := by
  rw [scalarFDone_eq_onWarp] at hb
  have hexec := exec_of_onWarp hi h hc hb
  exact ⟨floated (seen s sp) mode r.2, hexec, Warp.drawn_fpmode _ _ _ _, fun t => Warp.genOf_drawn_scalar _ _ t,
    floated_frame _ _ _⟩

/-! ### The forms -/

section
variable {f : RWord} {s : State} {sp : Split}

theorem givesF_sfadd (h : Issues (shSf2 f) f false [] s sp) :
    GivesF (.sfadd f) f s sp f.rnd ((ftypeS f.vtype).add (roundOf (seen s sp) f.rnd 128 0) (seen s sp).ftz
      ((seen s sp).uniF (ftypeS f.vtype) f.a) ((seen s sp).uniF (ftypeS f.vtype) f.b)) := by
  refine givesF_of_scalarFDone rfl h rfl ?_
  simp only [State.warp_setWarp_same, slotCtx_wp, rndOf_eq_roundOf]

theorem givesF_sfmul (h : Issues (shSf2 f) f false [] s sp) :
    GivesF (.sfmul f) f s sp f.rnd ((ftypeS f.vtype).mul (roundOf (seen s sp) f.rnd 128 0) (seen s sp).ftz
      ((seen s sp).uniF (ftypeS f.vtype) f.a) ((seen s sp).uniF (ftypeS f.vtype) f.b)) := by
  refine givesF_of_scalarFDone rfl h rfl ?_
  simp only [State.warp_setWarp_same, slotCtx_wp, rndOf_eq_roundOf]

theorem givesF_sffma (h : Issues (shSf3 f) f false [] s sp) :
    GivesF (.sffma f) f s sp f.rnd ((ftypeS f.vtype).fma (roundOf (seen s sp) f.rnd 128 0) (seen s sp).ftz
      ((seen s sp).uniF (ftypeS f.vtype) f.a) ((seen s sp).uniF (ftypeS f.vtype) f.b)
      ((seen s sp).uniF (ftypeS f.vtype) f.c)) := by
  refine givesF_of_scalarFDone rfl h rfl ?_
  simp only [State.warp_setWarp_same, slotCtx_wp, rndOf_eq_roundOf]

/-- The comparison's result is the word of R122's flag. -/
theorem givesF_sfcmp (h : Issues (shSfcmp f) f false [] s sp) :
    let r := (ftypeS f.vtype).compare (seen s sp).ftz f.fcond
      ((seen s sp).uniF (ftypeS f.vtype) f.a) ((seen s sp).uniF (ftypeS f.vtype) f.b)
    GivesF (.sfcmp f) f s sp 0 ((flag r.1).toNat, r.2) := by
  refine givesF_of_scalarFDone rfl h rfl ?_
  simp only [State.warp_setWarp_same, slotCtx_wp]
  rfl

/-! ### Conversions (R123) -/

theorem ctypeF_of_lt {c : Nat} (h : c < 4) : ctypeF c = none := by
  interval_cases c <;> rfl

theorem givesF_scvt_float_of_float (h : Issues (shScvt f) f false [] s sp) {G H : Fmt}
    (hG : ctypeF (f.mod 5 3) = some G) (hH : ctypeF (f.mod 8 6) = some H) :
    GivesF (.scvt f) f s sp f.rnd
      (H.convert G (roundOf (seen s sp) f.rnd 128 0) (seen s sp).ftz ((seen s sp).uniF H f.a)) := by
  refine givesF_of_scalarFDone rfl h rfl ?_
  simp [convertType, convertRounds, hG, hH, rndOf_eq_roundOf]

theorem givesF_scvt_float_of_int (h : Issues (shScvt f) f false [] s sp) {G : Fmt}
    (hG : ctypeF (f.mod 5 3) = some G) (hsrc : f.mod 8 6 < 4) :
    GivesF (.scvt f) f s sp f.rnd
      (G.ofInt (roundOf (seen s sp) f.rnd 128 0) (seen s sp).ftz (val (ctypeI (f.mod 8 6)) ((seen s sp).uni f.a))) := by
  refine givesF_of_scalarFDone rfl h rfl ?_
  simp [convertType, convertRounds, ctypeBits, hG, ctypeF_of_lt hsrc, rndOf_eq_roundOf]

theorem givesF_scvt_int_of_float (h : Issues (shScvt f) f false [] s sp) {H : Fmt}
    (hdst : f.mod 5 3 < 4) (hH : ctypeF (f.mod 8 6) = some H) :
    let t := ctypeI (f.mod 5 3)
    let x := H.toInt (roundOf (seen s sp) f.rnd 128 0) (seen s sp).ftz (signed t) (bits t) ((seen s sp).uniF H f.a)
    GivesF (.scvt f) f s sp f.rnd ((put t x.1).toNat, x.2) := by
  refine givesF_of_scalarFDone rfl h rfl ?_
  simp [convertType, convertRounds, ctypeF_of_lt hdst, hH, rndOf_eq_roundOf]

theorem givesS_scvt_int_of_int (h : Issues (shScvt f) f false [] s sp) (hdst : f.mod 5 3 < 4) (hsrc : f.mod 8 6 < 4) :
    GivesS (.scvt f) f s sp (put (ctypeI (f.mod 5 3)) (val (ctypeI (f.mod 8 6)) ((seen s sp).uni f.a))) := by
  refine givesS_of_scalarDone rfl h rfl ?_
  simp [convertType, convertRounds, ctypeBits, ctypeF_of_lt hdst, ctypeF_of_lt hsrc, scalarFDone_quiet]

end

/-- Settles O2: each form rounds as its own lemma says, and a comparison gives its row of the table. -/
theorem scalarFloatResults : Obligations.ScalarFloatResults := by
  intro f s sp w F r
  refine ⟨fun h => ⟨givesF_sfadd h, givesF_sfmul h⟩, givesF_sffma, fun h => ?_, fun h => ⟨?_, ?_, ?_, ?_⟩⟩
  · exact ⟨_, _, Fmt.compare_table (ftypeS_wide f.vtype) w.ftz f.fcond _ _, givesF_sfcmp h⟩
  · exact fun G H => givesF_scvt_float_of_float h
  · exact fun G => givesF_scvt_float_of_int h
  · exact fun H => givesF_scvt_int_of_float h
  · exact givesS_scvt_int_of_int h

end Sys2Proof
end

section
/-! What the address forms and the mask forms give (R124, R127). -/

namespace Sys2Proof

open Machine Claims

/-! ### Address forms (R124) -/

section
variable {f : RWord} {g : IWord} {s : State} {sp : Split}

theorem givesA_aadd (h : Issues shAadd f false [] s sp) :
    GivesA (.aadd f) f s sp (BitVec.ofInt 80 (((seen s sp).areg f.a).toNat + ((seen s sp).uni f.b).toInt)) := by
  refine givesA_of_addrDone rfl h rfl ?_
  simp only [State.warp_setWarp_same, slotCtx_wp, add_signExtend_eq_ofInt]

theorem givesA_aaddi (h : Issues shAaddi (immR g) false [] s sp) :
    GivesA (.aaddi g) (immR g) s sp (BitVec.ofInt 80 (((seen s sp).areg g.a).toNat + g.imm.toInt)) := by
  refine givesA_of_addrDone rfl h rfl ?_
  simp only [State.warp_setWarp_same, slotCtx_wp, add_signExtend_eq_ofInt, immR]

theorem givesA_amov (h : Issues shAmov f false [] s sp) : GivesA (.amov f) f s sp ((seen s sp).areg f.a) := by
  refine givesA_of_addrDone rfl h rfl ?_
  simp only [State.warp_setWarp_same, slotCtx_wp]

theorem givesA_ajoin (h : Issues shAjoin f false [] s sp) :
    GivesA (.ajoin f) f s sp
      (BitVec.ofNat 80 (((seen s sp).uni f.b).toNat % 2 ^ 16 * 2 ^ 64 + ((seen s sp).uni f.a).toNat)) := by
  refine givesA_of_addrDone rfl h rfl ?_
  simp only [State.warp_setWarp_same, slotCtx_wp, joined_eq_ofNat]

theorem givesS_asplit (h : Issues shAsplit f false [] s sp) :
    GivesS (.asplit f) f s sp (BitVec.ofNat 64
      (if f.mod 0 0 = 0 then ((seen s sp).areg f.a).toNat % 2 ^ 64 else ((seen s sp).areg f.a).toNat / 2 ^ 64)) := by
  refine givesS_of_scalarDone rfl h rfl ?_
  simp only [State.warp_setWarp_same, slotCtx_wp, addrPart_eq_ofNat]

theorem givesS_acmp (h : Issues (shAcmp f) f false [] s sp) :
    GivesS (.acmp f) f s sp
      (flag (holds f.cond ((seen s sp).areg f.a).toNat ((seen s sp).areg f.b).toNat)) := by
  refine givesS_of_scalarDone rfl h rfl ?_
  have hcond : f.cond ≤ 5 := of_decide_eq_true (Shape.legal_of_check h.form)
  simp only [State.warp_setWarp_same, slotCtx_wp, boolWord_intCond hcond]

/-! ### Mask forms (R127) -/

/-- A two-source mask form gives the mask of its operation on what its split reads. -/
theorem givesK_of_mask2 {i : Instr} {sh : Shape} {op : Mask → Mask → Mask}
    (hi : exec i s = issueR sh f (mask2 op f) s) (h : Issues sh f sh.readsD [] s sp) (hc : sh.ctl = false) :
    GivesK i f s sp (op ((seen s sp).k sp.mask f.a.toNat) ((seen s sp).k sp.mask f.b.toNat)) := by
  refine givesK_of_maskDone hi h hc ?_
  simp only [mask2, State.warp_setWarp_same, slotCtx_wp, slotCtx_sp]

theorem givesK_kand (h : Issues shK3 f false [] s sp) :
    GivesK (.kand f) f s sp ((seen s sp).k sp.mask f.a.toNat &&& (seen s sp).k sp.mask f.b.toNat) :=
  givesK_of_mask2 rfl h rfl
theorem givesK_kor (h : Issues shK3 f false [] s sp) :
    GivesK (.kor f) f s sp ((seen s sp).k sp.mask f.a.toNat ||| (seen s sp).k sp.mask f.b.toNat) :=
  givesK_of_mask2 rfl h rfl
theorem givesK_kxor (h : Issues shK3 f false [] s sp) :
    GivesK (.kxor f) f s sp ((seen s sp).k sp.mask f.a.toNat ^^^ (seen s sp).k sp.mask f.b.toNat) :=
  givesK_of_mask2 rfl h rfl
theorem givesK_kandn (h : Issues shK3 f false [] s sp) :
    GivesK (.kandn f) f s sp ((seen s sp).k sp.mask f.a.toNat &&& ~~~ (seen s sp).k sp.mask f.b.toNat) :=
  givesK_of_mask2 (op := fun a b => a &&& ~~~ b) rfl h rfl
theorem givesK_knot (h : Issues shK2 f false [] s sp) :
    GivesK (.knot f) f s sp (~~~ (seen s sp).k sp.mask f.a.toNat) :=
  givesK_of_mask2 (op := fun a _ => ~~~ a) rfl h rfl
theorem givesK_kmov (h : Issues shK2 f false [] s sp) :
    GivesK (.kmov f) f s sp ((seen s sp).k sp.mask f.a.toNat) :=
  givesK_of_mask2 (op := fun a _ => a) rfl h rfl

theorem givesK_kset (h : Issues shKset f false [] s sp) :
    GivesK (.kset f) f s sp (((seen s sp).uni f.b).setWidth 128 <<< 64 ||| ((seen s sp).uni f.a).setWidth 128) := by
  refine givesK_of_maskDone rfl h rfl ?_
  simp only [State.warp_setWarp_same, slotCtx_wp]

theorem givesS_kget (h : Issues shKget f false [] s sp) :
    GivesS (.kget f) f s sp
      (((seen s sp).k sp.mask f.a.toNat).extractLsb' (if f.mod 0 0 = 0 then 0 else 64) 64) := by
  refine givesS_of_scalarDone rfl h rfl ?_
  simp only [State.warp_setWarp_same, slotCtx_wp, slotCtx_sp, maskPart_eq_extractLsb']

theorem givesS_kpopc (h : Issues shKcount f false [] s sp) :
    GivesS (.kpopc f) f s sp (BitVec.ofNat 64
      ((List.range 128).countP (fun t => ((seen s sp).k sp.mask f.a.toNat).getLsbD t))) := by
  refine givesS_of_scalarDone rfl h rfl ?_
  simp only [State.warp_setWarp_same, slotCtx_wp, slotCtx_sp, popcount_eq_countP]

theorem givesS_kfirst (h : Issues shKcount f false [] s sp) :
    GivesS (.kfirst f) f s sp (BitVec.ofNat 64 (lowest ((seen s sp).k sp.mask f.a.toNat))) := by
  refine givesS_of_scalarDone rfl h rfl ?_
  simp only [State.warp_setWarp_same, slotCtx_wp, slotCtx_sp]

end

/-- Settles O3: each form gives the value of its own lemma, and the masks are compared bit by bit. -/
theorem addressAndMaskResults : Obligations.AddressAndMaskResults := by
  refine ⟨fun f g s sp => ⟨givesA_aadd, givesA_aaddi, givesA_amov, givesA_ajoin, givesS_asplit, givesS_acmp⟩, ?_⟩
  intro f s sp w a b gives
  refine ⟨fun h => ⟨?_, ?_, ?_, ?_⟩, fun h => ⟨?_, ?_⟩, fun h => ?_, givesS_kget, fun h => ⟨givesS_kpopc h, ?_⟩⟩
  · exact ⟨a &&& b, fun t _ => BitVec.getLsbD_and, givesK_kand h⟩
  · exact ⟨a ||| b, fun t _ => BitVec.getLsbD_or, givesK_kor h⟩
  · exact ⟨a ^^^ b, fun t _ => BitVec.getLsbD_xor, givesK_kxor h⟩
  · exact ⟨a &&& ~~~ b, fun t ht => by simp [ht], givesK_kandn h⟩
  · exact ⟨~~~ a, fun t ht => by simp [ht], givesK_knot h⟩
  · exact ⟨a, fun t _ => rfl, givesK_kmov h⟩
  · exact ⟨_, fun t ht => joined_getLsbD _ _ ht, givesK_kset h⟩
  · exact ⟨_, givesS_kfirst h, lowest_spec _⟩

end Sys2Proof
end
